-- ==== Sys2Proof/Word.lean ====
section
/-! DEFINITION. The word types of the PLV-S1 and their plainest arithmetic (00 R4, R7; 12 R262). -/

namespace Sys2Proof

/-- One byte. -/
abbrev Byte := BitVec 8

/-- A 64-bit register, queue entry or counter. -/
abbrev W64 := BitVec 64

/-- A natural number as a 64-bit word, modulo 2^64. -/
abbrev w64 (n : Nat) : W64 := BitVec.ofNat 64 n

/-- Bits [hi:lo] of a natural number (R4, R7). -/
def bitsOf (x hi lo : Nat) : Nat := x / 2 ^ lo % 2 ^ (hi + 1 - lo)

/-- Bit i of a natural number. -/
def bitAt (x i : Nat) : Bool := x / 2 ^ i % 2 == 1

/-- SExt(x, n): the n-bit field x read as two's complement (R262). -/
def sext (x n : Nat) : Int :=
  if bitAt (x % 2 ^ n) (n - 1) then (x % 2 ^ n : Int) - 2 ^ n else (x % 2 ^ n : Int)

/-- An exact integer reduced modulo 2^w. -/
def wrapNat (x : Int) (w : Nat) : Nat := (x % (2 ^ w : Int)).toNat

/-- ceil(a ÷ b). -/
def ceilDiv (a b : Nat) : Nat := (a + b - 1) / b

end Sys2Proof
end

