-- ==== Sys2Proof/Syntax.lean ====
section
/-! DEFINITION. The instructions and steps of the PLV-S1 as syntax: one constructor for each row of spec/opcode_table.json (12_encodings.md; 95_what_each_step_holds.md). A field is a natural number whose bounds WellFormed states. -/

namespace Sys2Proof

/-- The fields of a 96-bit row word but for its opcode (12 R249, R250). fmt is TX followed by TYPE; rep is REP, rows minus 1. -/
structure RowF where
  fmt : Nat := 0
  rnd : Nat := 0
  psel : Nat := 0
  d : Nat := 0x3E000
  a : Nat := 0x3E000
  b : Nat := 0x3E000
  rep : Nat := 0
  aw : Nat := 31
  rs : Nat := 31
  acq : Bool := false
  rel : Bool := false
  scope : Nat := 0
  sat : Bool := false
  deriving DecidableEq, Repr, Inhabited

/-- The fields of a 192-bit matrix word but for its opcode (12 R254). resv is the field [50:0], which must be zero. -/
structure MatF where
  afmt : Nat := 0
  bfmt : Nat := 0
  cfmt : Nat := 0
  acc : Nat := 0
  arow : Nat := 0
  astr : Nat := 0
  brow : Nat := 0
  bstr : Nat := 0
  mm1 : Nat := 0
  nm1 : Nat := 0
  km1 : Nat := 0
  init : Bool := false
  exact : Bool := false
  sc : Nat := 0
  rnd : Nat := 0
  sat : Bool := false
  nvec : Nat := 0
  outctl : Nat := 0
  ofmt : Nat := 0
  orow : Nat := 0
  ostr : Nat := 0
  aw : Nat := 31
  rs : Nat := 31
  acq : Bool := false
  rel : Bool := false
  scope : Nat := 0
  resv : Nat := 0
  deriving DecidableEq, Repr, Inhabited

/-- A Ranrum flit after forward error correction (01 R16): the 16-byte header, six command slots of 16 bytes, the 128-byte data slot and the CRC. -/
structure Flit where
  hdr : Nat := 0
  slots : List Nat := []
  data : Nat := 0
  crc : Nat := 0
  deriving DecidableEq, Repr, Inhabited

/-- A flit as a port's receiver hands it on, with the number of symbols that FEC corrected in it (01 R23). -/
structure Arrival where
  flit : Flit := {}
  corrected : Nat := 0
  deriving DecidableEq, Repr, Inhabited

/-- What the host writes to a function's PRI capability: whether PRI is enabled, and how many page requests may be outstanding (04 R72). -/
structure PriSetting where
  on : Bool := false
  alloc : Nat := 0
  deriving DecidableEq, Repr, Inhabited

/-- One command of a flit with the data bytes that belong to it (01 R17). -/
structure PeerCmd where
  src : Nat := 0
  op : Nat := 0
  ctx : Nat := 0
  tag : Nat := 0
  paddr : Nat := 0
  len : Nat := 0
  ord : Nat := 0
  /-- The operation and width of an atomic, numbered as the FN of amo (13 R280; log 15). -/
  fn : Nat := 0
  data : Nat := 0
  deriving DecidableEq, Repr, Inhabited

/-- A firmware stage in the module flash (02 R32, R33): its bytes, its version, and its ECDSA P-521 signature (r, s). -/
structure Stage where
  code : List Byte := []
  version : Nat := 0
  r : Nat := 0
  s : Nat := 0
  deriving DecidableEq, Repr, Inhabited

/-- What the module flash holds (02 R32): stage one and the service kernel. It is empty at reset, and then verifies under no key (log 1). -/
structure Firmware where
  stage1 : Stage := {}
  kern : Stage := {}
  /-- What the kernel grants interface 0 once it runs: every active core or none, and its EVCOUNT (log 13). -/
  grant0 : Bool := true
  evcount0 : Nat := 64
  deriving DecidableEq, Repr, Inhabited

/-- One instruction or step of the part. -/
inductive Instr where
  -- Steps with no encoding of their own; their operands carry what the outside or the arbiter chooses
  /-- COLD_RESET (R32): Power-on or the module reset pin runs the whole bring-up sequence from settling the rails to publishing the identity record, or ends in the recovery state. -/
  | coldReset (trainOk testOk : Bool)
  /-- DEVICE_RESET (R31): A function-level reset of the physical function runs bring-up from step 3 without re-checking module power. -/
  | deviceReset (trainOk testOk : Bool)
  /-- REG_WRITE (R5): A write to a register that has no row of its own acts per its access type: RW sets the field, W1C clears bits, RO is ignored, reserved bits are ignored. space: 0 the host on BAR0, 1 an access of another size, 2 a read of BAR2, 3 BAR4, 4 the service register space, 5 the kernel's grant, 6 the host on 8 bytes of its own memory. -/
  | regWrite (space vi off v : Nat)
  /-- PATROL_SCRUB (R34): Patrol scrubbing reads and rewrites every HBM4E and LPDDR6 sector at least once every 24 hours, correcting correctable errors in place. found: 0 no error, 1 a correctable one, 2 an uncorrectable one (R13). -/
  | patrolScrub (sector found : Nat)
  /-- HOST_ADD (R43): A host write at offset 0x00 of a counter block adds the value to the event counter modulo 2^64. -/
  | hostAdd (vi idx x : Nat)
  /-- WAIT (R43): A host write at offset 0x08 arms a wait with the given threshold, replacing any armed wait. -/
  | hostWait (vi idx x : Nat)
  /-- TRIGT (R43): A host write at offset 0x10 sets the trigger threshold, re-arming an armed trigger with the new threshold. -/
  | trigt (vi idx x : Nat)
  /-- ARM (R43): A TRIGACT write with bit 12 set arms a trigger with target index and amount, or is refused for a target beyond EVCOUNT. -/
  | arm (vi idx x : Nat)
  /-- DISARM (R43): A TRIGACT write with bit 12 clear disarms the counter's trigger. -/
  | disarm (vi idx x : Nat)
  /-- FLIT_RECEIVE (R18): A received flit is CRC-checked, then delivered command by command if addressed to this device, forwarded with TTL decreased, or discarded and counted in PERR. -/
  | flitReceive (port : Nat) (f : Arrival)
  /-- RETRAIN (R20): A port's training ends, bringing it UP or, after three failed retrains, to FAILED until reset. -/
  | retrain (port : Nat) (ok : Bool) (lanes : Nat)
  /-- TRANSLATION_COMPLETION (R71): An ATS translation completion is installed in the ATC, or a denied right makes the access fault host page not present. -/
  | translationCompletion (pasid page size haddr : Nat) (r w : Bool)
  /-- PAGE_REQUEST_GROUP_RESPONSE (R72): A PRI response retries the access on Success, or makes it fault host page unavailable on Invalid Request or Response Failure. -/
  | pageRequestGroupResponse (pasid page code : Nat)
  /-- INVALIDATE_REQUEST (R73): An ATS Invalidate Request removes every matching ATC entry at once. -/
  | invalidateRequest (pasid base size : Nat)
  /-- FAULT_RESUME (R75): The kernel resolves a resumable fault and resumes the faulting scalar access, held ring or stopped copy. -/
  | faultResume (core agent : Nat) (resolved : Bool)
  /-- COPY_START (R339): An 8-byte store to a channel's start register, once the channel is idle, captures template and window, checks them, clears destination full bits, awaits and acquires. -/
  | copyStart (core x ch data : Nat)
  /-- COPY_LINE_LAND (R340): A line of a copy lands, setting its full bit and counting 128 bytes on the byte barrier, or sets the barrier to overrun. -/
  | copyLineLand (core ch line : Nat)
  -- The prefix word
  /-- PFX (R240): A prefix word supplies rounding, saturation and high immediate bits to the following word and executes with it as one instruction, or traps orphan prefix. -/
  | pfx (rnd : Nat) (rv sat : Bool) (hi : Nat)
  -- Scalar words
  /-- ADD (R265): sD gets sA plus sB modulo 2^64, or clamped with .sat. -/
  | add (d a b : Nat)
  /-- SUB (R265): sD gets sA minus sB modulo 2^64, or clamped with .sat. -/
  | sub (d a b : Nat)
  /-- AND (R265): Bitwise AND of sA and sB into sD. -/
  | iand (d a b : Nat)
  /-- OR (R265): Bitwise OR of sA and sB into sD. -/
  | ior (d a b : Nat)
  /-- XOR (R265): Bitwise XOR of sA and sB into sD. -/
  | ixor (d a b : Nat)
  /-- SLL (R265): sD gets sA shifted left by sB[5:0]. -/
  | sll (d a b : Nat)
  /-- SRL (R265): sD gets sA shifted right logically by sB[5:0]. -/
  | srl (d a b : Nat)
  /-- SRA (R265): sD gets sA shifted right arithmetically by sB[5:0]. -/
  | sra (d a b : Nat)
  /-- MUL (R265): sD gets the low 64 bits of the product, or the clamped product with .sat. -/
  | mul (d a b : Nat)
  /-- MULH (R265): sD gets the high 64 bits of the signed product. -/
  | mulh (d a b : Nat)
  /-- MULHU (R265): sD gets the high 64 bits of the unsigned product. -/
  | mulhu (d a b : Nat)
  /-- DIV (R265): Signed division truncated toward zero, with fixed results for zero divisor and overflow. -/
  | div (d a b : Nat)
  /-- DIVU (R265): Unsigned division, all ones for a zero divisor. -/
  | divu (d a b : Nat)
  /-- REM (R265): Signed remainder, sA for a zero divisor. -/
  | rem (d a b : Nat)
  /-- REMU (R265): Unsigned remainder, sA for a zero divisor. -/
  | remu (d a b : Nat)
  /-- MIN (R265): sD gets the signed smaller of sA and sB. -/
  | min (d a b : Nat)
  /-- MAX (R265): sD gets the signed larger of sA and sB. -/
  | max (d a b : Nat)
  /-- MINU (R265): sD gets the unsigned smaller of sA and sB. -/
  | minu (d a b : Nat)
  /-- MAXU (R265): sD gets the unsigned larger of sA and sB. -/
  | maxu (d a b : Nat)
  /-- CLZ (R265): sD gets the count of leading zero bits of sA. -/
  | clz (d a : Nat)
  /-- CTZ (R265): sD gets the count of trailing zero bits of sA. -/
  | ctz (d a : Nat)
  /-- POPC (R265): sD gets the count of set bits of sA. -/
  | popc (d a : Nat)
  /-- SEXT (R265): sD gets sA's low 8, 16 or 32 bits sign-extended. -/
  | sext (d a fmt : Nat)
  /-- ZEXT (R265): sD gets sA's low 8, 16 or 32 bits zero-extended. -/
  | zext (d a fmt : Nat)
  /-- ADDI (R266): sD gets sA plus the sign-extended immediate modulo 2^64. -/
  | addi (d a imm : Nat)
  /-- ANDI (R266): sD gets sA AND the zero-extended immediate. -/
  | andi (d a imm : Nat)
  /-- ORI (R266): sD gets sA OR the zero-extended immediate. -/
  | ori (d a imm : Nat)
  /-- XORI (R266): sD gets sA XOR the zero-extended immediate. -/
  | xori (d a imm : Nat)
  /-- SLLI (R266): sD gets sA shifted left by n. -/
  | slli (d a n : Nat)
  /-- SRLI (R266): sD gets sA shifted right logically by n. -/
  | srli (d a n : Nat)
  /-- SRAI (R266): sD gets sA shifted right arithmetically by n. -/
  | srai (d a n : Nat)
  /-- MOVI (R266): sD gets the sign-extended immediate. -/
  | movi (d imm : Nat)
  /-- MOVHI (R266): sD gets the immediate times 2^16. -/
  | movhi (d imm : Nat)
  /-- CMPI (R267): cD gets whether sA compares with the immediate under the condition code. -/
  | cmpi (cond c a imm : Nat)
  /-- CMP_EQ (R267): cD gets whether sA equals sB. -/
  | cmpEq (c a b : Nat)
  /-- CMP_NE (R267): cD gets whether sA differs from sB. -/
  | cmpNe (c a b : Nat)
  /-- CMP_LT (R267): cD gets whether sA is signed-less than sB. -/
  | cmpLt (c a b : Nat)
  /-- CMP_GE (R267): cD gets whether sA is signed-greater or equal to sB. -/
  | cmpGe (c a b : Nat)
  /-- CMP_LTU (R267): cD gets whether sA is unsigned-less than sB. -/
  | cmpLtu (c a b : Nat)
  /-- CMP_GEU (R267): cD gets whether sA is unsigned-greater or equal to sB. -/
  | cmpGeu (c a b : Nat)
  /-- CAND (R267): cD gets cA AND cB. -/
  | cand (c a b : Nat)
  /-- COR (R267): cD gets cA OR cB. -/
  | cor (c a b : Nat)
  /-- CXOR (R267): cD gets cA XOR cB. -/
  | cxor (c a b : Nat)
  /-- CNOT (R267): cD gets 1 minus cA. -/
  | cnot (c a : Nat)
  /-- SEL (R267): sD gets sA if cK is 1, otherwise sB. -/
  | sel (d a b k : Nat)
  /-- FADD (R269): Binary64 addition rounded once under the mode. -/
  | fadd (d a b : Nat)
  /-- FSUB (R269): Binary64 subtraction rounded once under the mode. -/
  | fsub (d a b : Nat)
  /-- FMUL (R269): Binary64 multiplication rounded once under the mode. -/
  | fmul (d a b : Nat)
  /-- FDIV (R269): Binary64 division rounded once, with DZ and NV special cases. -/
  | fdiv (d a b : Nat)
  /-- FSQRT (R269): Binary64 square root rounded once, NaN and NV below zero. -/
  | fsqrt (d a : Nat)
  /-- FMA (R269): sD gets sA times sB plus sD with one rounding. -/
  | fma (d a b : Nat)
  /-- FMIN (R269): sD gets the smaller binary64 operand, -0 below +0, with NaN rules. -/
  | fmin (d a b : Nat)
  /-- FMAX (R269): sD gets the larger binary64 operand, with NaN rules. -/
  | fmax (d a b : Nat)
  /-- FABS (R269): sD gets sA with its sign cleared; a NaN gives the canonical NaN. -/
  | fabs (d a : Nat)
  /-- FNEG (R269): sD gets sA with its sign inverted; a NaN gives the canonical NaN. -/
  | fneg (d a : Nat)
  /-- CVTFI (R270): Converts binary64 to the named integer format, rounding under the mode. -/
  | cvtfi (d a fmt : Nat)
  /-- CVTIF (R270): Converts the named integer format to binary64. -/
  | cvtif (d a fmt : Nat)
  /-- CVTFF (R270): Converts binary64 to a narrower float format, zero-extended in the low bits. -/
  | cvtff (d a fmt : Nat)
  /-- CVTFT (R270): Converts the low bits in the named float format exactly to binary64. -/
  | cvtft (d a fmt : Nat)
  /-- FCMP_EQ (R269): cD gets whether sA equals sB as binary64. -/
  | fcmpEq (c a b : Nat)
  /-- FCMP_LT (R269): cD gets whether sA is less than sB as binary64. -/
  | fcmpLt (c a b : Nat)
  /-- FCMP_LE (R269): cD gets whether sA is less than or equal to sB as binary64. -/
  | fcmpLe (c a b : Nat)
  /-- FCMP_UN (R269): cD gets whether either operand is NaN. -/
  | fcmpUn (c a b : Nat)
  /-- FCLASS (R269): sD gets one bit naming the class of sA, setting no flag. -/
  | fclass (d a : Nat)
  /-- CSRR (R271): sD gets the control register at the given offset. -/
  | csrr (d off : Nat)
  /-- CSRW (R271): Writes sA to the control register at the given offset, with its checks. -/
  | csrw (a off : Nat)
  /-- LD (R278): Ordinary load of the named width at sA plus displacement, sign- or zero-extended. -/
  | ld (d a ty disp : Nat)
  /-- ST (R278): Ordinary store of the low bytes of sD at sA plus displacement. -/
  | st (d a ty disp : Nat)
  /-- LDA (R279): Strong load, relaxed or acquiring, of W bits at sA. -/
  | lda (d a width scope order : Nat)
  /-- STL (R279): Strong store, relaxed or releasing, of the low W bits of sB at sA. -/
  | stl (a b width scope order : Nat)
  /-- AMO_ADD (R280): Atomic add at sA returning the old value. -/
  | amoAdd (d a b width scope order : Nat)
  /-- AMO_SWAP (R280): Atomic swap at sA returning the old value. -/
  | amoSwap (d a b width scope order : Nat)
  /-- AMO_CAS (R280): Atomic compare-and-swap against sD, returning the old value in sD. -/
  | amoCas (d a b width scope order : Nat)
  /-- AMO_AND (R280): Atomic AND at sA returning the old value. -/
  | amoAnd (d a b width scope order : Nat)
  /-- AMO_OR (R280): Atomic OR at sA returning the old value. -/
  | amoOr (d a b width scope order : Nat)
  /-- AMO_XOR (R280): Atomic XOR at sA returning the old value. -/
  | amoXor (d a b width scope order : Nat)
  /-- AMO_MIN (R280): Atomic signed minimum at sA returning the old value. -/
  | amoMin (d a b width scope order : Nat)
  /-- AMO_MAX (R280): Atomic signed maximum at sA returning the old value. -/
  | amoMax (d a b width scope order : Nat)
  /-- AMO_MINU (R280): Atomic unsigned minimum at sA returning the old value. -/
  | amoMinu (d a b width scope order : Nat)
  /-- AMO_MAXU (R280): Atomic unsigned maximum at sA returning the old value. -/
  | amoMaxu (d a b width scope order : Nat)
  /-- AMO_FADD (R280): Atomic floating-point add with rne, applied on arrival or held in ordered mode. -/
  | amoFadd (d a b width scope order : Nat)
  /-- XADD (R281): Exact add of binary64 sB into the exact accumulator object at sA. -/
  | xadd (a b scope order : Nat)
  /-- XRD (R281): Exact read of the object at sA, rounded once to binary64 into sD. -/
  | xrd (d a scope order : Nat)
  /-- EVADD (R283): Adds sB to the event counter with local index sA as a release at system scope, returning the old value. -/
  | evadd (d a b : Nat)
  /-- EVWAIT (R283): Stalls until the counter reaches sB, then returns its value as an acquire at system scope. -/
  | evwait (d a b : Nat)
  /-- EVRD (R283): Reads the event counter as a relaxed strong read. -/
  | evrd (d a : Nat)
  /-- PBT (R272): Sets bN to the block address at the given block offset from the pbt. -/
  | pbt (bn imm : Nat)
  /-- PBR (R272): Sets bN to sA without checks. -/
  | pbr (bn a : Nat)
  /-- BR (R272): Branches to bN after two delay instructions if the condition holds, or traps alignment. -/
  | br (bn x : Nat)
  /-- BRL (R272): Always-taken branch to bN that sets the link in sD. -/
  | brl (bn d : Nat)
  /-- LOOP (R274): Arms a hardware loop level with count sA over the blocks up to the end block, or skips it for a zero count. -/
  | loopHw (n a imm : Nat)
  /-- TRAP (R292): Raises software trap with TVAL n. -/
  | trap (n : Nat)
  /-- SYSCALL (R293): Posts a request block to the home slice's kernel and stalls until its status returns in sD. -/
  | syscall (d a : Nat)
  /-- FENCE (R284): Orders earlier strong accesses and publications before later ones at the scope. -/
  | fence (scope : Nat)
  /-- PHASE (R284): Publishes the core's ordinary writes and then refreshes its snapshot at the scope. -/
  | phase (scope : Nat)
  /-- PHASE_PUB (R284): Publishes the core's ordinary writes at the scope. -/
  | phasePub (scope : Nat)
  /-- PHASE_REF (R284): Refreshes the core's snapshot with writes published at the scope. -/
  | phaseRef (scope : Nat)
  /-- REP (R277): Repeats the next instruction sA times. -/
  | repA (a : Nat)
  /-- REPI (R277): Repeats the next instruction n times. -/
  | repi (n : Nat)
  /-- LCGET (R276): sD gets the loop counter lcN. -/
  | lcget (d n : Nat)
  /-- LCBWAIT (R276): Waits for a nonzero flag in a loop-count block and loads lc0 and lc1 from it without arming. -/
  | lcbwait (a : Nat)
  /-- RELROW (R285): Releases sA words to the row ring, or to the open bank. -/
  | relrow (a : Nat)
  /-- RELMAT (R285): Releases sA words to the matrix ring, or to the open bank. -/
  | relmat (a : Nat)
  /-- SEMRAISE (R286): Adds 1 to hsN as a release at core scope. -/
  | semraise (n : Nat)
  /-- SEMWAIT (R286): Waits until hsN is nonzero and decrements it as an acquire. -/
  | semwait (n : Nat)
  /-- BSEL (R119): Chooses bank A or B by cK and closes the banks, resolving held words and tagged copies together. -/
  | bsel (k : Nat)
  /-- BBARM (R129): Adds sA to a byte barrier's count, or restarts it from overrun. -/
  | bbarm (n a : Nat)
  /-- BBWAIT (R288): Stalls until the byte barrier's count is 0, trapping on overrun. -/
  | bbwait (n : Nat)
  /-- CBCONS (R288): Advances a circular buffer's RCNT by sA, emptying the rows passed. -/
  | cbcons (n a : Nat)
  /-- CBSET (R288): Writes a circular buffer descriptor from 32 scratchpad bytes. -/
  | cbset (n a : Nat)
  /-- EMPTY (R288): Clears the full bit of the named scratchpad line. -/
  | empty (a : Nat)
  /-- FULLSET (R288): Sets the full bit of the named scratchpad line as a release at core scope. -/
  | fullset (a : Nat)
  /-- PWR (R289): Sets a tile bank's power state after no executing word names it. -/
  | pwr (bank state : Nat)
  /-- RCINIT_ENC (R349): Initialises a stream for encoding from a bitstream descriptor. -/
  | rcinitEnc (x a : Nat)
  /-- RCINIT_DEC (R349): Initialises a stream for decoding, reading five bytes of the bitstream. -/
  | rcinitDec (x a : Nat)
  /-- RCENC (R350): Encodes symbol sA under a probability register, emitting bytes through ShiftLow. -/
  | rcenc (x y a : Nat)
  /-- RCDEC (R352): Decodes one symbol into sD under a probability register. -/
  | rcdec (d x y : Nat)
  /-- RCDECN (R195): Decodes one symbol in each of k consecutive streams under registers from q4, pushing them to q5 all or nothing. -/
  | rcdecn (x k : Nat)
  /-- RCFLUSH (R351): Runs ShiftLow five times to complete the bitstream. -/
  | rcflush (x : Nat)
  /-- RCSAVE (R354): Writes the stream's 64-byte image to scratchpad. -/
  | rcsave (x a : Nat)
  /-- RCLOAD (R354): Loads a stream from a checked 64-byte image. -/
  | rcload (x a : Nat)
  /-- CDLD (R354): Loads a probability register from a checked 192-byte image. -/
  | cdld (y a : Nat)
  /-- CDSAVE (R354): Writes a probability register's 192-byte image. -/
  | cdsave (y a : Nat)
  /-- SWOPEN (R206): Waits for the task's copies to end and opens a speculative window from a descriptor. -/
  | swopen (n a : Nat)
  /-- SWSTEP (R208): Waits for the step's ring words, versions its streams and advances STEP. -/
  | swstep (n : Nat)
  /-- SWCOMMIT (R211): Keeps steps 0 to j-1 as one release, undoes the rest and closes the window. -/
  | swcommit (d n a : Nat)
  /-- SWABORT (R212): Discards every step of the window and closes it. -/
  | swabort (n : Nat)
  /-- SWALLOC (R210): Allocates and maps one 64 KiB page for the window, returning its address or 0. -/
  | swalloc (d n : Nat)
  /-- SWSTAT (R205): Returns the window's status word. -/
  | swstat (d n : Nat)
  /-- RELC (R216): Creates a tail context that continues after the relc while the caller resumes at bN, or falls back with sD 2. -/
  | relc (c d a bn : Nat)
  /-- TJOIN (R217): Waits until the tail in slot sA has ended. -/
  | tjoin (a : Nat)
  /-- FPOP (R218): Waits until no live tail has FMARK below sA, then sets sD to sA. -/
  | fpop (d a : Nat)
  -- Row words
  /-- ROW_NOTIFY (R112): Row ring word that awaits, raises and then ends the row ring for the item. -/
  | rowNotify (f : RowF)
  /-- VNOP (R303): Row word that performs only its await, acquire, release and raise. -/
  | vnop (f : RowF)
  /-- VADD (R305): Row element-wise addition, rounded once or wrapped. -/
  | vadd (f : RowF)
  /-- VSUB (R305): Row element-wise subtraction. -/
  | vsub (f : RowF)
  /-- VMUL (R305): Row element-wise multiplication. -/
  | vmul (f : RowF)
  /-- VFMA (R305): Row fused multiply-add into D. -/
  | vfma (f : RowF)
  /-- VFMS (R305): Row fused multiply-subtract of D. -/
  | vfms (f : RowF)
  /-- VDIV (R305): Row element-wise division. -/
  | vdiv (f : RowF)
  /-- VSQRT (R305): Row element-wise square root. -/
  | vsqrt (f : RowF)
  /-- VMIN (R305): Row element-wise minimum. -/
  | vmin (f : RowF)
  /-- VMAX (R305): Row element-wise maximum. -/
  | vmax (f : RowF)
  /-- VABS (R305): Row element-wise absolute value. -/
  | vabs (f : RowF)
  /-- VNEG (R305): Row element-wise negation. -/
  | vneg (f : RowF)
  /-- VAND (R307): Row bitwise AND. -/
  | vand (f : RowF)
  /-- VOR (R307): Row bitwise OR. -/
  | vor (f : RowF)
  /-- VXOR (R307): Row bitwise XOR. -/
  | vxor (f : RowF)
  /-- VSHL (R307): Row element-wise left shift. -/
  | vshl (f : RowF)
  /-- VSHR (R307): Row element-wise right shift. -/
  | vshr (f : RowF)
  /-- VMOV (R308): Copies active elements' bits from A to D. -/
  | vmov (f : RowF)
  /-- VSEL (R308): Selects each element from A or B by the predicate. -/
  | vsel (f : RowF)
  /-- VCMP_EQ (R309): Row equality compare into a row or predicate. -/
  | vcmpEq (f : RowF)
  /-- VCMP_NE (R309): Row inequality compare. -/
  | vcmpNe (f : RowF)
  /-- VCMP_LT (R309): Row less-than compare. -/
  | vcmpLt (f : RowF)
  /-- VCMP_LE (R309): Row less-or-equal compare. -/
  | vcmpLe (f : RowF)
  /-- VCMP_GT (R309): Row greater-than compare. -/
  | vcmpGt (f : RowF)
  /-- VCMP_UN (R309): Row unordered compare. -/
  | vcmpUn (f : RowF)
  /-- VPAND (R310): Predicate AND of all 1 024 bits. -/
  | vpand (f : RowF)
  /-- VPOR (R310): Predicate OR of all 1 024 bits. -/
  | vpor (f : RowF)
  /-- VPNOT (R310): Predicate NOT of all 1 024 bits. -/
  | vpnot (f : RowF)
  /-- VVOTE_ANY (R310): Pushes 1 to q1 if any participating predicate group is set. -/
  | vvoteAny (f : RowF)
  /-- VVOTE_ALL (R310): Pushes 1 to q1 if every participating predicate group is set. -/
  | vvoteAll (f : RowF)
  /-- VCVT (R311): Converts rows between formats, widening or packing. -/
  | vcvt (f : RowF)
  /-- VQNT (R312): Writes a scaled quantised tile and its trailer. -/
  | vqnt (f : RowF)
  /-- VQCHK (R313): Checks a quantised tile's trailer and widens it. -/
  | vqchk (f : RowF)
  /-- VEXP (R314): Correctly rounded e to the power of each element. -/
  | vexp (f : RowF)
  /-- VLN (R314): Correctly rounded natural logarithm. -/
  | vln (f : RowF)
  /-- VTANH (R314): Correctly rounded hyperbolic tangent. -/
  | vtanh (f : RowF)
  /-- VSIGM (R314): Correctly rounded logistic sigmoid. -/
  | vsigm (f : RowF)
  /-- VRSQRT (R314): Correctly rounded reciprocal square root. -/
  | vrsqrt (f : RowF)
  /-- VRCP (R314): Correctly rounded reciprocal. -/
  | vrcp (f : RowF)
  /-- VSIN (R314): Correctly rounded sine. -/
  | vsin (f : RowF)
  /-- VCOS (R314): Correctly rounded cosine. -/
  | vcos (f : RowF)
  /-- VRSUM (R316): Reduces each row to its exact sum rounded once, to an element or q1. -/
  | vrsum (f : RowF)
  /-- VRMAX (R316): Reduces each row to its largest active element. -/
  | vrmax (f : RowF)
  /-- VRMIN (R316): Reduces each row to its smallest active element. -/
  | vrmin (f : RowF)
  /-- VRARGMAX (R316): Reduces each row to the lowest index of its largest non-NaN element. -/
  | vrargmax (f : RowF)
  /-- VDOT (R316): Reduces each row pair to its exact dot product rounded once. -/
  | vdot (f : RowF)
  /-- VXACC (R317): Adds each active element exactly into exact accumulator objects in memory. -/
  | vxacc (f : RowF)
  /-- VNOISE (R318): Writes Gumbel noise for SEED, POS and index from q0 to each element. -/
  | vnoise (f : RowF)
  /-- VCDF (R319): Builds CDF cells or a probability register image from row weights. -/
  | vcdf (f : RowF)
  /-- VLD (R320): Loads rows from virtual memory at a q0 address and stride. -/
  | vld (f : RowF)
  /-- VST (R320): Stores active elements of rows to virtual memory. -/
  | vst (f : RowF)
  /-- VPERM (R321): Permutes elements of A by indices in B. -/
  | vperm (f : RowF)
  /-- VBCAST (R321): Broadcasts one element of A chosen by q0 to D. -/
  | vbcast (f : RowF)
  /-- VEXT (R321): Extracts a shifted window of A followed by B. -/
  | vext (f : RowF)
  /-- VTOPK (R322): Ranks logits and writes the top KC candidates with indices. -/
  | vtopk (f : RowF)
  /-- VSMAX (R323): Computes a softmax over each row with a fixed sequence of roundings. -/
  | vsmax (f : RowF)
  -- Matrix words
  /-- MAT_NOTIFY (R324): Matrix word that awaits, raises and then ends the matrix ring. -/
  | matNotify (f : MatF)
  /-- MNOP (R324): Matrix word that performs only its await, acquire, release and raise. -/
  | mnop (f : MatF)
  /-- MMUL (R329): Accumulates A times B in groups with one rounding each, or exactly in exact mode, with optional store-out. -/
  | mmul (f : MatF)
  /-- MMV (R332): Streams A past resident vectors with mmul's results at a higher rate. -/
  | mmv (f : MatF)
  /-- MTR (R333): Accumulates the transpose of A. -/
  | mtr (f : MatF)
  /-- MPERM (R333): Accumulates A with rows permuted by an index row. -/
  | mperm (f : MatF)
  /-- MRRED (R333): Accumulates the row sums of A. -/
  | mrred (f : MatF)
  /-- MRD (R331): Stores accumulator elements rounded to OFMT to scratchpad or a tile. -/
  | mrd (f : MatF)
  /-- MWR (R334): Writes accumulator elements from scratchpad rows and sets the tag. -/
  | mwr (f : MatF)
  /-- MCLR (R334): Zeroes an accumulator or pair and sets its tag. -/
  | mclr (f : MatF)
  -- Sampler words
  /-- LDC (R363): Loads n candidates from a scratchpad row and sets COUNT. -/
  | smpLdc (row n : Nat)
  /-- MASK (R363): Sets to minus infinity every candidate whose index lies outside kA to kB. -/
  | smpMask (a b : Nat)
  /-- TEMP (R363): Divides every candidate value by temperature xA. -/
  | smpTemp (a : Nat)
  /-- TOPK (R363): Ranks the candidates and keeps the first kA. -/
  | smpTopk (a : Nat)
  /-- TOPP (R363): Ranks the candidates and keeps the least prefix reaching mass xA. -/
  | smpTopp (a : Nat)
  /-- ARGMAX (R363): Sets xD and kD to the largest value and its lowest index. -/
  | smpArgmax (d : Nat)
  /-- ACCEPT (R363): Sets kD to whether u times q is at most the target probability of token kB. -/
  | smpAccept (d a b : Nat)
  /-- EMIT (R363): Places an OK reply with token kA, or NOCAND, in q7. -/
  | smpEmit (a : Nat)
  /-- STAT (R363): Sets kD to COUNT. -/
  | smpStat (d : Nat)
  /-- MOVX (R363): Copies xA to xD. -/
  | smpMovx (d a : Nat)
  /-- MOVK (R363): Copies kA to kD. -/
  | smpMovk (d a : Nat)
  /-- LDX (R363): Loads xD from 4 scratchpad bytes. -/
  | smpLdx (d addr : Nat)
  /-- LDK (R363): Sets kD to the immediate. -/
  | smpLdk (d imm : Nat)
  /-- SEED (R363): Loads SEED and POS from 16 scratchpad bytes. -/
  | smpSeed (addr : Nat)
  /-- POSADD (R363): Adds the immediate to POS modulo 2^64. -/
  | smpPosadd (imm : Nat)
  -- Fates of words and entries, firmware, capabilities
  /-- ILLEGAL_INSTRUCTION (R259): A scalar word with a reserved major, FN, SUB, TY or OP value traps illegal instruction before any effect. -/
  | illegalInstruction (w : Nat)
  /-- ILL_FORMED_WORD (R260): A row or matrix word with a reserved opcode is found ill-formed at dequeue, halts its ring and leads to an engine fault. -/
  | illFormedWord (ring w : Nat)
  /-- ILLFORMED_SAMPLER_WORD (R261): A sampler word with a reserved OP halts its sequence context and places an ILLFORMED reply. -/
  | illformedSamplerWord (w : Nat)
  /-- FIRMWARE_UPDATE (R32): In the recovery state the endpoint accepts a firmware update from the host. -/
  | firmwareUpdate (f : Firmware)
  /-- ATS_PRI_CAPABILITY_WRITE (R72): The host disables or enables ATS or PRI in the function's capabilities, making host accesses fault or ending the fail-at-once state after a Response Failure. -/
  | atsPriCapabilityWrite (vi : Nat) (ats : Bool) (pri : PriSetting)
  -- Words and steps without operands. A step names its unit and argument in the agent that makes the move (State.cur).
  /-- WARM_RESTART (R61): A function-level reset of virtual function n terminates n's tasks, frees its slots and memory, zeroes its counters and resets its register block. Unit: interface. -/
  | warmRestart
  /-- HOT_RESET (R61): A PCIe hot reset or link-down performs a warm restart of every interface at once. -/
  | hotReset
  /-- TIMING_REPLAY (R27): A cycle whose late copy disagrees is cancelled, the pipelines stall 4 cycles and the cycle re-executes, adding 1 to REPLAYCNT. Unit: cluster. -/
  | timingReplay
  /-- FLL_STEP (R25): Each microsecond the cluster FLL moves one code toward min(CFREQ, CCAP), clearing CSTAT[0] when it reaches the target. Unit: cluster. -/
  | fllStep
  /-- LDO_WINDOW (R28): At the end of each 2^20-cycle window the LDO controller moves the supply one 5 mV step toward the voltage that meets REPLAYTGT, within the fused range. Unit: cluster. -/
  | ldoWindow
  /-- CFREQ_WRITE (R25): A service-core write to CFREQ sets the requested code, or is refused and sets CSTAT[2], and starts voltage and frequency movement under R29. Unit: cluster; argument: the value written. -/
  | cfreqWrite
  /-- CCAP_WRITE (R25): A write to CCAP sets the frequency ceiling, or is refused and sets CSTAT[2], and may change the target code under R29. Unit: cluster; argument: the value written. -/
  | ccapWrite
  /-- REPLAYTGT_WRITE (R28): A write to REPLAYTGT sets the target replay rate or selects guard-band operation, or is refused above 10 000. Unit: cluster; argument: the value written. -/
  | replaytgtWrite
  /-- EINJ_WRITE (R142): A service-core write arms error injection so that the next write to the named word stores it with 1 or 2 bits inverted, or is ignored if illegal. Unit: core; argument: the value written. -/
  | einjWrite
  /-- ATOMMODE_WRITE (R282): A service-core write to ATOMMODE sets ORDERED for the slice's floating-point atomics, refused while ATOMHELD is nonzero. Unit: slice; argument: the value written. -/
  | atommodeWrite
  /-- INFIELD_TEST (R34): When a core has gone 24 hours without a gap for its test, the kernel pre-empts its task, runs the in-field test for at most 50 ms and resumes the task. Unit: core. -/
  | infieldTest
  /-- PUBCTL_START (R47): A write of START to PUBCTL sets RUN to 1 if EVCOUNT is at least 4, else is refused and sets CFGERR. Unit: interface. -/
  | pubctlStart
  /-- PUBCTL_RESETRING (R47): A write of RESETRING sets PUBRD to the publication counter, clears OVERRUN and sets RUN, discarding entries between, or is refused as START is. Unit: interface. -/
  | pubctlResetring
  /-- OVERRUN (R47): When W minus PUBRD exceeds PUBDEPTH, Porter clears RUN, sets OVERRUN, adds 1 to the error counter and writes an OVERRUN status record. Unit: interface. -/
  | overrun
  /-- LOAD (R50): A LOAD entry copies, parses, verifies and claim-checks an image container and binds it into a slot, writing its status record. Unit: interface. -/
  | load
  /-- LAUNCH (R53): A LAUNCH entry is checked, resolves its trip counts, copies its parameter block and is handed to the walkers, or gets a failure status. Unit: interface. -/
  | launch
  /-- UNLOAD (R54): An UNLOAD entry marks the slot draining and gets OK at once. Unit: interface. -/
  | unload
  /-- NOP_ENTRY (R48): A NOP ring entry is consumed and gets its status record with no other effect. Unit: interface. -/
  | nopEntry
  /-- VISET (R60): Privileged command that sets an interface's core grant, counter range, priority ceiling and quotas. -/
  | viset
  /-- KEYSET (R51): Privileged command that writes, revokes or clears an interface's image key slot as A0 bits 16 and 17 select. -/
  | keyset
  /-- CTXNEW (R60): Privileged command that creates a context for an interface with a PASID. -/
  | ctxnew
  /-- CTXFREE (R60): Privileged command that frees a context and removes its cached translations. -/
  | ctxfree
  /-- PEERSET (R60): Privileged command that writes a peer window descriptor, refused for the own id or 0xFFF. -/
  | peerset
  /-- ROUTESET (R60): Privileged command that sets the device's own id and a route table entry. -/
  | routeset
  /-- CLOCKSET (R60): Privileged command that writes a cluster's CFREQ code and REPLAYTGT. -/
  | clockset
  /-- MAP (R66): Privileged command that writes or removes a page table leaf, invalidating old translations and waiting for their requests before its status. -/
  | mapPage
  /-- VIRESET (R61): Privileged command that performs a warm restart of the named virtual interface. -/
  | vireset
  /-- ATTESTATION (R56): A write to ATTCMD with a length of 16 to 64 makes Porter sign and write a 384-byte report and add 1 to the attestation counter, else adds 1 to the error counter. Unit: interface; argument: the length. -/
  | attestation
  /-- ENERGY_RECORD_WRITE (R57): A service core writes a held energy record to the interface's queue once there is room, advancing the energy counter, or drops the oldest beyond 4 096 held. Unit: slice. -/
  | energyRecordWrite
  /-- READ (R17): An incoming Ranrum read command is checked against the context's page table and answered with a read response or an error response. The command is the head of the received commands. -/
  | peerRead
  /-- WRITE (R17): An incoming Ranrum write command is checked and performed at the home slice and answered with a write acknowledge or error response. The command is the head of the received commands. -/
  | peerWrite
  /-- ATOMIC (R17): An incoming Ranrum atomic command is performed by the home slice's atomics engine and answered. The command is the head of the received commands. -/
  | peerAtomic
  /-- EXACT_ACCUMULATE (R17): An incoming exact-accumulate command performs the exact add of R164 on the object and is answered. The command is the head of the received commands. -/
  | exactAccumulate
  /-- EVENT_COUNTER_ADD (R17): An incoming event counter add is checked by the die hub and adds its amount to the named counter of the interface owning CTX, or is refused. The command is the head of the received commands. -/
  | eventCounterAdd
  /-- READ_RESPONSE (R17): A read response completes the requester's outstanding peer read with its data. The command is the head of the received commands. -/
  | readResponse
  /-- WRITE_ACKNOWLEDGE (R17): A write acknowledge completes the requester's peer write or counter add. The command is the head of the received commands. -/
  | writeAcknowledge
  /-- ATOMIC_RESPONSE (R17): An atomic response completes the requester's peer atomic with its old value. The command is the head of the received commands. -/
  | atomicResponse
  /-- ERROR_RESPONSE (R17): An error response makes the requester's access fault peer access denied. The command is the head of the received commands. -/
  | errorResponse
  /-- REPLAY_REQUEST (R20): A replay request makes the sender resend every flit from the named SEQ, sending the port DOWN to retrain after 8 replays of one SEQ. Unit: port; argument: the SEQ. -/
  | replayRequest
  /-- PEER_LINK_DOWN (R20): A request waiting 64 us on a DOWN or FAILED port completes with an error and the access faults peer link down. Argument 0: a request of this device, whose tag the unit is; argument p + 1: the oldest request that is forwarded on port p. -/
  | peerLinkDown
  /-- PRI_TIMEOUT (R72): A page request with no response within 500 ms is treated as Invalid Request. Unit: PASID; argument: the page. -/
  | priTimeout
  /-- INVALIDATION_COMPLETION (R73): Once every request translated through a removed entry has completed, the endpoint sends the Invalidation Completion. -/
  | invalidationCompletion
  /-- TABLE_WALK (R69): A page table walk by the home slice returns and installs its leaf in the missing TLB unless a MAP removed it meanwhile. Unit: the position of the walk. -/
  | tableWalk
  /-- DISPATCH (R92): A walker places the next dispatchable item, chain item or whole gang on a free core in canonical order. Unit: die. -/
  | dispatch
  /-- PREEMPTION (R95): The walker pre-empts a lower-priority task: the scalar stream stops, engines finish or abandon their words and copies stop issuing. Unit: core. -/
  | preemption
  /-- PREEMPTION_SAVE (R96): When the drain has ended the task's claimed state is saved to its save area, acting as a publication. Unit: core. -/
  | preemptionSave
  /-- ITEM_START (R89): An item's first instruction begins with Porter's clearing under R55 and the initial state of R89, acting as an acquire at device scope. Unit: core. -/
  | itemStart
  /-- TASK_RESUME (R98): A free core restores the highest-priority saved task on it, acting as a refresh, when no higher waiting new item takes it. Unit: core. -/
  | taskResume
  /-- GANG_RESUME (R100): When every member core of a pre-empted gang is held, all members' restores begin together. Unit: core. -/
  | gangResume
  /-- BATCH_SNAPSHOT (R104): At each iteration of a batch-table level the walker reads the table and writes the snapshot of active entries to SNAPVA. Unit: launch. -/
  | batchSnapshot
  /-- RAMP_WINDOW (R101): At each 1 024-cycle window the ramp limiter holds back matrix dequeues or runs ballast cycles to keep the busy-cycle change within 2 048. Unit: cluster. -/
  | rampWindow
  /-- COMPLETION_EVENT (R114): The completion combiner raises the item's completion event once both rings have passed NOTIFY, DONE has executed, no tail lives and every copy has ended. Unit: core. -/
  | completionEvent
  /-- ORDERED_FADD_APPLY (R282): When a launch's last item ends the slice sorts its held floating-point adds stably and applies them in order with rne. Unit: launch. -/
  | orderedFaddApply
  /-- LAUNCH_END (R93): When every item has ended or been skipped, the error counter gains 1 if any faulted and DONEEV gains DONEVAL. Unit: launch. -/
  | launchEnd
  /-- TRAP_DELIVERY (R294): Once no handler runs, a trap is delivered: TCAUSE, TVAL and EPC are set, the pending transfer and RPC are set aside and the context continues at TVEC. Unit: core. -/
  | trapDelivery
  /-- ENGINE_FAULT (R297): After a ring word faults or is ill-formed, the main context traps engine fault at its next instruction boundary with the cause, ring and RD in TVAL. Unit: core. -/
  | engineFault
  /-- STALLED_ON_EMPTY (R128): An access stalled on an empty line for more than 2^24 cycles traps stalled on empty, or raises an engine fault of that cause. Unit: core; argument: the agent, numbered as R295 does, with 16 plus n for copy channel n. -/
  | stalledOnEmpty
  /-- WINDOW_LOG_WAIT_TIMEOUT (R209): A request waiting more than 2^24 cycles for space in a full slice store log ends as window limit. Unit: core; argument: the agent, numbered as R295 does, with 16 plus n for copy channel n. -/
  | windowLogWaitTimeout
  /-- MX_RAISE (R134): A Marionette kind-1 action fires in the cycle after its OR turns true and raises hs n. Unit: core; argument: the action. -/
  | mxRaise
  /-- MX_EVENT_ADD (R134): A Marionette kind-2 action fires and adds 1 to the event counter with local index n. Unit: core; argument: the action. -/
  | mxEventAdd
  /-- MX_COPY_START (R134): A Marionette kind-3 action fires and starts a copy as an aperture store would, holding one pending start while the channel is busy. Unit: core; argument: the action. -/
  | mxCopyStart
  /-- MX_COUNTER_RESET (R134): A Marionette kind-4 action fires and sets MXCNT of counter n to 0. Unit: core; argument: the action. -/
  | mxCounterReset
  /-- COPY_LINE_ISSUE (R340): In its issue slot a copy translates and issues its next line, stopping at a translation fault with FAULTOFF. Unit: core; argument: the channel. -/
  | copyLineIssue
  /-- COPY_REPLY_POP (R341): A QIDX copy pops the sampler reply from q7, checks the token-indexed layout and proceeds or ends with a trap. Unit: core; argument: the channel. -/
  | copyReplyPop
  /-- COPY_FINISH (R343): When every line has landed a copy runs its trailer check, follow-on hand-over, release, counter add and raise, and becomes idle. Unit: core; argument: the channel. -/
  | copyFinish
  /-- FOLLOW_ON_WORD (R344): A handed-over follow-on matrix word runs at the matrix engine's next word boundary as a ring word without changing RD or REL. Unit: core. -/
  | followOnWord
  /-- SAMPLER_START (R200): The sampler takes the head q6 entry and starts the sequence context at PC, waits if it is running, or refuses it with BADSTART or HALTED. Unit: core. -/
  | samplerStart
  /-- SAMPLER_REPLY (R361): A sequence context places its pending reply entry in q7 once q7 has room. Unit: sequence context. -/
  | samplerReply
  /-- SAMPLER_STALL_TIMEOUT (R200): A sampler load stalled on an empty line past 2^24 cycles halts its context with no effect and places a STALLED reply. Unit: sequence context. -/
  | samplerStallTimeout
  /-- PAGEALLOC (R293): Service request that maps up to 16 zeroed pages of a chosen tier at a virtual address, against the MEMORY claim. Unit: core; argument: the context. -/
  | pagealloc
  /-- PAGEFREE (R293): Service request that frees pages the context holds from PAGEALLOC. Unit: core; argument: the context. -/
  | pagefree
  /-- LAYOUTSET (R293): Service request that writes a layout handle entry for the context. Unit: core; argument: the context. -/
  | layoutset
  /-- LOGREC (R293): Service request that copies user data into an error log entry. Unit: core; argument: the context. -/
  | logrec
  /-- RESTART_ROW_RING (R290): A RINGCTL write with bit 0 clears a halted row ring, optionally skipping word RD, and rechecks word RD. Unit: core; argument: whether to skip, 0 or 1. -/
  | restartRowRing
  /-- RESTART_MATRIX_RING (R290): A RINGCTL write with bit 1 clears a halted matrix ring, optionally skipping word RD, and rechecks word RD. Unit: core; argument: whether to skip, 0 or 1. -/
  | restartMatrixRing
  /-- SMPCLR (R362): A write to SMPCLR with CLEAR makes a halted sequence context idle with COUNT 0, keeping its registers, SEED and POS. Unit: core; argument: the value written. -/
  | smpclr
  /-- NOP (R291): Does nothing. -/
  | nop
  /-- DONE (R291): Ends the main context, letting the item end, or ends a tail. -/
  | done
  /-- TRET (R292): Returns from a trap handler to EPC, restoring the pending transfer and RPC. -/
  | tret
  /-- BOPEN (R118): Opens the dual banks, directing releases to bank A. -/
  | bopen
  /-- BSWITCH (R118): Switches releases to bank B. -/
  | bswitch
  /-- END (R363): Ends the sampler program; the context becomes idle. -/
  | smpEndp
  /-- NORM (R363): Replaces candidate values by their softmax. -/
  | smpNorm
  /-- GUMB (R363): Adds Gumbel noise at SEED, POS and index to each candidate. -/
  | smpGumb
  /-- RESERVED_KIND_ENTRY (R49): Porter consumes a ring entry whose KIND is reserved, or privileged on an interface other than 0, and writes status BADKIND. Unit: interface. -/
  | reservedKindEntry
  deriving DecidableEq, Repr, Inhabited

end Sys2Proof
end

