-- ==== Sys2Proof/WellFormed.lean ====
section
/-! DEFINITION. Which terms of Instr are instructions: each field within the bounds its encoding gives it (12 R237 to R258), and each step's operands within the part's numbering (01 R9, 03 R39). -/

namespace Sys2Proof

/-- A scalar register number: s0 to s23 and q0 to q7 (R237). -/
def reg (r : Nat) : Bool := decide (r < 32)

/-- The integer formats that cvtfi takes (R243). -/
def cvtfiFmt (f : Nat) : Bool := f == 2 || f == 3 || f == 6 || f == 7

/-- The float formats narrower than binary64 (R243). -/
def narrowFmt (f : Nat) : Bool := (decide (8 ≤ f) && decide (f ≤ 10)) || (decide (0x24 ≤ f) && decide (f < 64))

/-- The X field of br (R245). -/
def brCond (x : Nat) : Bool := decide (x < 16) || x == 16

/-- The widths of a row word's fields (R249). -/
def RowF.wf (f : RowF) : Bool :=
  decide (f.fmt < 64) && decide (f.rnd < 8) && decide (f.psel < 8) && decide (f.d < 2 ^ 18) && decide (f.a < 2 ^ 18)
    && decide (f.b < 2 ^ 18) && decide (f.rep < 64) && decide (f.aw < 32) && decide (f.rs < 32) && decide (f.scope < 8)

/-- The widths of a matrix word's fields (R254). -/
def MatF.wf (f : MatF) : Bool :=
  decide (f.afmt < 64) && decide (f.bfmt < 64) && decide (f.cfmt < 64) && decide (f.acc < 4) && decide (f.arow < 512)
    && decide (f.astr < 128) && decide (f.brow < 512) && decide (f.bstr < 128) && decide (f.mm1 < 64) && decide (f.nm1 < 64)
    && decide (f.km1 < 2 ^ 14) && decide (f.sc < 64) && decide (f.rnd < 8) && decide (f.nvec < 8) && decide (f.outctl < 8)
    && decide (f.ofmt < 64) && decide (f.orow < 512) && decide (f.ostr < 128) && decide (f.aw < 32) && decide (f.rs < 32)
    && decide (f.scope < 8) && decide (f.resv < 2 ^ 51)

/-- Every field is within its bounds. -/
def Instr.wf : Instr → Bool
  | .coldReset _ _ => true
  | .deviceReset _ _ => true
  | .warmRestart => true
  | .hotReset => true
  | .timingReplay => true
  | .fllStep => true
  | .ldoWindow => true
  | .cfreqWrite => true
  | .ccapWrite => true
  | .replaytgtWrite => true
  | .einjWrite => true
  | .atommodeWrite => true
  | .regWrite _ vi _ v => decide (vi < 256) && decide (v < 2 ^ 64)
  | .patrolScrub _ found => decide (found < 4)
  | .infieldTest => true
  | .pubctlStart => true
  | .pubctlResetring => true
  | .overrun => true
  | .load => true
  | .launch => true
  | .unload => true
  | .nopEntry => true
  | .viset => true
  | .keyset => true
  | .ctxnew => true
  | .ctxfree => true
  | .peerset => true
  | .routeset => true
  | .clockset => true
  | .mapPage => true
  | .vireset => true
  | .attestation => true
  | .hostAdd vi idx x => decide (vi < 256) && decide (idx < 4096) && decide (x < 2 ^ 64)
  | .hostWait vi idx x => decide (vi < 256) && decide (idx < 4096) && decide (x < 2 ^ 64)
  | .trigt vi idx x => decide (vi < 256) && decide (idx < 4096) && decide (x < 2 ^ 64)
  | .arm vi idx x => decide (vi < 256) && decide (idx < 4096) && decide (x < 2 ^ 64)
  | .disarm vi idx x => decide (vi < 256) && decide (idx < 4096) && decide (x < 2 ^ 64)
  | .energyRecordWrite => true
  | .flitReceive port f => decide (port < 16 ∧ f.corrected < 2 ^ 32)
  | .peerRead => true
  | .peerWrite => true
  | .peerAtomic => true
  | .exactAccumulate => true
  | .eventCounterAdd => true
  | .readResponse => true
  | .writeAcknowledge => true
  | .atomicResponse => true
  | .errorResponse => true
  | .replayRequest => true
  | .retrain port _ _ => decide (port < 16)
  | .peerLinkDown => true
  | .translationCompletion pasid _ _ _ _ _ => decide (pasid < 2 ^ 20)
  | .pageRequestGroupResponse pasid _ _ => decide (pasid < 2 ^ 20)
  | .priTimeout => true
  | .invalidateRequest pasid _ _ => decide (pasid < 2 ^ 20)
  | .invalidationCompletion => true
  | .tableWalk => true
  | .faultResume core _ _ => decide (core < 192)
  | .dispatch => true
  | .preemption => true
  | .preemptionSave => true
  | .itemStart => true
  | .taskResume => true
  | .gangResume => true
  | .batchSnapshot => true
  | .rampWindow => true
  | .completionEvent => true
  | .orderedFaddApply => true
  | .launchEnd => true
  | .trapDelivery => true
  | .engineFault => true
  | .stalledOnEmpty => true
  | .windowLogWaitTimeout => true
  | .mxRaise => true
  | .mxEventAdd => true
  | .mxCopyStart => true
  | .mxCounterReset => true
  | .copyStart core x ch data => decide (core < 192) && decide (x < 3) && decide (ch < 16) && decide (data < 2 ^ 64)
  | .copyLineIssue => true
  | .copyLineLand core ch _ => decide (core < 192) && decide (ch < 16)
  | .copyReplyPop => true
  | .copyFinish => true
  | .followOnWord => true
  | .samplerStart => true
  | .samplerReply => true
  | .samplerStallTimeout => true
  | .pagealloc => true
  | .pagefree => true
  | .layoutset => true
  | .logrec => true
  | .restartRowRing => true
  | .restartMatrixRing => true
  | .smpclr => true
  | .pfx rnd rv _ hi => decide (rnd < 8) && decide (hi < 2 ^ 21) && (rv || rnd == 0) && (!rv || decide (rnd < 4))
  | .add d a b => reg d && reg a && reg b
  | .sub d a b => reg d && reg a && reg b
  | .iand d a b => reg d && reg a && reg b
  | .ior d a b => reg d && reg a && reg b
  | .ixor d a b => reg d && reg a && reg b
  | .sll d a b => reg d && reg a && reg b
  | .srl d a b => reg d && reg a && reg b
  | .sra d a b => reg d && reg a && reg b
  | .mul d a b => reg d && reg a && reg b
  | .mulh d a b => reg d && reg a && reg b
  | .mulhu d a b => reg d && reg a && reg b
  | .div d a b => reg d && reg a && reg b
  | .divu d a b => reg d && reg a && reg b
  | .rem d a b => reg d && reg a && reg b
  | .remu d a b => reg d && reg a && reg b
  | .min d a b => reg d && reg a && reg b
  | .max d a b => reg d && reg a && reg b
  | .minu d a b => reg d && reg a && reg b
  | .maxu d a b => reg d && reg a && reg b
  | .clz d a => reg d && reg a
  | .ctz d a => reg d && reg a
  | .popc d a => reg d && reg a
  | .sext d a fmt => reg d && reg a && decide (fmt < 3)
  | .zext d a fmt => reg d && reg a && decide (4 ≤ fmt ∧ fmt < 7)
  | .addi d a imm => reg d && reg a && decide (imm < 2 ^ 16)
  | .andi d a imm => reg d && reg a && decide (imm < 2 ^ 16)
  | .ori d a imm => reg d && reg a && decide (imm < 2 ^ 16)
  | .xori d a imm => reg d && reg a && decide (imm < 2 ^ 16)
  | .slli d a n => reg d && reg a && decide (n < 64)
  | .srli d a n => reg d && reg a && decide (n < 64)
  | .srai d a n => reg d && reg a && decide (n < 64)
  | .movi d imm => reg d && decide (imm < 2 ^ 16)
  | .movhi d imm => reg d && decide (imm < 2 ^ 16)
  | .cmpi cond c a imm => decide (cond < 6) && decide (c < 8) && reg a && decide (imm < 2 ^ 13)
  | .cmpEq c a b => decide (c < 8) && reg a && reg b
  | .cmpNe c a b => decide (c < 8) && reg a && reg b
  | .cmpLt c a b => decide (c < 8) && reg a && reg b
  | .cmpGe c a b => decide (c < 8) && reg a && reg b
  | .cmpLtu c a b => decide (c < 8) && reg a && reg b
  | .cmpGeu c a b => decide (c < 8) && reg a && reg b
  | .cand c a b => decide (c < 8) && decide (a < 8) && decide (b < 8)
  | .cor c a b => decide (c < 8) && decide (a < 8) && decide (b < 8)
  | .cxor c a b => decide (c < 8) && decide (a < 8) && decide (b < 8)
  | .cnot c a => decide (c < 8) && decide (a < 8)
  | .sel d a b k => reg d && reg a && reg b && decide (k < 8)
  | .fadd d a b => reg d && reg a && reg b
  | .fsub d a b => reg d && reg a && reg b
  | .fmul d a b => reg d && reg a && reg b
  | .fdiv d a b => reg d && reg a && reg b
  | .fsqrt d a => reg d && reg a
  | .fma d a b => reg d && reg a && reg b
  | .fmin d a b => reg d && reg a && reg b
  | .fmax d a b => reg d && reg a && reg b
  | .fabs d a => reg d && reg a
  | .fneg d a => reg d && reg a
  | .cvtfi d a fmt => reg d && reg a && cvtfiFmt fmt
  | .cvtif d a fmt => reg d && reg a && decide (fmt < 8)
  | .cvtff d a fmt => reg d && reg a && narrowFmt fmt
  | .cvtft d a fmt => reg d && reg a && narrowFmt fmt
  | .fcmpEq c a b => decide (c < 8) && reg a && reg b
  | .fcmpLt c a b => decide (c < 8) && reg a && reg b
  | .fcmpLe c a b => decide (c < 8) && reg a && reg b
  | .fcmpUn c a b => decide (c < 8) && reg a && reg b
  | .fclass d a => reg d && reg a
  | .csrr d off => reg d && decide (off < 2 ^ 16)
  | .csrw a off => reg a && decide (off < 2 ^ 16)
  | .ld d a ty disp => reg d && reg a && decide (ty < 8) && decide (disp < 2 ^ 12)
  | .st d a ty disp => reg d && reg a && decide (4 ≤ ty ∧ ty < 8) && decide (disp < 2 ^ 12)
  | .lda d a width scope order => reg d && reg a && decide (width < 4) && decide (scope < 5) && decide (order < 2)
  | .stl a b width scope order => reg a && reg b && decide (width < 4) && decide (scope < 5) && (order == 0 || order == 2)
  | .amoAdd d a b width scope order => reg d && reg a && reg b && decide (width < 2) && decide (scope < 5) && decide (order < 4)
  | .amoSwap d a b width scope order => reg d && reg a && reg b && decide (width < 2) && decide (scope < 5) && decide (order < 4)
  | .amoCas d a b width scope order => reg d && reg a && reg b && decide (width < 2) && decide (scope < 5) && decide (order < 4)
  | .amoAnd d a b width scope order => reg d && reg a && reg b && decide (width < 2) && decide (scope < 5) && decide (order < 4)
  | .amoOr d a b width scope order => reg d && reg a && reg b && decide (width < 2) && decide (scope < 5) && decide (order < 4)
  | .amoXor d a b width scope order => reg d && reg a && reg b && decide (width < 2) && decide (scope < 5) && decide (order < 4)
  | .amoMin d a b width scope order => reg d && reg a && reg b && decide (width < 2) && decide (scope < 5) && decide (order < 4)
  | .amoMax d a b width scope order => reg d && reg a && reg b && decide (width < 2) && decide (scope < 5) && decide (order < 4)
  | .amoMinu d a b width scope order => reg d && reg a && reg b && decide (width < 2) && decide (scope < 5) && decide (order < 4)
  | .amoMaxu d a b width scope order => reg d && reg a && reg b && decide (width < 2) && decide (scope < 5) && decide (order < 4)
  | .amoFadd d a b width scope order => reg d && reg a && reg b && decide (width < 2) && decide (scope < 5) && decide (order < 4)
  | .xadd a b scope order => reg a && reg b && decide (scope < 5) && decide (order < 4)
  | .xrd d a scope order => reg d && reg a && decide (scope < 5) && decide (order < 4)
  | .evadd d a b => reg d && reg a && reg b
  | .evwait d a b => reg d && reg a && reg b
  | .evrd d a => reg d && reg a
  | .pbt bn imm => decide (bn < 4) && decide (imm < 2 ^ 16)
  | .pbr bn a => decide (bn < 4) && reg a
  | .br bn x => decide (bn < 4) && brCond x
  | .brl bn d => decide (bn < 4) && reg d
  | .loopHw n a imm => decide (n < 2) && reg a && decide (imm < 2 ^ 16)
  | .nop => true
  | .done => true
  | .trap n => decide (n < 64)
  | .tret => true
  | .syscall d a => reg d && reg a
  | .fence scope => decide (scope < 5)
  | .phase scope => decide (scope < 5)
  | .phasePub scope => decide (scope < 5)
  | .phaseRef scope => decide (scope < 5)
  | .repA a => reg a
  | .repi n => decide (1 ≤ n ∧ n ≤ 64)
  | .lcget d n => reg d && decide (n < 2)
  | .lcbwait a => reg a
  | .relrow a => reg a
  | .relmat a => reg a
  | .semraise n => decide (n < 32)
  | .semwait n => decide (n < 32)
  | .bopen => true
  | .bswitch => true
  | .bsel k => decide (k < 8)
  | .bbarm n a => decide (n < 16) && reg a
  | .bbwait n => decide (n < 16)
  | .cbcons n a => decide (n < 8) && reg a
  | .cbset n a => decide (n < 8) && reg a
  | .empty a => reg a
  | .fullset a => reg a
  | .pwr bank state => decide (bank < 4) && decide (state < 3)
  | .rcinitEnc x a => decide (x < 64) && reg a
  | .rcinitDec x a => decide (x < 64) && reg a
  | .rcenc x y a => decide (x < 64) && decide (y < 16) && reg a
  | .rcdec d x y => reg d && decide (x < 64) && decide (y < 16)
  | .rcdecn x k => decide (x < 64) && decide (1 ≤ k ∧ k ≤ 16) && decide (x + k ≤ 64)
  | .rcflush x => decide (x < 64)
  | .rcsave x a => decide (x < 64) && reg a
  | .rcload x a => decide (x < 64) && reg a
  | .cdld y a => decide (y < 16) && reg a
  | .cdsave y a => decide (y < 16) && reg a
  | .swopen n a => decide (n < 4) && reg a
  | .swstep n => decide (n < 4)
  | .swcommit d n a => reg d && decide (n < 4) && reg a
  | .swabort n => decide (n < 4)
  | .swalloc d n => reg d && decide (n < 4)
  | .swstat d n => reg d && decide (n < 4)
  | .relc c d a bn => decide (c < 8) && reg d && reg a && decide (bn < 4)
  | .tjoin a => reg a
  | .fpop d a => reg d && reg a
  | .rowNotify f => f.wf
  | .vnop f => f.wf
  | .vadd f => f.wf
  | .vsub f => f.wf
  | .vmul f => f.wf
  | .vfma f => f.wf
  | .vfms f => f.wf
  | .vdiv f => f.wf
  | .vsqrt f => f.wf
  | .vmin f => f.wf
  | .vmax f => f.wf
  | .vabs f => f.wf
  | .vneg f => f.wf
  | .vand f => f.wf
  | .vor f => f.wf
  | .vxor f => f.wf
  | .vshl f => f.wf
  | .vshr f => f.wf
  | .vmov f => f.wf
  | .vsel f => f.wf
  | .vcmpEq f => f.wf
  | .vcmpNe f => f.wf
  | .vcmpLt f => f.wf
  | .vcmpLe f => f.wf
  | .vcmpGt f => f.wf
  | .vcmpUn f => f.wf
  | .vpand f => f.wf
  | .vpor f => f.wf
  | .vpnot f => f.wf
  | .vvoteAny f => f.wf
  | .vvoteAll f => f.wf
  | .vcvt f => f.wf
  | .vqnt f => f.wf
  | .vqchk f => f.wf
  | .vexp f => f.wf
  | .vln f => f.wf
  | .vtanh f => f.wf
  | .vsigm f => f.wf
  | .vrsqrt f => f.wf
  | .vrcp f => f.wf
  | .vsin f => f.wf
  | .vcos f => f.wf
  | .vrsum f => f.wf
  | .vrmax f => f.wf
  | .vrmin f => f.wf
  | .vrargmax f => f.wf
  | .vdot f => f.wf
  | .vxacc f => f.wf
  | .vnoise f => f.wf
  | .vcdf f => f.wf
  | .vld f => f.wf
  | .vst f => f.wf
  | .vperm f => f.wf
  | .vbcast f => f.wf
  | .vext f => f.wf
  | .vtopk f => f.wf
  | .vsmax f => f.wf
  | .matNotify f => f.wf
  | .mnop f => f.wf
  | .mmul f => f.wf
  | .mmv f => f.wf
  | .mtr f => f.wf
  | .mperm f => f.wf
  | .mrred f => f.wf
  | .mrd f => f.wf
  | .mwr f => f.wf
  | .mclr f => f.wf
  | .smpEndp => true
  | .smpLdc row n => decide (row < 512) && decide (1 ≤ n ∧ n ≤ 128)
  | .smpMask a b => decide (a < 4) && decide (b < 4)
  | .smpTemp a => decide (a < 8)
  | .smpTopk a => decide (a < 4)
  | .smpTopp a => decide (a < 8)
  | .smpNorm => true
  | .smpGumb => true
  | .smpArgmax d => decide (d < 4)
  | .smpAccept d a b => decide (d < 4) && decide (a < 8) && decide (b < 4)
  | .smpEmit a => decide (a < 4)
  | .smpStat d => decide (d < 4)
  | .smpMovx d a => decide (d < 8) && decide (a < 8)
  | .smpMovk d a => decide (d < 4) && decide (a < 4)
  | .smpLdx d addr => decide (d < 8) && (decide (addr < 2 ^ 18) && addr % 4 == 0)
  | .smpLdk d imm => decide (d < 4) && decide (imm < 2 ^ 18)
  | .smpSeed addr => (decide (addr < 2 ^ 18) && addr % 8 == 0)
  | .smpPosadd imm => decide (imm < 2 ^ 18)
  | .reservedKindEntry => true
  | .illegalInstruction w => decide (w < 2 ^ 32)
  | .illFormedWord ring w => decide (ring < 2) && decide (w < 2 ^ 192)
  | .illformedSamplerWord w => decide (w < 2 ^ 32)
  | .firmwareUpdate _ => true
  | .atsPriCapabilityWrite vi _ pri => decide (vi < 256 ∧ pri.alloc < 2 ^ 32)

end Sys2Proof
end

