-- ==== Sys2Proof/Decode.lean ====
section
/-! DEFINITION. Decoding, total on any word and rejecting by name (12 R237 to R261), and an encoder written from the same tables. Decoding rejects what no state can make an instruction; what depends on claims or state is checked when the word runs. -/

namespace Sys2Proof

/-- Why a word is no instruction (12 R259 to R261). -/
inductive DecErr where
  /-- A reserved major opcode, FN, SUB, TY, op or opcode value. -/
  | reserved
  /-- A field that must be zero is not (R238). -/
  | nonzeroField
  /-- A reserved format, rounding, scope, order, condition or state code. -/
  | badCode
  /-- An index or range beyond its object. -/
  | badIndex
  deriving DecidableEq, Repr

/-- Accepts i where ok holds. -/
def accept (ok : Bool) (e : DecErr) (i : Instr) : Except DecErr Instr := if ok then .ok i else .error e

/-- The integer functions of major 0x01 (R243). -/
def decInt (d a b fn mod : Nat) : Except DecErr Instr :=
  match fn with
  | 0 => accept (mod == 0) .nonzeroField (.add d a b)
  | 1 => accept (mod == 0) .nonzeroField (.sub d a b)
  | 2 => accept (mod == 0) .nonzeroField (.iand d a b)
  | 3 => accept (mod == 0) .nonzeroField (.ior d a b)
  | 4 => accept (mod == 0) .nonzeroField (.ixor d a b)
  | 5 => accept (mod == 0) .nonzeroField (.sll d a b)
  | 6 => accept (mod == 0) .nonzeroField (.srl d a b)
  | 7 => accept (mod == 0) .nonzeroField (.sra d a b)
  | 8 => accept (mod == 0) .nonzeroField (.mul d a b)
  | 9 => accept (mod == 0) .nonzeroField (.mulh d a b)
  | 10 => accept (mod == 0) .nonzeroField (.mulhu d a b)
  | 11 => accept (mod == 0) .nonzeroField (.div d a b)
  | 12 => accept (mod == 0) .nonzeroField (.divu d a b)
  | 13 => accept (mod == 0) .nonzeroField (.rem d a b)
  | 14 => accept (mod == 0) .nonzeroField (.remu d a b)
  | 15 => accept (mod == 0) .nonzeroField (.min d a b)
  | 16 => accept (mod == 0) .nonzeroField (.max d a b)
  | 17 => accept (mod == 0) .nonzeroField (.minu d a b)
  | 18 => accept (mod == 0) .nonzeroField (.maxu d a b)
  | 19 => accept (mod == 0 && b == 0) .nonzeroField (.clz d a)
  | 20 => accept (mod == 0 && b == 0) .nonzeroField (.ctz d a)
  | 21 => accept (mod == 0 && b == 0) .nonzeroField (.popc d a)
  | 22 => if b == 0 then accept (decide (mod < 3)) .badCode (.sext d a mod) else .error .nonzeroField
  | 23 => if b == 0 then accept (decide (4 ≤ mod ∧ mod < 7)) .badCode (.zext d a mod) else .error .nonzeroField
  | _ => .error .reserved

/-- The compares and condition logic of major 0x0A (R243, R267). -/
def decCond (d a b fn mod : Nat) : Except DecErr Instr :=
  match fn with
  | 0 => accept (mod == 0 && decide (d < 8)) .nonzeroField (.cmpEq d a b)
  | 1 => accept (mod == 0 && decide (d < 8)) .nonzeroField (.cmpNe d a b)
  | 2 => accept (mod == 0 && decide (d < 8)) .nonzeroField (.cmpLt d a b)
  | 3 => accept (mod == 0 && decide (d < 8)) .nonzeroField (.cmpGe d a b)
  | 4 => accept (mod == 0 && decide (d < 8)) .nonzeroField (.cmpLtu d a b)
  | 5 => accept (mod == 0 && decide (d < 8)) .nonzeroField (.cmpGeu d a b)
  | 8 => accept (mod == 0 && decide (d < 8) && decide (a < 8) && decide (b < 8)) .nonzeroField (.cand d a b)
  | 9 => accept (mod == 0 && decide (d < 8) && decide (a < 8) && decide (b < 8)) .nonzeroField (.cor d a b)
  | 10 => accept (mod == 0 && decide (d < 8) && decide (a < 8) && decide (b < 8)) .nonzeroField (.cxor d a b)
  | 11 => accept (mod == 0 && decide (d < 8) && decide (a < 8) && b == 0) .nonzeroField (.cnot d a)
  | 16 => accept (decide (mod < 8)) .nonzeroField (.sel d a b mod)
  | _ => .error .reserved

/-- The binary64 functions of major 0x0B (R243, R269, R270). -/
def decFp (d a b fn mod : Nat) : Except DecErr Instr :=
  let fmt := b % 2 * 32 + mod
  match fn with
  | 0 => accept (mod == 0) .nonzeroField (.fadd d a b)
  | 1 => accept (mod == 0) .nonzeroField (.fsub d a b)
  | 2 => accept (mod == 0) .nonzeroField (.fmul d a b)
  | 3 => accept (mod == 0) .nonzeroField (.fdiv d a b)
  | 4 => accept (mod == 0 && b == 0) .nonzeroField (.fsqrt d a)
  | 5 => accept (mod == 0) .nonzeroField (.fma d a b)
  | 6 => accept (mod == 0) .nonzeroField (.fmin d a b)
  | 7 => accept (mod == 0) .nonzeroField (.fmax d a b)
  | 8 => accept (mod == 0 && b == 0) .nonzeroField (.fabs d a)
  | 9 => accept (mod == 0 && b == 0) .nonzeroField (.fneg d a)
  | 10 => if b < 2 then accept (cvtfiFmt fmt) .badCode (.cvtfi d a fmt) else .error .nonzeroField
  | 11 => if b < 2 then accept (decide (fmt < 8)) .badCode (.cvtif d a fmt) else .error .nonzeroField
  | 12 => if b < 2 then accept (narrowFmt fmt) .badCode (.cvtff d a fmt) else .error .nonzeroField
  | 13 => if b < 2 then accept (narrowFmt fmt) .badCode (.cvtft d a fmt) else .error .nonzeroField
  | 14 => accept (mod == 0 && decide (d < 8)) .nonzeroField (.fcmpEq d a b)
  | 15 => accept (mod == 0 && decide (d < 8)) .nonzeroField (.fcmpLt d a b)
  | 16 => accept (mod == 0 && decide (d < 8)) .nonzeroField (.fcmpLe d a b)
  | 17 => accept (mod == 0 && decide (d < 8)) .nonzeroField (.fcmpUn d a b)
  | 18 => accept (mod == 0 && b == 0) .nonzeroField (.fclass d a)
  | _ => .error .reserved

/-- The acquiring loads and releasing stores of major 0x12 (R244, R279). -/
def decLdaStl (d a b fn scope order : Nat) : Except DecErr Instr :=
  if scope < 5 then
    if fn < 4 then if b == 0 then accept (decide (order < 2)) .badCode (.lda d a fn scope order) else .error .nonzeroField
    else if 8 ≤ fn ∧ fn < 12 then if d == 0 then accept (order == 0 || order == 2) .badCode (.stl a b (fn - 8) scope order) else .error .nonzeroField
    else .error .reserved
  else .error .badCode

/-- The atomics of major 0x13 (R244, R280, R281). -/
def decAmo (d a b fn scope order : Nat) : Except DecErr Instr :=
  if scope < 5 then
    match fn / 2 with
    | 0 => .ok (.amoAdd d a b (fn % 2) scope order)
    | 1 => .ok (.amoSwap d a b (fn % 2) scope order)
    | 2 => .ok (.amoCas d a b (fn % 2) scope order)
    | 3 => .ok (.amoAnd d a b (fn % 2) scope order)
    | 4 => .ok (.amoOr d a b (fn % 2) scope order)
    | 5 => .ok (.amoXor d a b (fn % 2) scope order)
    | 6 => .ok (.amoMin d a b (fn % 2) scope order)
    | 7 => .ok (.amoMax d a b (fn % 2) scope order)
    | 8 => .ok (.amoMinu d a b (fn % 2) scope order)
    | 9 => .ok (.amoMaxu d a b (fn % 2) scope order)
    | 10 => .ok (.amoFadd d a b (fn % 2) scope order)
    | 11 => if fn % 2 = 1 then accept (d == 0) .nonzeroField (.xadd a b scope order) else .error .reserved
    | 12 => if fn % 2 = 1 then accept (b == 0) .nonzeroField (.xrd d a scope order) else .error .reserved
    | _ => .error .reserved
  else .error .badCode

/-- The system words of major 0x00 (R246). -/
def decSys (d a rx ry fn : Nat) : Except DecErr Instr :=
  match fn with
  | 0 => accept (d == 0 && a == 0 && rx == 0 && ry == 0) .nonzeroField (.nop)
  | 1 => accept (d == 0 && a == 0 && rx == 0 && ry == 0) .nonzeroField (.done)
  | 2 => accept (d == 0 && a == 0 && ry == 0) .nonzeroField (.trap rx)
  | 3 => accept (d == 0 && a == 0 && rx == 0 && ry == 0) .nonzeroField (.tret)
  | 4 => accept (rx == 0 && ry == 0) .nonzeroField (.syscall d a)
  | 5 => if d == 0 && a == 0 && ry == 0 && decide (rx < 8) then accept (decide (rx < 5)) .badCode (.fence rx) else .error .nonzeroField
  | 6 => if d == 0 && a == 0 && ry == 0 && decide (rx < 8) then accept (decide (rx < 5)) .badCode (.phase rx) else .error .nonzeroField
  | 7 => if d == 0 && a == 0 && ry == 0 && decide (rx < 8) then accept (decide (rx < 5)) .badCode (.phasePub rx) else .error .nonzeroField
  | 8 => if d == 0 && a == 0 && ry == 0 && decide (rx < 8) then accept (decide (rx < 5)) .badCode (.phaseRef rx) else .error .nonzeroField
  | 9 => accept (d == 0 && rx == 0 && ry == 0) .nonzeroField (.repA a)
  | 10 => accept (d == 0 && a == 0 && ry == 0) .nonzeroField (.repi (rx + 1))
  | 11 => accept (a == 0 && rx == 0 && decide (ry < 2)) .nonzeroField (.lcget d ry)
  | 12 => accept (d == 0 && rx == 0 && ry == 0) .nonzeroField (.lcbwait a)
  | 16 => accept (d == 0 && rx == 0 && ry == 0) .nonzeroField (.relrow a)
  | 17 => accept (d == 0 && rx == 0 && ry == 0) .nonzeroField (.relmat a)
  | 18 => accept (d == 0 && a == 0 && ry == 0 && decide (rx < 32)) .nonzeroField (.semraise rx)
  | 19 => accept (d == 0 && a == 0 && ry == 0 && decide (rx < 32)) .nonzeroField (.semwait rx)
  | 20 => accept (d == 0 && a == 0 && rx == 0 && ry == 0) .nonzeroField (.bopen)
  | 21 => accept (d == 0 && a == 0 && rx == 0 && ry == 0) .nonzeroField (.bswitch)
  | 22 => accept (d == 0 && a == 0 && ry == 0 && decide (rx < 8)) .nonzeroField (.bsel rx)
  | 23 => accept (d == 0 && ry == 0 && decide (rx < 16)) .nonzeroField (.bbarm rx a)
  | 24 => accept (d == 0 && a == 0 && ry == 0 && decide (rx < 16)) .nonzeroField (.bbwait rx)
  | 25 => accept (d == 0 && ry == 0 && decide (rx < 8)) .nonzeroField (.cbcons rx a)
  | 26 => accept (d == 0 && ry == 0 && decide (rx < 8)) .nonzeroField (.cbset rx a)
  | 27 => accept (d == 0 && rx == 0 && ry == 0) .nonzeroField (.empty a)
  | 28 => accept (d == 0 && rx == 0 && ry == 0) .nonzeroField (.fullset a)
  | 29 => if d == 0 && a == 0 && decide (rx < 4) && decide (ry < 4) then accept (decide (ry < 3)) .badCode (.pwr rx ry) else .error .nonzeroField
  | _ => .error .reserved

/-- The branch words of major 0x18 (R245). -/
def decBranch (bn sub x imm : Nat) : Except DecErr Instr :=
  match sub with
  | 0 => accept (x == 0) .nonzeroField (.pbt bn imm)
  | 1 => accept (imm == 0) .nonzeroField (.pbr bn x)
  | 2 => accept (imm == 0 && brCond x) .nonzeroField (.br bn x)
  | 3 => accept (imm == 0) .nonzeroField (.brl bn x)
  | 4 => accept (decide (bn < 2)) .badIndex (.loopHw bn x imm)
  | _ => .error .reserved

/-- The coder words of major 0x1C (R247, R347). -/
def decCoder (d a rx ry fn : Nat) : Except DecErr Instr :=
  match fn with
  | 0 => accept (d == 0 && ry == 0) .nonzeroField (.rcinitEnc rx a)
  | 1 => accept (d == 0 && ry == 0) .nonzeroField (.rcinitDec rx a)
  | 2 => accept (d == 0) .nonzeroField (.rcenc rx ry a)
  | 3 => accept (a == 0) .nonzeroField (.rcdec d rx ry)
  | 4 => if d == 0 && a == 0 then accept (decide (rx + ry < 64)) .badIndex (.rcdecn rx (ry + 1)) else .error .nonzeroField
  | 5 => accept (d == 0 && a == 0 && ry == 0) .nonzeroField (.rcflush rx)
  | 6 => accept (d == 0 && ry == 0) .nonzeroField (.rcsave rx a)
  | 7 => accept (d == 0 && ry == 0) .nonzeroField (.rcload rx a)
  | 8 => accept (d == 0 && rx == 0) .nonzeroField (.cdld ry a)
  | 9 => accept (d == 0 && rx == 0) .nonzeroField (.cdsave ry a)
  | _ => .error .reserved

/-- The window words of major 0x1D (R247, R356). -/
def decWindow (d a rx ry fn : Nat) : Except DecErr Instr :=
  if rx == 0 && decide (ry < 4) then
    match fn with
    | 0 => accept (d == 0) .nonzeroField (.swopen ry a)
    | 1 => accept (d == 0 && a == 0) .nonzeroField (.swstep ry)
    | 2 => .ok (.swcommit d ry a)
    | 3 => accept (d == 0 && a == 0) .nonzeroField (.swabort ry)
    | 4 => accept (a == 0) .nonzeroField (.swalloc d ry)
    | 5 => accept (a == 0) .nonzeroField (.swstat d ry)
    | _ => .error .reserved
  else .error .nonzeroField

/-- The tail words of major 0x1E (R247, R358). -/
def decTail (d a rx ry fn : Nat) : Except DecErr Instr :=
  match fn with
  | 0 => accept (decide (rx < 8) && decide (ry < 4)) .nonzeroField (.relc rx d a ry)
  | 1 => accept (d == 0 && rx == 0 && ry == 0) .nonzeroField (.tjoin a)
  | 2 => accept (rx == 0 && ry == 0) .nonzeroField (.fpop d a)
  | _ => .error .reserved

/-- One 32-bit scalar word (R237 to R247). -/
def decodeScalar (w : Nat) : Except DecErr Instr :=
  let d := bitsOf w 25 21
  let a := bitsOf w 20 16
  let b := bitsOf w 15 11
  let fn := bitsOf w 10 5
  let mod := bitsOf w 4 0
  let imm := bitsOf w 15 0
  let rx := bitsOf w 15 10
  let ry := bitsOf w 9 6
  let sfn := bitsOf w 5 0
  match w / 2 ^ 26 with
  | 0x00 => decSys d a rx ry sfn
  | 0x01 => decInt d a b fn mod
  | 0x02 => .ok (.addi d a imm)
  | 0x03 => .ok (.andi d a imm)
  | 0x04 => .ok (.ori d a imm)
  | 0x05 => .ok (.xori d a imm)
  | 0x06 =>
    match bitsOf w 15 6 with
    | 0 => .ok (.slli d a (bitsOf w 5 0))
    | 1 => .ok (.srli d a (bitsOf w 5 0))
    | 2 => .ok (.srai d a (bitsOf w 5 0))
    | _ => .error .badCode
  | 0x07 => accept (a == 0) .nonzeroField (.movi d imm)
  | 0x08 => accept (a == 0) .nonzeroField (.movhi d imm)
  | 0x09 => if d < 8 then accept (decide (bitsOf w 15 13 < 6)) .badCode (.cmpi (bitsOf w 15 13) d a (bitsOf w 12 0)) else .error .nonzeroField
  | 0x0A => decCond d a b fn mod
  | 0x0B => decFp d a b fn mod
  | 0x0C => accept (a == 0) .nonzeroField (.csrr d imm)
  | 0x0D => accept (d == 0) .nonzeroField (.csrw a imm)
  | 0x10 => accept (decide (bitsOf w 15 12 < 8)) .badCode (.ld d a (bitsOf w 15 12) (bitsOf w 11 0))
  | 0x11 => accept (decide (4 ≤ bitsOf w 15 12 ∧ bitsOf w 15 12 < 8)) .badCode (.st d a (bitsOf w 15 12) (bitsOf w 11 0))
  | 0x12 => decLdaStl d a b fn (bitsOf w 4 2) (bitsOf w 1 0)
  | 0x13 => decAmo d a b fn (bitsOf w 4 2) (bitsOf w 1 0)
  | 0x14 =>
    match fn with
    | 0 => accept (mod == 0) .nonzeroField (.evadd d a b)
    | 1 => accept (mod == 0) .nonzeroField (.evwait d a b)
    | 2 => accept (mod == 0 && b == 0) .nonzeroField (.evrd d a)
    | _ => .error .reserved
  | 0x18 => decBranch (bitsOf w 25 24) (bitsOf w 23 21) a imm
  | 0x1C => decCoder d a rx ry sfn
  | 0x1D => decWindow d a rx ry sfn
  | 0x1E => decTail d a rx ry sfn
  | 0x3F =>
    if bitsOf w 22 22 = 0 then accept (bitsOf w 25 23 == 0) .badCode (.pfx 0 false (bitsOf w 21 21 == 1) (bitsOf w 20 0))
    else accept (decide (bitsOf w 25 23 < 4)) .badCode (.pfx (bitsOf w 25 23) true (bitsOf w 21 21 == 1) (bitsOf w 20 0))
  | _ => .error .reserved

/-- The fields of a row word (R249, R250). -/
def rowFields (w : Nat) : RowF :=
  { fmt := bitsOf w 6 6 * 32 + bitsOf w 87 83, rnd := bitsOf w 82 80, psel := bitsOf w 79 77
    d := bitsOf w 76 59, a := bitsOf w 58 41, b := bitsOf w 40 23, rep := bitsOf w 22 17
    aw := bitsOf w 16 12, rs := bitsOf w 11 7, acq := bitsOf w 5 5 == 1, rel := bitsOf w 4 4 == 1
    scope := bitsOf w 3 1, sat := bitsOf w 0 0 == 1 }

/-- The row word of an opcode (R253); every opcode not listed is reserved. -/
def decRowOp (op : Nat) (f : RowF) : Except DecErr Instr :=
  match op with
  | 0x01 => .ok (.rowNotify f)
  | 0x02 => .ok (.vnop f)
  | 0x10 => .ok (.vadd f)
  | 0x11 => .ok (.vsub f)
  | 0x12 => .ok (.vmul f)
  | 0x13 => .ok (.vfma f)
  | 0x14 => .ok (.vfms f)
  | 0x15 => .ok (.vdiv f)
  | 0x16 => .ok (.vsqrt f)
  | 0x17 => .ok (.vmin f)
  | 0x18 => .ok (.vmax f)
  | 0x19 => .ok (.vabs f)
  | 0x1A => .ok (.vneg f)
  | 0x1B => .ok (.vand f)
  | 0x1C => .ok (.vor f)
  | 0x1D => .ok (.vxor f)
  | 0x1E => .ok (.vshl f)
  | 0x1F => .ok (.vshr f)
  | 0x20 => .ok (.vmov f)
  | 0x21 => .ok (.vsel f)
  | 0x28 => .ok (.vcmpEq f)
  | 0x29 => .ok (.vcmpNe f)
  | 0x2A => .ok (.vcmpLt f)
  | 0x2B => .ok (.vcmpLe f)
  | 0x2C => .ok (.vcmpGt f)
  | 0x2D => .ok (.vcmpUn f)
  | 0x2E => .ok (.vpand f)
  | 0x2F => .ok (.vpor f)
  | 0x30 => .ok (.vpnot f)
  | 0x31 => .ok (.vvoteAny f)
  | 0x32 => .ok (.vvoteAll f)
  | 0x38 => .ok (.vcvt f)
  | 0x39 => .ok (.vqnt f)
  | 0x3A => .ok (.vqchk f)
  | 0x40 => .ok (.vexp f)
  | 0x41 => .ok (.vln f)
  | 0x42 => .ok (.vtanh f)
  | 0x43 => .ok (.vsigm f)
  | 0x44 => .ok (.vrsqrt f)
  | 0x45 => .ok (.vrcp f)
  | 0x46 => .ok (.vsin f)
  | 0x47 => .ok (.vcos f)
  | 0x50 => .ok (.vrsum f)
  | 0x51 => .ok (.vrmax f)
  | 0x52 => .ok (.vrmin f)
  | 0x53 => .ok (.vrargmax f)
  | 0x54 => .ok (.vdot f)
  | 0x58 => .ok (.vxacc f)
  | 0x59 => .ok (.vnoise f)
  | 0x5A => .ok (.vcdf f)
  | 0x60 => .ok (.vld f)
  | 0x61 => .ok (.vst f)
  | 0x62 => .ok (.vperm f)
  | 0x63 => .ok (.vbcast f)
  | 0x64 => .ok (.vext f)
  | 0x65 => .ok (.vtopk f)
  | 0x66 => .ok (.vsmax f)
  | _ => .error .reserved

/-- One 96-bit row word. -/
def decodeRow (w : Nat) : Except DecErr Instr := decRowOp (w / 2 ^ 88) (rowFields w)

/-- The fields of a matrix word (R254). -/
def matFields (w : Nat) : MatF :=
  { afmt := bitsOf w 183 178, bfmt := bitsOf w 177 172, cfmt := bitsOf w 171 166, acc := bitsOf w 165 164
    arow := bitsOf w 163 155, astr := bitsOf w 154 148, brow := bitsOf w 147 139, bstr := bitsOf w 138 132
    mm1 := bitsOf w 131 126, nm1 := bitsOf w 125 120, km1 := bitsOf w 119 106, init := bitsOf w 105 105 == 1
    exact := bitsOf w 104 104 == 1, sc := bitsOf w 103 98, rnd := bitsOf w 97 95, sat := bitsOf w 94 94 == 1
    nvec := bitsOf w 93 91, outctl := bitsOf w 90 88, ofmt := bitsOf w 87 82, orow := bitsOf w 81 73
    ostr := bitsOf w 72 66, aw := bitsOf w 65 61, rs := bitsOf w 60 56, acq := bitsOf w 55 55 == 1
    rel := bitsOf w 54 54 == 1, scope := bitsOf w 53 51, resv := bitsOf w 50 0 }

/-- The matrix word of an opcode (R256); every opcode not listed is reserved. -/
def decMatOp (op : Nat) (f : MatF) : Except DecErr Instr :=
  match op with
  | 0x01 => .ok (.matNotify f)
  | 0x02 => .ok (.mnop f)
  | 0x10 => .ok (.mmul f)
  | 0x11 => .ok (.mmv f)
  | 0x12 => .ok (.mtr f)
  | 0x13 => .ok (.mperm f)
  | 0x14 => .ok (.mrred f)
  | 0x20 => .ok (.mrd f)
  | 0x21 => .ok (.mwr f)
  | 0x22 => .ok (.mclr f)
  | _ => .error .reserved

/-- One 192-bit matrix word. -/
def decodeMat (w : Nat) : Except DecErr Instr := decMatOp (w / 2 ^ 184) (matFields w)

/-- One 32-bit sampler word (R258, R261). -/
def decodeSampler (w : Nat) : Except DecErr Instr :=
  let d := bitsOf w 26 24
  let a := bitsOf w 23 21
  let b := bitsOf w 20 18
  let imm := bitsOf w 17 0
  match w / 2 ^ 27 with
  | 0x01 => accept (d == 0 && a == 0 && b == 0 && imm == 0) .nonzeroField .smpEndp
  | 0x02 => if d == 0 && a == 0 && b == 0 && decide (imm < 2 ^ 17) then accept (decide (bitsOf imm 16 9 < 128)) .badIndex (.smpLdc (bitsOf imm 8 0) (bitsOf imm 16 9 + 1)) else .error .nonzeroField
  | 0x03 => if d == 0 && imm == 0 then accept (decide (a < 4) && decide (b < 4)) .badIndex (.smpMask a b) else .error .nonzeroField
  | 0x04 => accept (d == 0 && b == 0 && imm == 0) .nonzeroField (.smpTemp a)
  | 0x05 => if d == 0 && b == 0 && imm == 0 then accept (decide (a < 4)) .badIndex (.smpTopk a) else .error .nonzeroField
  | 0x06 => accept (d == 0 && b == 0 && imm == 0) .nonzeroField (.smpTopp a)
  | 0x07 => accept (d == 0 && a == 0 && b == 0 && imm == 0) .nonzeroField .smpNorm
  | 0x08 => accept (d == 0 && a == 0 && b == 0 && imm == 0) .nonzeroField .smpGumb
  | 0x09 => if a == 0 && b == 0 && imm == 0 then accept (decide (d < 4)) .badIndex (.smpArgmax d) else .error .nonzeroField
  | 0x0A => if imm == 0 then accept (decide (d < 4) && decide (b < 4)) .badIndex (.smpAccept d a b) else .error .nonzeroField
  | 0x0B => if d == 0 && b == 0 && imm == 0 then accept (decide (a < 4)) .badIndex (.smpEmit a) else .error .nonzeroField
  | 0x0C => if a == 0 && b == 0 && imm == 0 then accept (decide (d < 4)) .badIndex (.smpStat d) else .error .nonzeroField
  | 0x0D => accept (b == 0 && imm == 0) .nonzeroField (.smpMovx d a)
  | 0x0E => if b == 0 && imm == 0 then accept (decide (d < 4) && decide (a < 4)) .badIndex (.smpMovk d a) else .error .nonzeroField
  | 0x0F => if a == 0 && b == 0 then accept (imm % 4 == 0) .badIndex (.smpLdx d imm) else .error .nonzeroField
  | 0x10 => if a == 0 && b == 0 then accept (decide (d < 4)) .badIndex (.smpLdk d imm) else .error .nonzeroField
  | 0x11 => if d == 0 && a == 0 && b == 0 then accept (imm % 8 == 0) .badIndex (.smpSeed imm) else .error .nonzeroField
  | 0x12 => accept (d == 0 && a == 0 && b == 0) .nonzeroField (.smpPosadd imm)
  | _ => .error .reserved

/-- What the decoder reads from an instruction whose bits are w: a 96-bit row word, a 192-bit matrix word, or a 32-bit word, read as a scalar word and, where it is none, as a sampler word, since both streams use 32-bit words (log 14). -/
def decodeTableWord (nbits w : Nat) : Option Instr :=
  if nbits = 32 then
    match decodeScalar w with
    | .ok i => some i
    | .error _ => (decodeSampler w).toOption
  else if nbits = 96 then (decodeRow w).toOption
  else if nbits = 192 then (decodeMat w).toOption
  else none

/-- Which PFX fields a word takes: the rounding, SAT, and HI21 (R242, R243). -/
def pfxTakes : Instr → Bool × Bool × Bool
  | .add .. | .sub .. | .mul .. => (false, true, false)
  | .addi .. | .andi .. | .ori .. | .xori .. | .movi .. | .movhi .. | .cmpi .. | .ld .. | .st .. => (false, false, true)
  | .fadd .. | .fsub .. | .fmul .. | .fdiv .. | .fsqrt .. | .fma .. | .xrd .. => (true, false, false)
  | .cvtfi .. | .cvtif .. | .cvtff .. | .cvtft .. => (true, true, false)
  | _ => (false, false, false)

/-- Whether a PFX with these fields may stand before i (R240, R241, R259). A PFX whose fields are all zero is legal before no word. -/
def pfxLegal (rv sat : Bool) (hi : Nat) (i : Instr) : Bool :=
  let (tr, ts, th) := pfxTakes i
  let hiMax := match i with | .movhi .. => 2 ^ 16 | _ => 2 ^ 21
  (!rv || tr) && (!sat || ts) && (hi == 0 || th) && (rv || sat || hi != 0) && decide (hi < hiMax)

/-! ### The encoder -/

/-- The RR format (R237). -/
def encRR (maj d a b fn mod : Nat) : Nat := maj * 2 ^ 26 + d * 2 ^ 21 + a * 2 ^ 16 + b * 2 ^ 11 + fn * 2 ^ 5 + mod

/-- The RI format (R237). -/
def encRI (maj d a imm : Nat) : Nat := maj * 2 ^ 26 + d * 2 ^ 21 + a * 2 ^ 16 + imm

/-- The SYS format (R237). -/
def encSys (maj d a rx ry fn : Nat) : Nat := maj * 2 ^ 26 + d * 2 ^ 21 + a * 2 ^ 16 + rx * 2 ^ 10 + ry * 2 ^ 6 + fn

/-- The BP format (R237). -/
def encBP (bn sub x imm : Nat) : Nat := 0x18 * 2 ^ 26 + bn * 2 ^ 24 + sub * 2 ^ 21 + x * 2 ^ 16 + imm

/-- A sampler word (R258). -/
def encSmp (op d a b imm : Nat) : Nat := op * 2 ^ 27 + d * 2 ^ 24 + a * 2 ^ 21 + b * 2 ^ 18 + imm

/-- A row word (R249). -/
def encRow (op : Nat) (f : RowF) : Nat :=
  op * 2 ^ 88 + f.fmt % 32 * 2 ^ 83 + f.rnd * 2 ^ 80 + f.psel * 2 ^ 77 + f.d * 2 ^ 59 + f.a * 2 ^ 41 + f.b * 2 ^ 23
    + f.rep * 2 ^ 17 + f.aw * 2 ^ 12 + f.rs * 2 ^ 7 + f.fmt / 32 * 2 ^ 6 + f.acq.toNat * 2 ^ 5 + f.rel.toNat * 2 ^ 4
    + f.scope * 2 + f.sat.toNat

/-- A matrix word (R254). -/
def encMat (op : Nat) (f : MatF) : Nat :=
  op * 2 ^ 184 + f.afmt * 2 ^ 178 + f.bfmt * 2 ^ 172 + f.cfmt * 2 ^ 166 + f.acc * 2 ^ 164 + f.arow * 2 ^ 155
    + f.astr * 2 ^ 148 + f.brow * 2 ^ 139 + f.bstr * 2 ^ 132 + f.mm1 * 2 ^ 126 + f.nm1 * 2 ^ 120 + f.km1 * 2 ^ 106
    + f.init.toNat * 2 ^ 105 + f.exact.toNat * 2 ^ 104 + f.sc * 2 ^ 98 + f.rnd * 2 ^ 95 + f.sat.toNat * 2 ^ 94
    + f.nvec * 2 ^ 91 + f.outctl * 2 ^ 88 + f.ofmt * 2 ^ 82 + f.orow * 2 ^ 73 + f.ostr * 2 ^ 66 + f.aw * 2 ^ 61
    + f.rs * 2 ^ 56 + f.acq.toNat * 2 ^ 55 + f.rel.toNat * 2 ^ 54 + f.scope * 2 ^ 51 + f.resv

/-- The width and the word of an instruction that has an encoding; a step without one has none. -/
def encode : Instr → Option (Nat × Nat)
  | .pfx rnd rv sat hi => some (32, 0x3F * 2 ^ 26 + rnd * 2 ^ 23 + rv.toNat * 2 ^ 22 + sat.toNat * 2 ^ 21 + hi)
  | .add d a b => some (32, encRR 0x01 d a b 0 0)
  | .sub d a b => some (32, encRR 0x01 d a b 1 0)
  | .iand d a b => some (32, encRR 0x01 d a b 2 0)
  | .ior d a b => some (32, encRR 0x01 d a b 3 0)
  | .ixor d a b => some (32, encRR 0x01 d a b 4 0)
  | .sll d a b => some (32, encRR 0x01 d a b 5 0)
  | .srl d a b => some (32, encRR 0x01 d a b 6 0)
  | .sra d a b => some (32, encRR 0x01 d a b 7 0)
  | .mul d a b => some (32, encRR 0x01 d a b 8 0)
  | .mulh d a b => some (32, encRR 0x01 d a b 9 0)
  | .mulhu d a b => some (32, encRR 0x01 d a b 10 0)
  | .div d a b => some (32, encRR 0x01 d a b 11 0)
  | .divu d a b => some (32, encRR 0x01 d a b 12 0)
  | .rem d a b => some (32, encRR 0x01 d a b 13 0)
  | .remu d a b => some (32, encRR 0x01 d a b 14 0)
  | .min d a b => some (32, encRR 0x01 d a b 15 0)
  | .max d a b => some (32, encRR 0x01 d a b 16 0)
  | .minu d a b => some (32, encRR 0x01 d a b 17 0)
  | .maxu d a b => some (32, encRR 0x01 d a b 18 0)
  | .clz d a => some (32, encRR 0x01 d a 0 19 0)
  | .ctz d a => some (32, encRR 0x01 d a 0 20 0)
  | .popc d a => some (32, encRR 0x01 d a 0 21 0)
  | .sext d a fmt => some (32, encRR 0x01 d a 0 22 fmt)
  | .zext d a fmt => some (32, encRR 0x01 d a 0 23 fmt)
  | .addi d a imm => some (32, encRI 2 d a imm)
  | .andi d a imm => some (32, encRI 3 d a imm)
  | .ori d a imm => some (32, encRI 4 d a imm)
  | .xori d a imm => some (32, encRI 5 d a imm)
  | .slli d a n => some (32, encRI 6 d a (0 * 2 ^ 6 + n))
  | .srli d a n => some (32, encRI 6 d a (1 * 2 ^ 6 + n))
  | .srai d a n => some (32, encRI 6 d a (2 * 2 ^ 6 + n))
  | .movi d imm => some (32, encRI 7 d 0 imm)
  | .movhi d imm => some (32, encRI 8 d 0 imm)
  | .cmpi cond c a imm => some (32, encRI 9 c a (cond * 2 ^ 13 + imm))
  | .cmpEq c a b => some (32, encRR 0x0A c a b 0 0)
  | .cmpNe c a b => some (32, encRR 0x0A c a b 1 0)
  | .cmpLt c a b => some (32, encRR 0x0A c a b 2 0)
  | .cmpGe c a b => some (32, encRR 0x0A c a b 3 0)
  | .cmpLtu c a b => some (32, encRR 0x0A c a b 4 0)
  | .cmpGeu c a b => some (32, encRR 0x0A c a b 5 0)
  | .cand c a b => some (32, encRR 0x0A c a b 8 0)
  | .cor c a b => some (32, encRR 0x0A c a b 9 0)
  | .cxor c a b => some (32, encRR 0x0A c a b 10 0)
  | .cnot c a => some (32, encRR 0x0A c a 0 11 0)
  | .sel d a b k => some (32, encRR 0x0A d a b 16 k)
  | .fadd d a b => some (32, encRR 0x0B d a b 0 0)
  | .fsub d a b => some (32, encRR 0x0B d a b 1 0)
  | .fmul d a b => some (32, encRR 0x0B d a b 2 0)
  | .fdiv d a b => some (32, encRR 0x0B d a b 3 0)
  | .fma d a b => some (32, encRR 0x0B d a b 5 0)
  | .fmin d a b => some (32, encRR 0x0B d a b 6 0)
  | .fmax d a b => some (32, encRR 0x0B d a b 7 0)
  | .fsqrt d a => some (32, encRR 0x0B d a 0 4 0)
  | .fabs d a => some (32, encRR 0x0B d a 0 8 0)
  | .fneg d a => some (32, encRR 0x0B d a 0 9 0)
  | .fclass d a => some (32, encRR 0x0B d a 0 18 0)
  | .cvtfi d a fmt => some (32, encRR 0x0B d a (fmt / 32) 10 (fmt % 32))
  | .cvtif d a fmt => some (32, encRR 0x0B d a (fmt / 32) 11 (fmt % 32))
  | .cvtff d a fmt => some (32, encRR 0x0B d a (fmt / 32) 12 (fmt % 32))
  | .cvtft d a fmt => some (32, encRR 0x0B d a (fmt / 32) 13 (fmt % 32))
  | .fcmpEq c a b => some (32, encRR 0x0B c a b 14 0)
  | .fcmpLt c a b => some (32, encRR 0x0B c a b 15 0)
  | .fcmpLe c a b => some (32, encRR 0x0B c a b 16 0)
  | .fcmpUn c a b => some (32, encRR 0x0B c a b 17 0)
  | .csrr d off => some (32, encRI 0x0C d 0 off)
  | .csrw a off => some (32, encRI 0x0D 0 a off)
  | .ld d a ty disp => some (32, encRI 0x10 d a (ty * 2 ^ 12 + disp))
  | .st d a ty disp => some (32, encRI 0x11 d a (ty * 2 ^ 12 + disp))
  | .lda d a width scope order => some (32, encRR 0x12 d a 0 width (scope * 4 + order))
  | .stl a b width scope order => some (32, encRR 0x12 0 a b (8 + width) (scope * 4 + order))
  | .amoAdd d a b width scope order => some (32, encRR 0x13 d a b (0 * 2 + width) (scope * 4 + order))
  | .amoSwap d a b width scope order => some (32, encRR 0x13 d a b (1 * 2 + width) (scope * 4 + order))
  | .amoCas d a b width scope order => some (32, encRR 0x13 d a b (2 * 2 + width) (scope * 4 + order))
  | .amoAnd d a b width scope order => some (32, encRR 0x13 d a b (3 * 2 + width) (scope * 4 + order))
  | .amoOr d a b width scope order => some (32, encRR 0x13 d a b (4 * 2 + width) (scope * 4 + order))
  | .amoXor d a b width scope order => some (32, encRR 0x13 d a b (5 * 2 + width) (scope * 4 + order))
  | .amoMin d a b width scope order => some (32, encRR 0x13 d a b (6 * 2 + width) (scope * 4 + order))
  | .amoMax d a b width scope order => some (32, encRR 0x13 d a b (7 * 2 + width) (scope * 4 + order))
  | .amoMinu d a b width scope order => some (32, encRR 0x13 d a b (8 * 2 + width) (scope * 4 + order))
  | .amoMaxu d a b width scope order => some (32, encRR 0x13 d a b (9 * 2 + width) (scope * 4 + order))
  | .amoFadd d a b width scope order => some (32, encRR 0x13 d a b (10 * 2 + width) (scope * 4 + order))
  | .xadd a b scope order => some (32, encRR 0x13 0 a b 23 (scope * 4 + order))
  | .xrd d a scope order => some (32, encRR 0x13 d a 0 25 (scope * 4 + order))
  | .evadd d a b => some (32, encRR 0x14 d a b 0 0)
  | .evwait d a b => some (32, encRR 0x14 d a b 1 0)
  | .evrd d a => some (32, encRR 0x14 d a 0 2 0)
  | .pbt bn imm => some (32, encBP bn 0 0 imm)
  | .pbr bn a => some (32, encBP bn 1 a 0)
  | .br bn x => some (32, encBP bn 2 x 0)
  | .brl bn d => some (32, encBP bn 3 d 0)
  | .loopHw n a imm => some (32, encBP n 4 a imm)
  | .nop => some (32, encSys 0x00 0 0 0 0 0)
  | .done => some (32, encSys 0x00 0 0 0 0 1)
  | .trap n => some (32, encSys 0x00 0 0 n 0 2)
  | .tret => some (32, encSys 0x00 0 0 0 0 3)
  | .syscall d a => some (32, encSys 0x00 d a 0 0 4)
  | .fence scope => some (32, encSys 0x00 0 0 scope 0 5)
  | .phase scope => some (32, encSys 0x00 0 0 scope 0 6)
  | .phasePub scope => some (32, encSys 0x00 0 0 scope 0 7)
  | .phaseRef scope => some (32, encSys 0x00 0 0 scope 0 8)
  | .repA a => some (32, encSys 0x00 0 a 0 0 9)
  | .repi n => some (32, encSys 0x00 0 0 (n - 1) 0 10)
  | .lcget d n => some (32, encSys 0x00 d 0 0 n 11)
  | .lcbwait a => some (32, encSys 0x00 0 a 0 0 12)
  | .relrow a => some (32, encSys 0x00 0 a 0 0 16)
  | .relmat a => some (32, encSys 0x00 0 a 0 0 17)
  | .semraise n => some (32, encSys 0x00 0 0 n 0 18)
  | .semwait n => some (32, encSys 0x00 0 0 n 0 19)
  | .bopen => some (32, encSys 0x00 0 0 0 0 20)
  | .bswitch => some (32, encSys 0x00 0 0 0 0 21)
  | .bsel k => some (32, encSys 0x00 0 0 k 0 22)
  | .bbarm n a => some (32, encSys 0x00 0 a n 0 23)
  | .bbwait n => some (32, encSys 0x00 0 0 n 0 24)
  | .cbcons n a => some (32, encSys 0x00 0 a n 0 25)
  | .cbset n a => some (32, encSys 0x00 0 a n 0 26)
  | .empty a => some (32, encSys 0x00 0 a 0 0 27)
  | .fullset a => some (32, encSys 0x00 0 a 0 0 28)
  | .pwr bank state => some (32, encSys 0x00 0 0 bank state 29)
  | .rcinitEnc x a => some (32, encSys 0x1C 0 a x 0 0)
  | .rcinitDec x a => some (32, encSys 0x1C 0 a x 0 1)
  | .rcenc x y a => some (32, encSys 0x1C 0 a x y 2)
  | .rcdec d x y => some (32, encSys 0x1C d 0 x y 3)
  | .rcdecn x k => some (32, encSys 0x1C 0 0 x (k - 1) 4)
  | .rcflush x => some (32, encSys 0x1C 0 0 x 0 5)
  | .rcsave x a => some (32, encSys 0x1C 0 a x 0 6)
  | .rcload x a => some (32, encSys 0x1C 0 a x 0 7)
  | .cdld y a => some (32, encSys 0x1C 0 a 0 y 8)
  | .cdsave y a => some (32, encSys 0x1C 0 a 0 y 9)
  | .swopen n a => some (32, encSys 0x1D 0 a 0 n 0)
  | .swstep n => some (32, encSys 0x1D 0 0 0 n 1)
  | .swcommit d n a => some (32, encSys 0x1D d a 0 n 2)
  | .swabort n => some (32, encSys 0x1D 0 0 0 n 3)
  | .swalloc d n => some (32, encSys 0x1D d 0 0 n 4)
  | .swstat d n => some (32, encSys 0x1D d 0 0 n 5)
  | .relc c d a bn => some (32, encSys 0x1E d a c bn 0)
  | .tjoin a => some (32, encSys 0x1E 0 a 0 0 1)
  | .fpop d a => some (32, encSys 0x1E d a 0 0 2)
  | .rowNotify f => some (96, encRow 0x01 f)
  | .vnop f => some (96, encRow 0x02 f)
  | .vadd f => some (96, encRow 0x10 f)
  | .vsub f => some (96, encRow 0x11 f)
  | .vmul f => some (96, encRow 0x12 f)
  | .vfma f => some (96, encRow 0x13 f)
  | .vfms f => some (96, encRow 0x14 f)
  | .vdiv f => some (96, encRow 0x15 f)
  | .vsqrt f => some (96, encRow 0x16 f)
  | .vmin f => some (96, encRow 0x17 f)
  | .vmax f => some (96, encRow 0x18 f)
  | .vabs f => some (96, encRow 0x19 f)
  | .vneg f => some (96, encRow 0x1A f)
  | .vand f => some (96, encRow 0x1B f)
  | .vor f => some (96, encRow 0x1C f)
  | .vxor f => some (96, encRow 0x1D f)
  | .vshl f => some (96, encRow 0x1E f)
  | .vshr f => some (96, encRow 0x1F f)
  | .vmov f => some (96, encRow 0x20 f)
  | .vsel f => some (96, encRow 0x21 f)
  | .vcmpEq f => some (96, encRow 0x28 f)
  | .vcmpNe f => some (96, encRow 0x29 f)
  | .vcmpLt f => some (96, encRow 0x2A f)
  | .vcmpLe f => some (96, encRow 0x2B f)
  | .vcmpGt f => some (96, encRow 0x2C f)
  | .vcmpUn f => some (96, encRow 0x2D f)
  | .vpand f => some (96, encRow 0x2E f)
  | .vpor f => some (96, encRow 0x2F f)
  | .vpnot f => some (96, encRow 0x30 f)
  | .vvoteAny f => some (96, encRow 0x31 f)
  | .vvoteAll f => some (96, encRow 0x32 f)
  | .vcvt f => some (96, encRow 0x38 f)
  | .vqnt f => some (96, encRow 0x39 f)
  | .vqchk f => some (96, encRow 0x3A f)
  | .vexp f => some (96, encRow 0x40 f)
  | .vln f => some (96, encRow 0x41 f)
  | .vtanh f => some (96, encRow 0x42 f)
  | .vsigm f => some (96, encRow 0x43 f)
  | .vrsqrt f => some (96, encRow 0x44 f)
  | .vrcp f => some (96, encRow 0x45 f)
  | .vsin f => some (96, encRow 0x46 f)
  | .vcos f => some (96, encRow 0x47 f)
  | .vrsum f => some (96, encRow 0x50 f)
  | .vrmax f => some (96, encRow 0x51 f)
  | .vrmin f => some (96, encRow 0x52 f)
  | .vrargmax f => some (96, encRow 0x53 f)
  | .vdot f => some (96, encRow 0x54 f)
  | .vxacc f => some (96, encRow 0x58 f)
  | .vnoise f => some (96, encRow 0x59 f)
  | .vcdf f => some (96, encRow 0x5A f)
  | .vld f => some (96, encRow 0x60 f)
  | .vst f => some (96, encRow 0x61 f)
  | .vperm f => some (96, encRow 0x62 f)
  | .vbcast f => some (96, encRow 0x63 f)
  | .vext f => some (96, encRow 0x64 f)
  | .vtopk f => some (96, encRow 0x65 f)
  | .vsmax f => some (96, encRow 0x66 f)
  | .matNotify f => some (192, encMat 0x01 f)
  | .mnop f => some (192, encMat 0x02 f)
  | .mmul f => some (192, encMat 0x10 f)
  | .mmv f => some (192, encMat 0x11 f)
  | .mtr f => some (192, encMat 0x12 f)
  | .mperm f => some (192, encMat 0x13 f)
  | .mrred f => some (192, encMat 0x14 f)
  | .mrd f => some (192, encMat 0x20 f)
  | .mwr f => some (192, encMat 0x21 f)
  | .mclr f => some (192, encMat 0x22 f)
  | .smpEndp => some (32, encSmp 1 0 0 0 0)
  | .smpLdc row n => some (32, encSmp 2 0 0 0 ((n - 1) * 2 ^ 9 + row))
  | .smpMask a b => some (32, encSmp 3 0 a b 0)
  | .smpTemp a => some (32, encSmp 4 0 a 0 0)
  | .smpTopk a => some (32, encSmp 5 0 a 0 0)
  | .smpTopp a => some (32, encSmp 6 0 a 0 0)
  | .smpNorm => some (32, encSmp 7 0 0 0 0)
  | .smpGumb => some (32, encSmp 8 0 0 0 0)
  | .smpArgmax d => some (32, encSmp 9 d 0 0 0)
  | .smpAccept d a b => some (32, encSmp 10 d a b 0)
  | .smpEmit a => some (32, encSmp 11 0 a 0 0)
  | .smpStat d => some (32, encSmp 12 d 0 0 0)
  | .smpMovx d a => some (32, encSmp 13 d a 0 0)
  | .smpMovk d a => some (32, encSmp 14 d a 0 0)
  | .smpLdx d addr => some (32, encSmp 15 d 0 0 addr)
  | .smpLdk d imm => some (32, encSmp 16 d 0 0 imm)
  | .smpSeed addr => some (32, encSmp 17 0 0 0 addr)
  | .smpPosadd imm => some (32, encSmp 18 0 0 0 imm)
  | _ => none

end Sys2Proof
end

