-- ==== Sys2Proof/Machine/Store.lean ====
section
/-! DEFINITION. Sparse plain data in one canonical form: a list of (key, value) pairs with rising keys and no entry equal to what an unlisted key reads as. Memory, register files and tables are all held so. -/

namespace Sys2Proof.Machine

/-- A table from natural numbers, held as its entries that differ from a default. -/
abbrev Store (α : Type) := List (Nat × α)

/-- What key k holds; d is what an unlisted key reads as. -/
def Store.get {α : Type} (d : α) : Store α → Nat → α
  | [], _ => d
  | (j, v) :: m, k => if j = k then v else Store.get d m k

/-- Inserts an entry before the first larger key. -/
def Store.ins {α : Type} (k : Nat) (v : α) : Store α → Store α
  | [] => [(k, v)]
  | (j, w) :: m => if k < j then (k, v) :: (j, w) :: m else (j, w) :: Store.ins k v m

/-- Drops every entry of key k. -/
def Store.drop {α : Type} (k : Nat) : Store α → Store α
  | [] => []
  | (j, w) :: m => if j = k then Store.drop k m else (j, w) :: Store.drop k m

/-- Sets key k to v; a value equal to the default leaves no entry. -/
def Store.put {α : Type} [DecidableEq α] (d : α) (m : Store α) (k : Nat) (v : α) : Store α :=
  if v = d then m.drop k else (m.drop k).ins k v

/-- Applies f to what key k holds. -/
def Store.upd {α : Type} [DecidableEq α] (d : α) (m : Store α) (k : Nat) (f : α → α) : Store α :=
  m.put d k (f (m.get d k))

/-- Applies f to every key and value; what becomes the default leaves no entry. -/
def Store.mapVals {α : Type} [DecidableEq α] (d : α) (f : Nat → α → α) : Store α → Store α
  | [] => []
  | (j, v) :: m => if f j v = d then (Store.mapVals d f m).drop j else (j, f j v) :: Store.mapVals d f m

/-- Every key of m is above lo. -/
def Store.above {α : Type} (lo : Nat) : Store α → Bool
  | [] => true
  | (j, _) :: m => decide (lo < j) && Store.above lo m

/-- The canonical form: keys rise strictly and no entry holds the default. -/
def Store.wf {α : Type} [DecidableEq α] (d : α) : Store α → Bool
  | [] => true
  | (j, v) :: m => decide (v ≠ d) && Store.above j m && Store.wf d m

/-- Memory as the spec's address spaces hold it: one byte a cell (01 R11). A byte that nothing has written reads as zero: HBM4E and LPDDR6 are written with zeros at bring-up (02 R32, step 4). -/
abbrev Memory := Store Byte

/-- The byte at an address. -/
abbrev Memory.read (m : Memory) (a : Nat) : Byte := Store.get 0 m a

/-- Stores one byte. -/
abbrev Memory.write (m : Memory) (a : Nat) (v : Byte) : Memory := Store.put 0 m a v

/-- The canonical form of memory. -/
abbrev Memory.wf (m : Memory) : Bool := Store.wf 0 m

/-- n bytes from an address, lowest address first. -/
def Memory.bytes (m : Memory) (a : Nat) : Nat → List Byte
  | 0 => []
  | n + 1 => m.read a :: Memory.bytes m (a + 1) n

/-- Stores a list of bytes from an address upward. -/
def Memory.writeBytes (m : Memory) (a : Nat) : List Byte → Memory
  | [] => m
  | b :: bs => Memory.writeBytes (m.write a b) (a + 1) bs

/-- The number a list of bytes holds, least significant byte first (00 R4). -/
def ofBytes : List Byte → Nat
  | [] => 0
  | b :: bs => b.toNat + 256 * ofBytes bs

/-- The n low bytes of a number, least significant first (00 R4). -/
def toBytes : Nat → Nat → List Byte
  | 0, _ => []
  | n + 1, x => BitVec.ofNat 8 x :: toBytes n (x / 256)

/-- n bytes from an address, as bytes gives them, from the entries of the range alone. -/
def Memory.part (m : Memory) (a n : Nat) : List Byte := Memory.bytes (m.filter (fun p => decide (a ≤ p.1 ∧ p.1 < a + n))) a n

/-- The entries that bytes from an address upward leave. -/
def Memory.entries (a : Nat) : List Byte → Memory
  | [] => []
  | b :: bs => if b = 0 then Memory.entries (a + 1) bs else (a, b) :: Memory.entries (a + 1) bs

/-- Stores a list of bytes from an address upward, as writeBytes does, in one pass over the memory. -/
def Memory.setPart (m : Memory) (a : Nat) (bs : List Byte) : Memory :=
  m.filter (fun p => decide (p.1 < a)) ++ Memory.entries a bs ++ m.filter (fun p => decide (a + bs.length ≤ p.1))

/-- An n-byte little-endian number at an address. -/
def Memory.num (m : Memory) (a n : Nat) : Nat := ofBytes (m.bytes a n)

/-- Stores the n low bytes of a number at an address. -/
def Memory.setNum (m : Memory) (a n x : Nat) : Memory := m.writeBytes a (toBytes n x)

end Sys2Proof.Machine
end

