-- ==== Sys2Proof/Config.lean ====
section
/-! DEFINITION. What the spec leaves open, as constants with no body (log 3): nothing can evaluate them or prove a value of them. Each is applied to the step counter or to what it depends on. -/

namespace Sys2Proof.Config

/-- Cycles of a cluster that one move takes, by 24 times the move plus the cluster (02 R26; log 3). -/
opaque cycles : Nat → Nat

/-- Which write a read that races returns, by step and 8-byte word: 0 the visible one, more a later one of the coherence order or one on its way (08 R174, R176; log 7). -/
opaque racePick : Nat → Nat → Nat

/-- Whether strong writes on their way to a word are performed after a move, by step and 256 times the word plus the core (08 R176; log 7). -/
opaque performs : Nat → Nat → Bool

/-- Whether a fetch of a block that changed since it was cached returns the new one, by step and block (06 R109; log 8). -/
opaque fetchNew : Nat → Nat → Bool

/-- Energy in microjoules that a cluster spends in a move, ballast apart, by 24 times the move plus the cluster (02 R24; log 3). -/
opaque energy : Nat → Nat

/-- Energy in microjoules that the ballast of an interface spends in a ramp window, by 256 times the move plus the interface (05 R101; log 3). -/
opaque ballastEnergy : Nat → Nat

/-- Energy in microjoules spent outside the clusters in a move: a slice with its share of hubs, links and the host interface, by 12 times the move plus the slice (02 R36; log 3). -/
opaque uncore : Nat → Nat

/-- The lowest supply in millivolts that the fuses allow at a frequency code (02 R28; log 3). -/
opaque voltMin : Nat → Nat

/-- The highest supply in millivolts that the fuses allow at a frequency code (02 R28; log 3). -/
opaque voltMax : Nat → Nat

/-- The guard-band supply in millivolts at a frequency code (02 R28, R29; log 3). -/
opaque voltGuard : Nat → Nat

/-- The secret number of the signature of an attestation report, by move (03 R56; log 9). -/
opaque attNonce : Nat → Nat

/-- What a sampler load takes from a byte of a poisoned word, by address and stored byte, which the spec does not state (06 R126; 09 R200; log 3). -/
opaque poisonByte : Nat → Nat → Byte

/-- The full bit of a line that a copy in flight targets, after empty or fullset named it (13 R288; log 3). -/
opaque lineRace : Nat → Nat → Bool

/-- The virtual channel of the flits for a 4 KiB page of a device, by 2^32 times the device id plus the page, which the spec maps to no channel (01 R16, R19; 08 R184; log 10). -/
opaque channel : Nat → BitVec 3

/-- The CRC-64 of a flit's bytes 0 to 239, whose polynomial the spec does not give (01 R16; log 10). -/
opaque crc64 : Nat → Nat

/-- The bits of a correctly rounded transcendental result whose rounding the interval refinement of the model does not settle within its precision bound, by function and operand (14 R314; log 11). -/
opaque hardRound : Nat → Nat → Nat → Nat

end Sys2Proof.Config
end

