-- ==== Sys2Proof/Machine/Float.lean ====
section
/-! DEFINITION. The number formats and the one rounding (07 R143 to R154, R159): bits to value, exact arithmetic on values, value to bits with flags. -/

namespace Sys2Proof.Machine

/-! ### Flags and formats -/

/-- The bits of FPFLAGS (07 R152). -/
abbrev fNV : Nat := 1
abbrev fDZ : Nat := 2
abbrev fOF : Nat := 4
abbrev fUF : Nat := 8
abbrev fNX : Nat := 16
abbrev fSAT : Nat := 32

/-- Signed integer formats (R143). -/
def isIFmt (f : Nat) : Bool := decide (f < 4)
/-- Unsigned integer formats (R143). -/
def isNFmt (f : Nat) : Bool := decide (4 ≤ f ∧ f < 8)
/-- Integer formats. -/
def isIntFmt (f : Nat) : Bool := decide (f < 8)
/-- The IEEE formats and bfloat16 (R143). -/
def isIeee (f : Nat) : Bool := decide (8 ≤ f ∧ f < 12)
/-- The binary8 formats (R143). -/
def isB8 (f : Nat) : Bool := decide (0x24 ≤ f ∧ f < 0x40)
/-- Floating-point formats. -/
def isFloatFmt (f : Nat) : Bool := isIeee f || isB8 f
/-- Codes that name a format (R143). -/
def fmtOk (f : Nat) : Bool := isIntFmt f || isFloatFmt f

/-- Bytes of an element (R143). -/
def fmtBytes (f : Nat) : Nat :=
  if f < 8 then 2 ^ (f % 4)
  else if f = 0x0A then 4
  else if f = 0x0B then 8
  else if f < 0x0A then 2
  else 1

abbrev F16 : Nat := 0x08
abbrev BF16 : Nat := 0x09
abbrev F32 : Nat := 0x0A
abbrev F64 : Nat := 0x0B

/-- The parameters of a floating-point format (R144, R147). Magnitude codes are e * 2^t + trailing bits; smask is the weight of the sign bit, 0 for none. -/
structure FloatFmt where
  t : Nat
  bias : Int
  smask : Nat
  maxCode : Nat
  infCode : Option Nat
  nanCode : Nat
  ieee : Bool
  deriving DecidableEq, Repr, Inhabited

/-- An IEEE format of w exponent bits and t trailing bits (R147). -/
def ieeeFmt (w t : Nat) : FloatFmt :=
  let top := (2 ^ w - 1) * 2 ^ t
  { t := t, bias := 2 ^ (w - 1) - 1, smask := 2 ^ (w + t), maxCode := top - 1, infCode := some top
    nanCode := top + 2 ^ (t - 1), ieee := true }

/-- A binary8 format (R144). -/
def b8Fmt (f : Nat) : FloatFmt :=
  let p := bitsOf f 4 2
  let ext := bitAt f 0
  if bitAt f 1 then
    { t := p - 1, bias := 2 ^ (8 - p), smask := 0, maxCode := if ext then 0xFD else 0xFE
      infCode := if ext then some 0xFE else none, nanCode := 0xFF, ieee := false }
  else
    { t := p - 1, bias := 2 ^ (7 - p), smask := 0x80, maxCode := if ext then 0x7E else 0x7F
      infCode := if ext then some 0x7F else none, nanCode := 0x80, ieee := false }

/-- The parameters of a format code. -/
def floatFmt (f : Nat) : FloatFmt :=
  if f = F16 then ieeeFmt 5 10
  else if f = BF16 then ieeeFmt 8 7
  else if f = F32 then ieeeFmt 8 23
  else if f = F64 then ieeeFmt 11 52
  else b8Fmt f

/-! ### Values -/

/-- What an element stands for: a NaN, signalling or not, an infinity, or the number with the given sign, m * 2^e; m is 0 for a signed zero. -/
inductive Val where
  | nan (signalling : Bool)
  | inf (neg : Bool)
  | num (neg : Bool) (m : Nat) (e : Int)
  deriving DecidableEq, Repr, Inhabited

/-- The bit length of a number. -/
def bitLen (m : Nat) : Nat := if m = 0 then 0 else Nat.log2 m + 1

/-- An integer as a value. -/
def Val.ofInt (x : Int) : Val := .num (decide (x < 0)) x.natAbs 0

/-- An integer times 2^e as a value; zero has the given sign. -/
def Val.scaled (x : Int) (e : Int) (zeroNeg : Bool) : Val :=
  if x = 0 then .num zeroNeg 0 0 else .num (decide (x < 0)) x.natAbs e

def Val.isNan : Val → Bool
  | .nan _ => true
  | _ => false

def Val.isInf : Val → Bool
  | .inf _ => true
  | _ => false

def Val.isZero : Val → Bool
  | .num _ 0 _ => true
  | _ => false

def Val.isNeg : Val → Bool
  | .nan _ => false
  | .inf n => n
  | .num n _ _ => n

/-- The value with its sign inverted. -/
def Val.neg : Val → Val
  | .nan q => .nan q
  | .inf n => .inf (!n)
  | .num n m e => .num (!n) m e

/-- The magnitude of a value. -/
def Val.abs : Val → Val
  | .nan q => .nan q
  | .inf _ => .inf false
  | .num _ m e => .num false m e

/-- NV where a value is a signalling NaN (R147). -/
def Val.snan : Val → Nat
  | .nan true => fNV
  | _ => 0

/-- The number's signed significand at exponent e0, which is at most its own. -/
def Val.at (e0 : Int) : Val → Int
  | .num n m e => let x : Int := m * 2 ^ (e - e0).toNat; if n then -x else x
  | _ => 0

/-- The exponent of a number. -/
def Val.exp : Val → Int
  | .num _ _ e => e
  | _ => 0

/-- A number times 2^k. -/
def Val.shift (k : Int) : Val → Val
  | .num n m e => .num n m (e + k)
  | v => v

/-- The value of an element's bits (R144, R147, R148). -/
def valueOf (f bits : Nat) : Val :=
  let b := bits % 2 ^ (8 * fmtBytes f)
  if isIFmt f then .ofInt (Sys2Proof.sext b (8 * fmtBytes f))
  else if isNFmt f then .ofInt b
  else
    let p := floatFmt f
    let neg := p.smask != 0 && bitAt (b / p.smask) 0
    let m := if p.smask = 0 then b else b % p.smask
    if !p.ieee && b == p.nanCode then .nan false
    else if p.infCode = some m then .inf neg
    else if p.ieee && decide (p.infCode.getD 0 < m) then .nan (!bitAt m (p.t - 1))
    else
      let e := m / 2 ^ p.t
      let t := m % 2 ^ p.t
      if e = 0 then .num neg t (1 - p.bias - p.t) else .num neg (2 ^ p.t + t) (e - p.bias - p.t)

/-! ### Rounding -/

/-- How a rounding mode acts on a magnitude. -/
inductive How where
  | nearest
  | down
  | up
  deriving DecidableEq, Repr

/-- The rounding modes (R149) applied to the magnitude of a value of the given sign. -/
def how (mode : Nat) (neg : Bool) : How :=
  match mode with
  | 0 => .nearest
  | 1 => .down
  | 2 => if neg then .down else .up
  | _ => if neg then .up else .down

/-- The multiple of 2^q at or below m * 2^e, and twice the remainder compared with 2^q: none where exact, else less, equal or greater. -/
def truncAt (m : Nat) (e q : Int) : Nat × Option Ordering :=
  if q ≤ e then (m * 2 ^ (e - q).toNat, none)
  else
    let d := 2 ^ (q - e).toNat
    let r := m % d
    (m / d, if r = 0 then none else some (compare (2 * r) d))

/-- Whether to step away from zero; odd says that the code below is odd. -/
def stepUp (h : How) (rem : Option Ordering) (odd : Bool) : Bool :=
  match rem with
  | none => false
  | some o =>
    match h with
    | .down => false
    | .up => true
    | .nearest =>
      match o with
      | .lt => false
      | .eq => odd
      | .gt => true

/-- A magnitude m * 2^e, m > 0, rounded as if the exponent had no upper bound: the magnitude code, whether inexact, and whether tiny after rounding (R149, R150). -/
def roundCode (p : FloatFmt) (h : How) (m : Nat) (e : Int) : Nat × Bool × Bool :=
  let top : Int := e + (bitLen m - 1 : Nat)
  let sub := decide (top < 1 - p.bias)
  let q : Int := if sub then 1 - p.bias - p.t else top - p.t
  let (lo, rem) := truncAt m e q
  let c := if sub then lo else (top + p.bias).toNat * 2 ^ p.t + lo - 2 ^ p.t
  let c' := if stepUp h rem (c % 2 == 1) then c + 1 else c
  -- with an unbounded exponent the value would be rounded at its own precision
  let (ulo, urem) := truncAt m e (top - p.t)
  let uodd := if p.t = 0 then (top + p.bias) % 2 == 1 else ulo % 2 == 1
  let reaches := decide (top = -p.bias) && ulo + 1 == 2 ^ (p.t + 1) && stepUp h urem uodd
  (c', rem.isSome, sub && !reaches)

/-- A magnitude code with its sign; binary8 has no negative zero (R144). -/
def packCode (p : FloatFmt) (neg : Bool) (c : Nat) : Nat :=
  if neg && (p.ieee || c != 0) then c + p.smask else c

/-- One rounding to a floating-point format (R150, R151): bits and flags. -/
def roundFloat (f mode : Nat) (sat : Bool) (v : Val) : Nat × Nat :=
  let p := floatFmt f
  let unsigned := p.smask == 0
  let clamp (neg : Bool) : Nat × Nat := (packCode p neg p.maxCode, fSAT ||| fNX)
  match v with
  | .nan q => (p.nanCode, if q then fNV else 0)
  | .inf neg =>
    if unsigned && neg then if sat then (0, fSAT ||| fNX) else (p.nanCode, fNV)
    else
      match p.infCode with
      | some c => (packCode p neg c, 0)
      | none => if sat then clamp neg else (p.nanCode, fNV)
  | .num neg 0 _ => (packCode p (neg && !unsigned) 0, 0)
  | .num neg m e =>
    let h := how mode neg
    let (c, inexact, tiny) := roundCode p h m e
    let fl := if inexact then fNX ||| (if tiny then fUF else 0) else 0
    if unsigned && neg then
      if c = 0 then (0, fl) else if sat then (0, fSAT ||| fNX) else (p.nanCode, fNV)
    else if p.maxCode < c then
      if sat then clamp neg
      else
        match p.infCode with
        | some i => (packCode p neg (if h = .down then p.maxCode else i), fOF ||| fNX)
        | none => (p.nanCode, fOF ||| fNX)
    else (packCode p neg c, fl)

/-- The least and the largest value of an integer format (R148). -/
def intRange (f : Nat) : Int × Int :=
  let w := 8 * fmtBytes f
  if isIFmt f then (-(2 ^ (w - 1)), 2 ^ (w - 1) - 1) else (0, 2 ^ w - 1)

/-- An integer result wrapped, or clamped with SAT (R148). -/
def wrapInt (f : Nat) (sat : Bool) (x : Int) : Nat × Nat :=
  let (lo, hi) := intRange f
  let w := 8 * fmtBytes f
  if sat && decide (x < lo) then (wrapNat lo w, fSAT)
  else if sat && decide (hi < x) then (wrapNat hi w, fSAT)
  else (wrapNat x w, 0)

/-- One rounding of a value to an integer format (R151). -/
def roundInt (f mode : Nat) (sat : Bool) (v : Val) : Nat × Nat :=
  let (lo, hi) := intRange f
  let w := 8 * fmtBytes f
  let out (x : Int) : Nat × Nat := (wrapNat x w, if sat then fSAT ||| fNX else fNV)
  match v with
  | .nan _ => (0, fNV)
  | .inf neg => out (if neg then lo else hi)
  | .num neg m e =>
    let (c, rem) := truncAt m e 0
    let c' : Int := if stepUp (how mode neg) rem (c % 2 == 1) then c + 1 else c
    let x := if neg then -c' else c'
    if x < lo then out lo else if hi < x then out hi else (wrapNat x w, if rem.isSome then fNX else 0)

/-- One rounding to any format. -/
def roundTo (f mode : Nat) (sat : Bool) (v : Val) : Nat × Nat :=
  if isIntFmt f then roundInt f mode sat v else roundFloat f mode sat v

/-- A format's canonical NaN, and 0 for an integer format (R147, R151). -/
def nanBits (f : Nat) : Nat := if isIntFmt f then 0 else (floatFmt f).nanCode

/-- A conversion between formats (R154): integers wrap or clamp, everything else rounds once. -/
def convert (s d mode : Nat) (sat : Bool) (bits : Nat) : Nat × Nat :=
  if isIntFmt s && isIntFmt d then
    wrapInt d sat (if isIFmt s then Sys2Proof.sext bits (8 * fmtBytes s) else (bits % 2 ^ (8 * fmtBytes s) : Nat))
  else
    let v := valueOf s bits
    roundTo d mode sat v

/-! ### Exact arithmetic -/

/-- An exact result and the flags that arise before its rounding. -/
abbrev FRes := Val × Nat

/-- Sum (R150): an exact zero of opposite signs is +0, or -0 under rdn. -/
def addVal (mode : Nat) (a b : Val) : FRes :=
  match a, b with
  | .nan _, _ => (.nan false, 0)
  | _, .nan _ => (.nan false, 0)
  | .inf x, .inf y => if x = y then (.inf x, 0) else (.nan false, fNV)
  | .inf x, _ => (.inf x, 0)
  | _, .inf y => (.inf y, 0)
  | .num x m e, .num y n k =>
    let q := min e k
    let sum := (Val.num x m e).at q + (Val.num y n k).at q
    if sum = 0 then (.num (if x = y then x else mode == 3) 0 0, 0) else (.scaled sum q false, 0)

/-- Product. -/
def mulVal (a b : Val) : FRes :=
  match a, b with
  | .nan _, _ => (.nan false, 0)
  | _, .nan _ => (.nan false, 0)
  | .inf x, .inf y => (.inf (x != y), 0)
  | .inf x, .num y m _ => if m = 0 then (.nan false, fNV) else (.inf (x != y), 0)
  | .num x m _, .inf y => if m = 0 then (.nan false, fNV) else (.inf (x != y), 0)
  | .num x m e, .num y n k => (.num (x != y) (m * n) (e + k), 0)

/-- m / n for n > 0 to at least 130 bits, with a lowest bit that says whether anything lies below: it rounds as the exact quotient does in every format. -/
def quotient (m n : Nat) : Nat × Int :=
  let k := 130 + bitLen n - bitLen m
  let x := m * 2 ^ k
  (x / n * 2 + (if x % n = 0 then 0 else 1), -(k : Int) - 1)

/-- Quotient (R269, R305). -/
def divVal (a b : Val) : FRes :=
  match a, b with
  | .nan _, _ => (.nan false, 0)
  | _, .nan _ => (.nan false, 0)
  | .inf _, .inf _ => (.nan false, fNV)
  | .inf x, .num y _ _ => (.inf (x != y), 0)
  | .num x _ _, .inf y => (.num (x != y) 0 0, 0)
  | .num x m e, .num y n k =>
    if n = 0 then if m = 0 then (.nan false, fNV) else (.inf (x != y), fDZ)
    else if m = 0 then (.num (x != y) 0 0, 0)
    else
      let (q, d) := quotient m n
      (.num (x != y) q (e - k + d), 0)

/-- The integer square root, bit by bit from bit k - 1. -/
def isqrtAux : Nat → Nat → Nat → Nat
  | 0, _, r => r
  | k + 1, n, r => let r' := r + 2 ^ k; isqrtAux k n (if r' * r' ≤ n then r' else r)

/-- floor(sqrt n). -/
def isqrt (n : Nat) : Nat := isqrtAux (bitLen n / 2 + 1) n 0

/-- Square root, to at least 130 bits with a lowest bit that says whether anything lies below (R269). -/
def sqrtVal (a : Val) : FRes :=
  match a with
  | .nan _ => (.nan false, 0)
  | .inf x => if x then (.nan false, fNV) else (.inf false, 0)
  | .num x 0 _ => (.num x 0 0, 0)
  | .num x m e =>
    if x then (.nan false, fNV)
    else
      let (m, e) := if e % 2 = 0 then (m, e) else (2 * m, e - 1)
      let k := 131 - bitLen m / 2
      let big := m * 2 ^ (2 * k)
      let r := isqrt big
      (.num false (r * 2 + (if r * r = big then 0 else 1)) (e / 2 - k - 1), 0)

/-- -1, 0 or 1 as a is below, equal to or above b; none where either is a NaN. Zeros are equal. -/
def cmpVal (a b : Val) : Option Ordering :=
  match a, b with
  | .nan _, _ => none
  | _, .nan _ => none
  | .inf x, .inf y => some (if x = y then .eq else if x then .lt else .gt)
  | .inf x, _ => some (if x then .lt else .gt)
  | _, .inf y => some (if y then .gt else .lt)
  | a, b => let q := min a.exp b.exp; some (compare (a.at q) (b.at q))

/-- The order of cmpVal with -0 below +0; NaN is equal to all. -/
def orderVal (a b : Val) : Ordering :=
  match cmpVal a b with
  | none => .eq
  | some .eq => if a.isZero && b.isZero && a.isNeg && !b.isNeg then .lt
                else if a.isZero && b.isZero && b.isNeg && !a.isNeg then .gt else .eq
  | some o => o

/-- The smaller or larger operand: one NaN gives the other operand, two give NaN (R269). -/
def minMax (max : Bool) (a b : Val) : Val :=
  if a.isNan then (if b.isNan then .nan false else b)
  else if b.isNan then a
  else
    let keep := match orderVal a b with
      | .lt => !max
      | .gt => max
      | .eq => true
    if keep then a else b

/-- a * b + c, or a * b - c, exact (R269, R305): an infinity times zero sets NV whatever c is. -/
def fmaVal (mode : Nat) (sub : Bool) (a b c : Val) : FRes :=
  let (p, fl) := mulVal a b
  if p.isNan || c.isNan then (.nan false, fl)
  else
    let (r, fl') := addVal mode p (if sub then c.neg else c)
    (r, fl ||| fl')

/-- The exact sum of exact terms, as R159 and R316 give it. A NaN term makes it NaN with the given flags. -/
def sumVals (nanFlags : Nat) (ts : List Val) : FRes :=
  if ts.any Val.isNan then (.nan false, nanFlags)
  else if ts.any (· == .inf false) && ts.any (· == .inf true) then (.nan false, fNV)
  else if ts.any (· == .inf false) then (.inf false, 0)
  else if ts.any (· == .inf true) then (.inf true, 0)
  else
    let q := ts.foldl (fun q t => min q t.exp) 0
    let sum := ts.foldl (fun (x : Int) t => x + t.at q) 0
    (.scaled sum q (!ts.isEmpty && ts.all Val.isNeg), 0)

end Sys2Proof.Machine
end

