-- ==== Sys2Proof/Machine/Trans.lean ====
section
/-! DEFINITION. Correctly rounded functions (14 R314, R323; 16 R363; 07 R167). Each function is enclosed between two exact values, whose rounding is taken where both agree; the enclosure is refined until they do, up to 8 192 bits (log 11). Fixed-point numbers carry p fraction bits, of which the last 32 absorb every truncation. -/

namespace Sys2Proof.Machine

/-- An enclosure of a real number. -/
abbrev Encl := Val × Val

/-- The slack that absorbs the truncations of fewer than 2^28 fixed-point operations. -/
abbrev slack : Int := 2 ^ 32

/-- The enclosure of a fixed-point approximation, times 2^k. -/
def encl (p : Nat) (x k : Int) : Encl :=
  (.scaled (x - slack) (k - p) false, .scaled (x + slack) (k - p) false)

/-- Sum of t, t*z2/(d+2)... : the series z + z^3/3 + z^5/5 + ..., or with alternating signs, in fixed point; z is at most 1/3 in magnitude. -/
def oddSeries (p : Nat) (alt : Bool) (z2 : Int) : Nat → Int → Int → Int
  | 0, _, _ => 0
  | n + 1, t, d => t / d + oddSeries p alt z2 n ((if alt then -t else t) * z2 / 2 ^ p) (d + 2)

/-- atanh z or, with alternating signs, atan z. -/
def atanSeries (p : Nat) (alt : Bool) (z : Int) : Int := oddSeries p alt (z * z / 2 ^ p) (p / 3 + 4) z 1

/-- ln 2. -/
def ln2Fix (p : Nat) : Int := 2 * atanSeries p false (2 ^ p / 3)

/-- Pi (Machin's formula). -/
def piFix (p : Nat) : Int := 16 * atanSeries p true (2 ^ p / 5) - 4 * atanSeries p true (2 ^ p / 239)

/-- The power series of the exponential, sine or cosine: each term is the one before times z over d (d + 1) ... -/
def expSeries (p : Nat) (r : Int) : Nat → Int → Int → Int
  | 0, _, _ => 0
  | n + 1, t, d => t + expSeries p r n (t * r / 2 ^ p / d) (d + 1)

/-- Alternating series in r2 from term t, whose next factor is 1/(d (d + 1)). -/
def trigSeries (p : Nat) (r2 : Int) : Nat → Int → Int → Int
  | 0, _, _ => 0
  | n + 1, t, d => t + trigSeries p r2 n (-(t * r2 / 2 ^ p / (d * (d + 1)))) (d + 2)

/-- A number in fixed point, rounded down. -/
def fix (p : Nat) (neg : Bool) (m : Nat) (e : Int) : Int :=
  let s := e + p
  let x : Int := if 0 ≤ s then m * 2 ^ s.toNat else m / 2 ^ (-s).toNat
  if neg then -x else x

/-- e^x for a nonzero number; beyond 2^14 in magnitude every format overflows or rounds as the least magnitude does. -/
def expEncl (p : Nat) (neg : Bool) (m : Nat) (e : Int) : Encl :=
  if 14 < e + bitLen m then
    if neg then (.num false 1 (-20002), .num false 1 (-20001)) else (.num false 1 20001, .num false 1 20002)
  else
    let l := ln2Fix p
    let x := fix p neg m e
    let k := x / l
    encl p (expSeries p (x - k * l) (p + 8) (2 ^ p) 1) k

/-- ln x for a positive number. -/
def lnEncl (p : Nat) (m : Nat) (e : Int) : Encl :=
  let b := bitLen m
  let one : Int := 2 ^ p
  let f := fix p false m (1 - (b : Int))
  let z := (f - one) * one / (f + one)
  encl p ((e + b - 1) * ln2Fix p + 2 * atanSeries p false z) 0

/-- (y - 1) / (y + 1), which rises with y, at both ends. -/
def tanhEncl (p : Nat) (neg : Bool) (m : Nat) (e : Int) : Encl :=
  let one := Val.num false 1 0
  let at' (y : Val) : Val := (divVal (addVal 0 y one.neg).1 (addVal 0 y one).1).1
  let y := expEncl p false m (e + 1)
  let r := (at' y.1, at' y.2)
  if neg then (r.2.neg, r.1.neg) else r

/-- 1 / (1 + e^(-x)), which falls with e^(-x), at both ends. -/
def sigmEncl (p : Nat) (neg : Bool) (m : Nat) (e : Int) : Encl :=
  let one := Val.num false 1 0
  let at' (y : Val) : Val := (divVal one (addVal 0 y one).1).1
  let y := expEncl p (!neg) m e
  (at' y.2, at' y.1)

/-- Sine or cosine: the argument less a multiple of pi/2, by quadrant. -/
def trigEncl (p : Nat) (cosine : Bool) (neg : Bool) (m : Nat) (e : Int) : Encl :=
  let extra := (e + bitLen m).toNat + 8
  let h := piFix (p + extra) / 2
  let x := fix (p + extra) false m e
  let q := x / h
  let r := (x - q * h) / 2 ^ extra
  let one : Int := 2 ^ p
  let r2 := r * r / one
  let n := p / 2 + 8
  let s := trigSeries p r2 n r 2
  let c := trigSeries p r2 n one 1
  let quad := (q % 4).toNat
  let v :=
    if cosine then match quad with | 0 => c | 1 => -s | 2 => -c | _ => s
    else
      let y := match quad with | 0 => s | 1 => c | 2 => -s | _ => -c
      if neg then -y else y
  encl p v 0

/-- The rounding on which both ends of an enclosure agree, refining it while fuel lasts. -/
def settle (round : Val → Nat × Nat) (f : Nat → Encl) : Nat → Nat → Option (Nat × Nat)
  | 0, _ => none
  | n + 1, p =>
    let (lo, hi) := f p
    if round lo = round hi then some (round lo) else settle round f n (2 * p)

/-- The functions of R314 by opcode less 0x40. -/
inductive Func where
  | exp | ln | tanh | sigm | rsqrt | rcp | sin | cos
  deriving DecidableEq, Repr

/-- A result whose rounding is settled, or the free value of log 11. -/
def rounded (f mode : Nat) (sat : Bool) (code bits : Nat) (g : Nat → Encl) : Nat × Nat :=
  match settle (roundTo f mode sat) g 7 128 with
  | some r => r
  | none => (Config.hardRound code f bits % 2 ^ (8 * fmtBytes f), fNX)

/-- f(a) correctly rounded to format f, with its flags (R314). -/
def transc (fn : Func) (f mode : Nat) (sat : Bool) (bits : Nat) (a : Val) : Nat × Nat :=
  let out (v : Val) (fl : Nat) : Nat × Nat := let (b, g) := roundTo f mode sat v; (b, g ||| fl)
  let exact (v : Val) : Nat × Nat := out v 0
  match fn, a with
  | _, .nan q => out (.nan false) (if q then fNV else 0)
  | .exp, .inf n => exact (if n then .num false 0 0 else .inf false)
  | .exp, .num n m e => if m = 0 then exact (.num false 1 0) else rounded f mode sat 0 bits (fun p => expEncl p n m e)
  | .ln, .inf n => if n then out (.nan false) fNV else exact (.inf false)
  | .ln, .num n m e =>
    if m = 0 then out (.inf true) fDZ
    else if n then out (.nan false) fNV
    else if cmpVal a (.num false 1 0) = some .eq then exact (.num false 0 0)
    else rounded f mode sat 1 bits (fun p => lnEncl p m e)
  | .tanh, .inf n => exact (.num n 1 0)
  | .tanh, .num n m e => if m = 0 then exact a else rounded f mode sat 2 bits (fun p => tanhEncl p n m e)
  | .sigm, .inf n => exact (if n then .num false 0 0 else .num false 1 0)
  | .sigm, .num n m e => if m = 0 then exact (.num false 1 (-1)) else rounded f mode sat 3 bits (fun p => sigmEncl p n m e)
  | .rsqrt, .inf n => if n then out (.nan false) fNV else exact (.num false 0 0)
  | .rsqrt, .num n m e =>
    if m = 0 then out (.inf n) fDZ
    else if n then out (.nan false) fNV
    else
      -- sqrt(1/a) = sqrt(floor) with what lies below folded into the lowest bit
      let k : Int := if e % 2 = 0 then 0 else 1
      let s := 2 * (bitLen m + 140)
      let num := 2 ^ (s + k.toNat)
      let y := num / m
      let r := isqrt y
      exact (.num false (r * 2 + (if r * r * m = num then 0 else 1)) (-((e + k) / 2) - (s / 2 : Nat) - 1))
  | .rcp, .inf n => exact (.num n 0 0)
  | .rcp, .num n m _ =>
    if m = 0 then out (.inf n) fDZ else exact (divVal (.num false 1 0) a).1
  | .sin, .inf _ => out (.nan false) fNV
  | .sin, .num n m e => if m = 0 then exact a else rounded f mode sat 6 bits (fun p => trigEncl p false n m e)
  | .cos, .inf _ => out (.nan false) fNV
  | .cos, .num n m e => if m = 0 then exact (.num false 1 0) else rounded f mode sat 7 bits (fun p => trigEncl p true n m e)

end Sys2Proof.Machine
end

