-- ==== Sys2Proof/Machine/Exact.lean ====
section
/-! DEFINITION. Exact accumulator objects (07 R163 to R166), Gumbel noise (R167), CDF construction (R168) and CRC-32C (R156). -/

namespace Sys2Proof.Machine

/-! ### Exact accumulator objects -/

/-- The bin count of an object from its 16 header bytes as a number; none where the object is not valid (R163). -/
def xobjBins (hdr : Nat) : Option Nat :=
  let b := bitsOf hdr 21 16
  let e0 := Sys2Proof.sext hdr 16
  if bitsOf hdr 31 22 = 0 ∧ hdr < 2 ^ 36 ∧ 1 ≤ b ∧ -1074 ≤ e0 ∧ e0 ≤ 1023 then some b else none

/-- The header flags as weights (R163). -/
abbrev xWexc : Nat := 2 ^ 32
abbrev xNan : Nat := 2 ^ 33
abbrev xPinf : Nat := 2 ^ 34
abbrev xNinf : Nat := 2 ^ 35

/-- The carry fold of R164 from the lowest bin upward; the top bin only receives. -/
def carryFold : List Int → List Int
  | [] => []
  | [x] => [x]
  | x :: y :: r =>
    let c := (x + 2 ^ 39) / 2 ^ 40
    (x - c * 2 ^ 40) :: carryFold' c y r
where
  carryFold' (c : Int) (y : Int) : List Int → List Int
    | [] => [y + c]
    | z :: r =>
      let x := y + c
      let d := (x + 2 ^ 39) / 2 ^ 40
      (x - d * 2 ^ 40) :: carryFold' d z r

/-- Adds the base-2^40 digits of n, with sign, to the bins. -/
def addDigits (neg : Bool) : Nat → List Int → List Int
  | _, [] => []
  | n, x :: r =>
    let d : Int := (n % 2 ^ 40 : Nat)
    (if neg then x - d else x + d) :: addDigits neg (n / 2 ^ 40) r

/-- The exact add of R164 on an object's header and bins. -/
def xobjAdd (hdr : Nat) (bins : List Int) (x : Val) : Nat × List Int :=
  match x with
  | .nan _ => (hdr ||| xNan, bins)
  | .inf n => (hdr ||| (if n then xNinf else xPinf), bins)
  | .num neg m e =>
    if hdr &&& xWexc ≠ 0 || m == 0 then (hdr, bins)
    else
      let s := e - Sys2Proof.sext hdr 16
      let (n, rem) := truncAt m s 0
      if rem.isSome || decide (2 ^ (40 * (bins.length - 1)) ≤ n) then (hdr ||| xWexc, bins)
      else
        let bins' := carryFold (addDigits neg n bins)
        let top := bins'.getLastD 0
        (if decide (-(2 ^ 63) ≤ top ∧ top < 2 ^ 63) then hdr else hdr ||| xWexc, bins')

/-- The exact sum of the bins, in units of the lowest bin's weight. -/
def xobjSum : List Int → Int
  | [] => 0
  | x :: r => x + 2 ^ 40 * xobjSum r

/-- The exact read of R166: binary64 bits and flags. -/
def xobjRead (hdr mode : Nat) (bins : List Int) : Nat × Nat :=
  if hdr &&& (xWexc ||| xNan) ≠ 0 || (hdr &&& xPinf ≠ 0 && hdr &&& xNinf ≠ 0) then (nanBits F64, fNV)
  else if hdr &&& xPinf ≠ 0 then roundFloat F64 mode false (.inf false)
  else if hdr &&& xNinf ≠ 0 then roundFloat F64 mode false (.inf true)
  else roundFloat F64 mode false (.scaled (xobjSum bins) (Sys2Proof.sext hdr 16) false)

/-- The bins in an object's bytes after the header. -/
def binsOf (bytes : List Byte) : Nat → List Int
  | 0 => []
  | n + 1 => Sys2Proof.sext (ofBytes (bytes.take 8)) 64 :: binsOf (bytes.drop 8) n

/-- An object's bytes: the header's 16 and 8 for each bin, modulo 2^64. -/
def xobjBytes (hdr : Nat) (bins : List Int) : List Byte :=
  toBytes 16 hdr ++ bins.flatMap (fun x => toBytes 8 (wrapNat x 64))

/-! ### Gumbel noise -/

/-- The shift and multiplier constants of R167. -/
def gumbelMix : List (Nat × Nat) :=
  [(31, 0xA3C59AC23D6E8F17), (29, 0xC7B1E0D56A3F9A2B), (32, 0xE5F21C9BD0834A6D), (27, 0x8B3D97A1F26C05E3)]

/-- The hash h of R167. -/
def gumbelHash (seed pos idx : Nat) : Nat :=
  let h := Nat.xor (Nat.xor (seed % 2 ^ 64) (pos * 0x9E6D55A31B7C4F21 % 2 ^ 64)) (idx * 0xD2B74407A94E6C35 % 2 ^ 64)
  let h := gumbelMix.foldl (fun h c => let h := Nat.xor h (h / 2 ^ c.1); h * c.2 % 2 ^ 64) h
  Nat.xor h (h / 2 ^ 33)

/-- u of R167, exact. -/
def gumbelU (seed pos idx : Nat) : Val := .num false (2 * (gumbelHash seed pos idx / 2 ^ 40) + 1) (-25)

/-- The noise g of R167 as binary32 bits. -/
def gumbel (seed pos idx : Nat) : Nat :=
  let a := valueOf F64 (transc .ln F64 0 false (gumbelHash seed pos idx) (gumbelU seed pos idx)).1
  let b := valueOf F64 (transc .ln F64 0 false (gumbelHash seed pos idx) a.neg).1
  (roundFloat F32 0 false b.neg).1

/-! ### CDF construction -/

/-- Whether a weight is negative, NaN or infinite; -0 counts as 0 (R168). -/
def badWeight : Val → Bool
  | .nan _ => true
  | .inf _ => true
  | .num n m _ => n && m != 0

/-- Running sums from x. -/
def runningSums (x : Nat) : List Nat → List Nat
  | [] => [x]
  | f :: r => x :: runningSums (x + f) r

/-- Adds d to the element at position i. -/
def addNth (d : Nat) : Nat → List Nat → List Nat
  | _, [] => []
  | 0, x :: r => (x + d) :: r
  | i + 1, x :: r => x :: addNth d i r

/-- The lowest position of the largest element. -/
def maxPos (l : List Nat) : Nat := l.findIdx (· == l.foldl Nat.max 0)

/-- The cells cum[0] to cum[n] of R168 for weights and precision p; none for an invalid weight. -/
def cdfCells (p : Nat) (ws : List Val) : Option (List Nat) :=
  if ws.any badWeight then none
  else
    let q := ws.foldl (fun q w => min q w.exp) 0
    let ns := ws.map (fun w => (w.at q).natAbs)
    let s := ns.foldl (· + ·) 0
    let n := ws.length
    let f := ns.map (fun w => if s = 0 then 1 else 1 + w * (2 ^ p - n) / s)
    let f := addNth (2 ^ p - f.foldl (· + ·) 0) (maxPos f) f
    some (runningSums 0 f)

/-! ### CRC-32C -/

/-- Eight shifts of the reflected CRC-32C. -/
def crcShift : Nat → Nat → Nat
  | 0, c => c
  | n + 1, c => crcShift n (if c % 2 = 1 then Nat.xor (c / 2) 0x82F63B78 else c / 2)

/-- The Castagnoli CRC of bytes in increasing address order (R156). -/
def crc32c (bs : List Byte) : Nat :=
  Nat.xor (bs.foldl (fun c b => crcShift 8 (Nat.xor c b.toNat)) 0xFFFFFFFF) 0xFFFFFFFF

end Sys2Proof.Machine
end

