-- ==== Sys2Proof/Machine/State.lean ====
section
/-! DEFINITION. The state of a PLV-S1 device as plain data: everything the spec gives the machine, and the few fields of the model's own that say who moves next (log 2) and feed free values (log 3). INVENTORY.md lists each field with its rule and reset value. -/

namespace Sys2Proof.Machine

/-- Why a step stops for good. It has no constructor: everything that stops a program on this device is itself a state, a trap, an engine fault, an error reply, a status record or the recovery state (03 R48; 13 R294 to R297; 02 R32). -/
inductive Fault where
  deriving DecidableEq, Repr

/-- Why an instruction has no meaning. -/
inductive Refusal where
  /-- Raised by an arm of exec that has no meaning yet. Safe: the machine stops. -/
  | notModelled (mnemonic : String)
  deriving DecidableEq, Repr

/-- Who makes a move. An event names the step, the unit it acts on and its argument, as its docstring in Syntax says. -/
inductive Agent where
  | idle
  | scalar (core x : Nat)
  | row (core : Nat)
  | mat (core : Nat)
  | sampler (seq : Nat)
  | event (i : Instr) (unit arg : Nat)
  deriving DecidableEq, Repr, Inhabited

/-- The trap and fault causes (13 R296). -/
inductive Cause where
  | illegalInstruction | orphanPrefix | alignment | loopEndInDelay | controlInDelay | queueDirection
  | unclaimed | controlValue | resourceBusy | softwareTrap | misaligned | stalledOnEmpty | tileBankOff
  | registerData | semOverflow | barrierOverrun | banksOpen | engineFault | illFormed
  | notMapped | permission | hostNotPresent | hostUnavailable | noMemory | poison | peerDenied | peerLinkDown
  | atomicUnsupported | layoutInvalid | trailerMismatch | exactRange | accInvalid | cdfWeight
  | streamInvalid | bitstreamLimit | zeroFreq | probInvalid | samplerReply
  | strongInWindow | remoteInWindow | windowLimit | windowState | windowNotOwned | windowAtDone
  | windowAtRelease | hostReset
  deriving DecidableEq, Repr, Inhabited

/-- The code of a cause (13 R296). -/
def Cause.code : Cause → Nat
  | .illegalInstruction => 0x01 | .orphanPrefix => 0x02 | .alignment => 0x03 | .loopEndInDelay => 0x04
  | .controlInDelay => 0x05 | .queueDirection => 0x06 | .unclaimed => 0x07 | .controlValue => 0x08
  | .resourceBusy => 0x09 | .softwareTrap => 0x0A | .misaligned => 0x0B | .stalledOnEmpty => 0x0C
  | .tileBankOff => 0x0D | .registerData => 0x0E | .semOverflow => 0x0F | .barrierOverrun => 0x10
  | .banksOpen => 0x11 | .engineFault => 0x12 | .illFormed => 0x13
  | .notMapped => 0x20 | .permission => 0x21 | .hostNotPresent => 0x22 | .hostUnavailable => 0x23
  | .noMemory => 0x24 | .poison => 0x25 | .peerDenied => 0x26 | .peerLinkDown => 0x27
  | .atomicUnsupported => 0x28 | .layoutInvalid => 0x29 | .trailerMismatch => 0x2A
  | .exactRange => 0x30 | .accInvalid => 0x31 | .cdfWeight => 0x32
  | .streamInvalid => 0x38 | .bitstreamLimit => 0x39 | .zeroFreq => 0x3A | .probInvalid => 0x3B
  | .samplerReply => 0x3C | .strongInWindow => 0x40 | .remoteInWindow => 0x41 | .windowLimit => 0x42
  | .windowState => 0x43 | .windowNotOwned => 0x44 | .windowAtDone => 0x45 | .windowAtRelease => 0x46
  | .hostReset => 0x50

/-- The resumable causes (13 R296, 04 R75). -/
def Cause.resumable : Cause → Bool
  | .notMapped => true
  | .permission => true
  | .hostNotPresent => true
  | _ => false

/-! ### The scalar contexts -/

/-- A prefix latched for the word that follows it (12 R239, R240; log 6). -/
structure Pfx where
  rnd : Nat := 0
  rv : Bool := false
  sat : Bool := false
  hi : Nat := 0
  deriving DecidableEq, Repr, Inhabited

/-- An armed loop level: its counter, the first word of its body and the address after its end block (13 R274). -/
structure LoopLv where
  n : Nat
  start : Nat
  fin : Nat
  deriving DecidableEq, Repr, Inhabited

/-- The repeat state (13 R277): skip is a count of 0, which passes over the next instruction. -/
inductive Rep where
  | none
  | run (n : Nat)
  | skip
  deriving DecidableEq, Repr, Inhabited

/-- What a context that is not issuing waits for. -/
inductive Wait where
  | none
  /-- The kernel resolves a resumable fault (13 R294, step 3): its cause, TVAL, EPC and the address that did not translate. -/
  | fault (c : Cause) (tval : Nat) (epc : Nat) (va : Nat)
  /-- A trap waits for delivery (13 R294, step 5). -/
  | delivery
  /-- A request to the service kernel is posted, with the address of its block (13 R293). -/
  | service (blk : Nat)
  /-- The kernel has replied with a status (13 R293). -/
  | reply (status : Nat)
  deriving DecidableEq, Repr, Inhabited

/-- What a stalled instruction waits for that may be gone when it is next issued: a byte barrier (06 R129), or a tail by its number (10 R217). -/
inductive Held where
  | barrier (n : Nat)
  | tail (serial : Nat)
  deriving DecidableEq, Repr, Inhabited

/-- One scalar context: the main context or a tail (06 R107). -/
structure Ctx where
  live : Bool := false
  pc : W64 := 0
  s : Store W64 := []
  b : Store W64 := []
  c : Store Bool := []
  lc : Store Nat := []
  loops : List LoopLv := []
  rep : Rep := .none
  /-- The pending transfer: its target, none where not taken, and the delay instructions left (13 R273). -/
  pend : Option (Option Nat × Nat) := none
  pfx : Option Pfx := none
  fmark : W64 := 0
  window : Option Nat := none
  fadds : Nat := 0
  /-- The number of this tail among those of the core (10 R217). -/
  serial : Nat := 0
  held : Option Held := none
  wait : Wait := .none
  /-- The scratchpad line address the context is stalled on (06 R128). -/
  emptyAt : Option Nat := none
  /-- What the trap "stalled on empty" reports in place of that line (09 R195). -/
  emptyFor : Option Nat := none
  /-- The context waits for space in a store log (10 R209). -/
  logWait : Bool := false
  /-- The context's last issue stalled (06 R108, R132). -/
  stalled : Bool := false
  /-- The access under way holds a request slot of the core (04 R70). -/
  slot : Bool := false
  /-- The queues whose oldest entry the instruction under way has sent on: it pops them when it completes (06 R116). -/
  takes : List Nat := []
  deriving DecidableEq, Repr, Inhabited

/-! ### Engines, streams, windows and copies -/

/-- A command ring (06 R110): base, slots, released, dequeued, and whether NOTIFY has been dequeued. -/
structure Ring where
  base : Nat := 0
  size : Nat := 0
  rel : Nat := 0
  rd : Nat := 0
  notified : Bool := false
  halted : Bool := false
  /-- The word that is dequeued and not yet complete, whose await has been consumed; RD counts it (R111). -/
  word : Option Nat := none
  /-- The tile banks that the dequeued word, or the follow-on word that runs, names (06 R125). -/
  banks : List Nat := []
  /-- The word is held on a translation fault (04 R77): cause and address. -/
  held : Option (Cause × Nat) := none
  /-- The word stalls on this empty line (06 R128). -/
  emptyAt : Option Nat := none
  /-- The word waits for space in a store log (10 R209). -/
  logWait : Bool := false
  /-- The virtual bases of the leaves that the word has had walked (04 R69, R77). -/
  walked : List Nat := []
  /-- The word that a drain has abandoned after Marionette had counted its dequeue, by its number plus 1 (05 R95; 06 R133; 21 R371). -/
  counted : Nat := 0
  /-- The window and step in which each outstanding word was released (10 R208). -/
  tags : Store (Option (Nat × Nat)) := []
  /-- Words of bank A that BSEL cancelled: the engine passes over them (06 R119). -/
  cancelled : List Nat := []
  /-- The window and step of each word held in an open bank, bank A first (06 R118; 10 R208). -/
  bankA : List (Option (Nat × Nat)) := []
  bankB : List (Option (Nat × Nat)) := []
  deriving DecidableEq, Repr, Inhabited

/-- A byte barrier (06 R129). -/
structure Barrier where
  count : Nat := 0
  overrun : Bool := false
  deriving DecidableEq, Repr, Inhabited

/-- A circular buffer's descriptor (06 R130). -/
structure CBuf where
  wcnt : Nat := 0
  rcnt : Nat := 0
  sizem1 : Nat := 0
  base : Nat := 0
  deriving DecidableEq, Repr, Inhabited

/-- The tag of an accumulator (15 R327): kind 0 f32, 1 f64, 2 exact. -/
structure AccTag where
  valid : Bool := false
  kind : Nat := 0
  scx : Option Nat := none
  deriving DecidableEq, Repr, Inhabited

/-- A range-coder stream context (09 R190). -/
structure Stream where
  cursor : Nat := 0
  limit : Nat := 0
  base : Nat := 0
  ctx : Nat := 0
  mode : Nat := 0
  cache : Nat := 0
  pend : Nat := 0
  code : Nat := 0
  range : Nat := 0
  low : Nat := 0
  deriving DecidableEq, Repr, Inhabited

/-- A probability register (09 R194): alphabet size, precision and cells cum[0] to cum[64]. -/
structure Prob where
  n : Nat := 0
  p : Nat := 0
  cum : List Nat := []
  deriving DecidableEq, Repr, Inhabited

/-- A scratchpad line before a step's first write to it (10 R207): its bytes, and which of its 8-byte words had an uncorrectable or a correctable error (08 R187; 06 R126). -/
structure LogLine where
  step : Nat := 0
  line : Nat := 0
  bs : List Byte := []
  poison : List Nat := []
  corr : List Nat := []
  deriving DecidableEq, Repr, Inhabited

/-- A speculative window (10 R205 to R213). -/
structure Window where
  st : Nat := 0
  why : Nat := 0
  step : Nat := 0
  lines : Nat := 0
  owner : Nat := 0
  scope : Nat := 0
  allocVa : Nat := 0
  allocMax : Nat := 0
  /-- Recurrent regions: first line and line count (R206). -/
  regions : List (Nat × Nat) := []
  /-- Speculative device stores, newest first: step, address, byte (R207). -/
  dlog : List (Nat × Nat × Byte) := []
  /-- Prior contents of scratchpad lines, newest first (R207, R196). -/
  rlog : List LogLine := []
  /-- The streams at opening (R196, R212). -/
  sopen : Store Stream := []
  /-- The versions of streams at the ends of steps: step, stream, state (R196, R208). -/
  svers : List (Nat × Nat × Stream) := []
  /-- The streams the owner has written in the current step (R372). -/
  swrote : List Nat := []
  /-- Pages: index in the range, 64 KiB frame, step (R210). -/
  pages : List (Nat × Nat × Nat) := []
  deriving DecidableEq, Repr, Inhabited

/-- A copy template (15 R336). -/
structure Template where
  skind : Nat := 0
  check : Bool := false
  dkind : Nat := 0
  acq : Bool := false
  rel : Bool := false
  scope : Nat := 0
  bb : Nat := 0
  bbv : Bool := false
  qidx : Bool := false
  fov : Bool := false
  aw : Nat := 31
  rs : Nat := 31
  evkind : Nat := 0
  evwin : Nat := 0
  evidx : Nat := 0
  evamt : Nat := 0
  foaddr : Nat := 0
  seglines : Nat := 1
  nseg : Nat := 1
  sstride : Int := 0
  dstride : Int := 0
  sdim : Nat := 0
  cfmt : Nat := 0
  deriving DecidableEq, Repr, Inhabited

/-- Where a copy stands. -/
inductive CopyPhase where
  | idle
  /-- Waiting for its await semaphore (15 R339). -/
  | await
  /-- Waiting for a reply entry on q7 (15 R341). -/
  | reply
  | lines
  deriving DecidableEq, Repr, Inhabited

/-- Where an access goes (04 R67): a local physical address, an offset in a peer window, or a host address. -/
inductive Target where
  | dev (pa : Nat)
  | peer (win off : Nat)
  | host (ha : Nat)
  deriving DecidableEq, Repr, Inhabited

/-- A line of a copy that has been issued and has not landed: its number, the data read, and its destination in virtual memory as translated at its issue, with the virtual address and bytes of each piece. A line that was issued under a bank tag is not translated before it lands (06 R120). -/
structure Line where
  line : Nat := 0
  data : List Byte := []
  dst : Option (List (Target × Nat × Nat)) := none
  /-- The removals of translations that wait for this line (04 R73, R74), by their marks. -/
  marks : List Nat := []
  deriving DecidableEq, Repr, Inhabited

/-- A copy channel with its captured copy (15 R339 to R345). -/
structure Chan where
  phase : CopyPhase := .idle
  /-- The context that started the copy. -/
  owner : Nat := 0
  tidx : Nat := 0
  t : Template := {}
  src : Nat := 0
  dst : Nat := 0
  scoord : Nat := 0
  /-- The layout entry that its handle named when it started (06 R139). -/
  lay : Nat := 0
  /-- The bank tag until BSEL chooses its bank (06 R120): 0 none, 1 A, 2 B. A tagged copy reads and buffers, and writes nothing. -/
  tag : Nat := 0
  token : Nat := 0
  /-- Lines issued so far, in increasing order. -/
  issued : Nat := 0
  /-- Lines in flight, oldest first. -/
  flight : List Line := []
  landed : List Nat := []
  /-- Lines read by a checking copy, kept until the check (07 R157). -/
  kept : List Line := []
  /-- The next line has been issued and waits for an answer, in a request slot of the core (04 R70). -/
  slot : Bool := false
  /-- A resumable fault stopped the copy at this line: cause and address (04 R78). -/
  stopped : Option (Cause × Nat) := none
  /-- A fault that is not resumable ends the copy when the lines in flight complete (04 R78). -/
  failed : Option Cause := none
  /-- The record of that fault has been posted. -/
  recorded : Bool := false
  /-- A landing line waits for space in a store log (10 R209). -/
  logWait : Bool := false
  /-- The source line waited for is empty (06 R128). -/
  emptyAt : Option Nat := none
  /-- Set while a follow-on word has been handed over by this copy and the finish waits for peer acknowledges (15 R343). -/
  handed : Bool := false
  deriving DecidableEq, Repr, Inhabited

/-! ### Images, launches and tasks -/

/-- The claims of an image (03 R52), each as its value field; absent claims are 0. -/
structure Claims where
  cores : Nat := 0
  spad : Nat := 0
  regs : Nat := 0
  sync : Nat := 0
  coder : Nat := 0
  spec : Nat := 0
  copy : Nat := 0
  queues : Nat := 0
  events : Nat := 0
  layout : Nat := 0
  memory : Nat := 0
  sampler : Nat := 0
  priority : Nat := 0
  peer : Nat := 0
  deriving DecidableEq, Repr, Inhabited

/-- A level of a loop nest (05 R83). -/
structure Level where
  kind : Nat := 0
  tripsrc : Nat := 0
  trip : Nat := 0
  table : Nat := 0
  snap : Nat := 0
  deriving DecidableEq, Repr, Inhabited

/-- A loop-nest record (05 R82). -/
structure LoopRec where
  entry : Nat := 0
  rowpc : Nat := 0
  matpc : Nat := 0
  ganglvl : Nat := 0
  levels : List Level := []
  deriving DecidableEq, Repr, Inhabited

/-- A bound image (03 R50; 11 R233 to R236). st: 0 free, 1 loaded, 2 draining. -/
structure Image where
  st : Nat := 0
  ctx : Nat := 0
  claims : Claims := {}
  recs : List LoopRec := []
  templates : List Template := []
  inputs : List (Nat × Nat) := []
  paramVa : Nat := 0
  coreSet : List Nat := []
  /-- Pages of 64 KiB that the image and its tasks hold (03 R52). -/
  pages : Nat := 0
  /-- Virtual addresses and frames bound at LOAD. -/
  bound : List (Nat × Nat) := []
  deriving DecidableEq, Repr, Inhabited

/-- A chain of items being served on a core (05 R92): spatial index and inner index. -/
structure Chain where
  core : Nat := 0
  j : Nat := 0
  inner : Nat := 0
  /-- Its current item has been dispatched and its end not yet noted. -/
  live : Bool := true
  deriving DecidableEq, Repr, Inhabited

/-- A record of a dispatch trace (05 R105). -/
structure TraceRec where
  start : Nat := 0
  item : Nat := 0
  pcore : Nat := 0
  vcore : Nat := 0
  deriving DecidableEq, Repr, Inhabited

/-- An accepted launch and where its walk stands (05 R81 to R106). -/
structure Launch where
  id : Nat := 0
  vi : Nat := 0
  slot : Nat := 0
  ctx : Nat := 0
  tag : Nat := 0
  prio : Nat := 0
  flags : Nat := 0
  doneev : Nat := 0
  doneval : Nat := 0
  paramCopy : Nat := 0
  traceAddr : Nat := 0
  recs : List LoopRec := []
  /-- The record being walked. -/
  ri : Nat := 0
  /-- The outer temporal iteration of the record, as an ordinal. -/
  outer : Nat := 0
  /-- The first item index of the current outer iteration. -/
  base : Nat := 0
  /-- The trip count of the batch-sized level, from the last snapshot; none before it is taken (05 R104). -/
  batch : Option Nat := none
  /-- The last committed version of each batch entry (05 R104). -/
  committed : Store Nat := []
  /-- Spatial indices dispatched in this outer iteration. -/
  sent : List Nat := []
  running : List Chain := []
  /-- Chains that have ended in this outer iteration. -/
  endedChains : Nat := 0
  faulted : Bool := false
  /-- Trace records taken (05 R105). -/
  traced : Nat := 0
  /-- The trace a replay follows, in order (05 R106). -/
  replay : List TraceRec := []
  deriving DecidableEq, Repr, Inhabited

/-- The task that occupies a core. -/
structure Task where
  launch : Nat := 0
  item : Nat := 0
  vcore : Nat := 0
  vi : Nat := 0
  slot : Nat := 0
  ctx : Nat := 0
  prio : Nat := 0
  /-- The launch asked for ordered floating-point atomics (13 R282). -/
  ordered : Bool := false
  claims : Claims := {}
  templates : List Template := []
  paramVa : Nat := 0
  entry : Nat := 0
  rowpc : Nat := 0
  matpc : Nat := 0
  lvl : List Nat := []
  gang : Bool := false
  /-- The spatial index with the gang's level at 0: gang mates share it (05 R100). -/
  gangKey : Nat := 0
  /-- The place of the item's record in the launch's trace (05 R105). -/
  traceAt : Option Nat := none
  deriving DecidableEq, Repr, Inhabited

/-- Where the item of a core stands. -/
inductive ItemPhase where
  | free
  /-- Dispatched; its first instruction has not begun (05 R89). -/
  | dispatched
  | running
  /-- Pre-empted: the drain and the save are to come (05 R95). -/
  | draining
  /-- Ended by completion or fault; the walker has not yet taken note (05 R90). -/
  | ended (fault : Bool)
  deriving DecidableEq, Repr, Inhabited

/-- A trap waiting for delivery (13 R294). -/
structure Delivery where
  /-- The kernel has not resolved its cause; until that is known it keeps its place. -/
  ready : Bool := true
  x : Nat := 0
  cause : Cause := .illegalInstruction
  tval : Nat := 0
  epc : Nat := 0
  deriving DecidableEq, Repr, Inhabited

/-- The task-related state of a core: what a pre-emption saves (05 R96) and Porter clears (03 R55). -/
structure Core where
  holder : Option Nat := none
  task : Option Task := none
  phase : ItemPhase := .free
  cx : Store Ctx := []
  row : Ring := {}
  mat : Ring := {}
  bank : Nat := 0
  fpflags : Nat := 0
  pacerow : Nat := 0
  pacemat : Nat := 0
  tbpwr : Nat := 0
  tvec : W64 := 0
  tcause : Nat := 0
  tval : W64 := 0
  epc : W64 := 0
  hndst : Nat := 0
  aside : Option (Option (Option Nat × Nat) × Rep) := none
  deliveries : List Delivery := []
  /-- Engine faults waiting for the main context's next boundary (13 R297): TVAL. -/
  engineTraps : List Nat := []
  /-- Traps that copies and overrun barriers raise, waiting for a context's next boundary (04 R78; 06 R129): context, cause, TVAL. -/
  copyTraps : List (Nat × Cause × Nat) := []
  mxsel : Store Nat := []
  mxcnt : Store Nat := []
  mxthr : Store Nat := []
  mxterm : Store Nat := []
  mxact : Store Nat := []
  mxprev : Store Bool := []
  /-- Actions that fire next, oldest first: the action and its MXACT when its OR turned true (06 R134). -/
  mxdue : List (Nat × Nat) := []
  /-- The pending kind-3 start of each action: channel and template (06 R134). -/
  mxpend : Store (Option (Nat × Nat)) := []
  sem : Store Nat := []
  q : Store (List W64) := []
  bb : Store Barrier := []
  cb : Store CBuf := []
  spad : Memory := []
  /-- Lines that are empty; a line not listed is full (06 R127). -/
  empty : Store Bool := []
  /-- Poisoned 8-byte words of the scratchpad (06 R126). -/
  spoison : Store Bool := []
  tiles : Memory := []
  opfile : Memory := []
  latch : Memory := []
  acc : Memory := []
  acctag : Store AccTag := []
  /-- Uncorrectable errors present: structure code times 2^20 plus word (06 R123, R140). -/
  rerr : Store Bool := []
  /-- Correctable errors present, keyed likewise; each read of such a word counts one (06 R123, R141). -/
  corr : Store Bool := []
  /-- EINJ (06 R140, R142), which stays with the hardware when tasks change. -/
  einj : Nat := 0
  st : Store Stream := []
  cd : Store Prob := []
  win : Store Window := []
  chan : Store Chan := []
  /-- The parameter windows: key 0x100 times channel plus offset (15 R337). -/
  pwin : Store W64 := []
  /-- Tails created so far (10 R217). -/
  tails : Nat := 0
  /-- Follow-on words handed over, oldest first (15 R344): the word's bytes as a number, with 2^192 and its address times 2^193 added where a word of it was poisoned (06 R126). -/
  follow : List Nat := []
  /-- The oldest follow-on word has consumed its await and is not yet complete (15 R344). -/
  followGo : Bool := false
  deriving DecidableEq, Repr, Inhabited

/-- A cached or walked translation: context or PASID, page base, size in bytes, and the entry or host address with its rights. -/
structure Tlb where
  id : Nat := 0
  va : Nat := 0
  size : Nat := 0
  ent : Nat := 0
  deriving DecidableEq, Repr, Inhabited

/-- A write on its way to its home (08 R172, R176): the 8-byte word that it lies in, by View.lean's numbering of device and host memory, the first byte's place in the word and the bytes. -/
structure Wr where
  word : Nat := 0
  off : Nat := 0
  bs : List Byte := []
  /-- The agent whose write it is, as R295 numbers agents. -/
  agent : Nat := 0
  /-- It belongs to a ring word or copy that is not complete (R179, R180). -/
  part : Bool := false
  /-- It belongs to a write of its whole 32-byte sector (01 R13). -/
  sector : Bool := false
  /-- The scope of a strong write; an ordinary write has none (R175). -/
  scope : Option Nat := none
  /-- The contexts, by their numbers, whose releases and fences come after a strong write: its own, those created after it and those that have joined it (R175; 10 R216, R217; 19 R368). -/
  before : List Nat := []
  /-- A read of the core has returned it (R174). -/
  read : Bool := false
  /-- What a release has to pass on: the publications it is ordered after (R177). -/
  rel : Option (Store Nat) := none
  deriving DecidableEq, Repr, Inhabited

/-- A write performed at its home, in the coherence order of its word (08 R169): what the word held before it, who wrote it, and to whom it is published. -/
structure Past where
  old : Nat := 0
  /-- The place in the word and the number of the bytes written. -/
  off : Nat := 0
  len : Nat := 8
  /-- The core plus 1; 0 for a write from outside the cores. -/
  core : Nat := 0
  /-- It comes from the host or from another device, which system scope alone covers (R171). -/
  far : Bool := false
  agent : Nat := 0
  part : Bool := false
  strong : Bool := false
  /-- The scopes it has been published at, each with the number of the publication among those of its core (R171, R172). -/
  pubs : List (Nat × Nat) := []
  /-- The scope of a release and the publications it passes on (R177). -/
  rel : Option (Nat × Store Nat) := none
  /-- The commit that performed it, if any (R187). -/
  commit : Nat := 0
  deriving DecidableEq, Repr, Inhabited

/-- A physical core: the held state, its save areas and what belongs to the hardware and no task. -/
structure Phys where
  k : Core := {}
  /-- The save areas of priorities 0 to 2 (05 R98). -/
  saved : Store (Option Core) := []
  itlb : List Tlb := []
  dtlb : List Tlb := []
  /-- The instruction cache: the bytes of a 64-byte block as a number, with 2^512 added, by blockKey (06 R109). -/
  icache : Store Nat := []
  /-- The snapshot (08 R172 to R174): for each word, how many of the writes of its coherence order the core has seen. -/
  seen : Store Nat := []
  /-- The same for strong reads of host memory, which keep no order among locations (08 R176). -/
  hseen : Store Nat := []
  /-- Writes not yet performed at their homes, oldest first (08 R172, R176). -/
  dirty : List Wr := []
  /-- Publications made, and those of each core that happen before what the core does next (08 R177). -/
  pubno : Nat := 0
  know : Store Nat := []
  ecorr : Nat := 0
  eunc : Nat := 0
  elast : Nat := 0
  /-- The context to which the energy since the previous switch is charged, and whether it has been freed since (02 R35, R36; 03 R60). -/
  acct : Option (Nat × Bool) := none
  /-- ENERGY, EBALLAST by interface and CYCLE at the third sample of the previous switch (02 R35, R36). -/
  lastE : Nat := 0
  lastB : Store Nat := []
  lastT : Nat := 0
  /-- ENERGY and CYCLE at the second sample of a switch whose incoming context is still to come. -/
  sample2 : Option (Nat × Nat) := none
  /-- The sets of contexts that were resident together on the cluster's other cores during the interval (R37). -/
  sets : List (List Nat) := []
  /-- An in-field test is due before the core takes a task, and the priority of the task that is saved for it (02 R34). -/
  testDue : Bool := false
  tested : Option Nat := none
  deriving DecidableEq, Repr, Inhabited

/-! ### The device -/

/-- A cluster's clock, supply and energy (02 R24 to R38) and its ramp limiter (05 R101). -/
structure Cluster where
  cfreq : Nat := 0x30
  ccap : Nat := 0x3C
  cur : Nat := 0x30
  replaytgt : Nat := 0x64
  replaycnt : Nat := 0
  winReplays : Nat := 0
  energy : Nat := 0
  eballast : Nat := 0
  refused : Bool := false
  mv : Nat := 0
  cycle : Nat := 0
  /-- EBALLAST by the interface whose ramp floor required it (R36, R101). -/
  ballast : Store Nat := []
  /-- Busy cycles of the last and of this ramp window, by interface (R101). -/
  rampLast : Store Nat := []
  rampNow : Store Nat := []
  /-- The interface's last resident context (R101). -/
  lastCtx : Store Nat := []
  deriving DecidableEq, Repr, Inhabited

/-- A floating-point add held in ordered mode (13 R282): address, bytes, operand and the sort keys. -/
structure HeldFadd where
  launch : Nat := 0
  addr : Nat := 0
  n : Nat := 0
  x : Nat := 0
  vcore : Nat := 0
  item : Nat := 0
  cx : Nat := 0
  cnt : Nat := 0
  deriving DecidableEq, Repr, Inhabited

/-- An energy record (02 R38). -/
structure EnergyRec where
  vi : Nat := 0
  microj : Nat := 0
  tend : Nat := 0
  tstart : Nat := 0
  nres : Nat := 0
  shared : Bool := false
  kind : Nat := 0
  cluster : Nat := 0
  ctx : Nat := 0
  deriving DecidableEq, Repr, Inhabited

/-- A memory-side slice (01 R9). -/
structure Slice where
  atommode : Nat := 0
  heldAdds : List HeldFadd := []
  erecs : List EnergyRec := []
  /-- The error log (03 R58): each entry's data. -/
  errlog : List (List Byte) := []
  memcorr : Nat := 0
  /-- The move at which the last HOUSE record for energy outside the clusters was made (02 R36). -/
  houseAt : Nat := 0
  deriving DecidableEq, Repr, Inhabited

/-- A Ranrum port (01 R23). -/
structure Port where
  state : Nat := 0
  retrains : Nat := 0
  width : Nat := 0
  crcerr : Nat := 0
  replay : Nat := 0
  feccorr : Nat := 0
  perr : Nat := 0
  downcnt : Nat := 0
  /-- The next SEQ to send and the last received in order (R16). -/
  txseq : Nat := 0
  rxseq : Nat := 0xFFF
  /-- Traffic flits sent and not yet acknowledged, oldest first (R16, R20). -/
  unacked : List Flit := []
  /-- Flits that wait for the port to be UP, oldest first (R20). -/
  waiting : List Flit := []
  /-- Credits to return with the next flit and credits returned to this port, by virtual channel (R16). -/
  owed : Store Nat := []
  credits : Store Nat := []
  /-- The SEQ last replayed and how often (R20). -/
  rpseq : Nat := 0
  rpcount : Nat := 0
  deriving DecidableEq, Repr, Inhabited

/-- A counter block of BAR2 (03 R43). -/
structure CntBlk where
  waitArmed : Bool := false
  waitThr : Nat := 0
  trigt : Nat := 0
  trigact : Nat := 0
  trigArmed : Bool := false
  deriving DecidableEq, Repr, Inhabited

/-- An image key slot (03 R51). -/
structure KeySlot where
  key : Option (Nat × Nat) := none
  revoked : Bool := false
  deriving DecidableEq, Repr, Inhabited

/-- A virtual interface (03 R39 to R61). -/
structure Vi where
  evbase : Nat := 0
  evcount : Nat := 0
  pubbase : Nat := 0
  pubdepth : Nat := 16
  statbase : Nat := 0
  pubrd : Nat := 0
  run : Bool := false
  overrun : Bool := false
  cfgerr : Bool := false
  attnonce : Memory := []
  attaddr : Nat := 0
  erqbase : Nat := 0
  erqdepth : Nat := 0
  erqrd : Nat := 0
  erqlost : Nat := 0
  vistat : Nat := 0
  evmirbase : Nat := 0
  evvec : Nat := 0
  grant : Nat := 0
  ceiling : Nat := 0
  smpQuota : Nat := 0
  pageQuota : Nat := 0
  layQuota : Nat := 0
  keys : Store KeySlot := []
  peers : Store Nat := []
  slots : Store Image := []
  /-- The entry that Porter has read and is carrying out, and, where its effect is made, the mark of what it waits for (R46; 04 R74). -/
  taken : Option (Nat × Option Nat) := none
  /-- A warm restart of the interface is under way: its tasks come to their boundaries (R61, step 1). -/
  restart : Bool := false
  /-- The function's ATS or PRI is disabled (04 R71). -/
  atsOff : Bool := false
  /-- A Response Failure makes later page faults fail at once (04 R72). -/
  priFail : Bool := false
  /-- Page requests that the host lets the function have outstanding (04 R72; log 44). -/
  priAlloc : Nat := 0
  deriving DecidableEq, Repr, Inhabited

/-- A leaf that a page table walk finds (04 R63, R64): virtual base, size code, and the entry; of a 64 KiB page the first of its 16 entries (R65). -/
structure Leaf where
  va : Nat := 0
  size : Nat := 0
  pte : Nat := 0
  deriving DecidableEq, Repr, Inhabited

/-- A context (03 R60). -/
structure CtxRec where
  live : Bool := false
  vi : Nat := 0
  pasid : Nat := 0
  /-- The frame of the root of its page table (04 R63), in units of 4 KiB. -/
  root : Nat := 0
  layouts : Store Nat := []
  /-- Pages from PAGEALLOC: virtual address, interface and slot charged (13 R293). -/
  alloced : List (Nat × Nat × Nat) := []
  deriving DecidableEq, Repr, Inhabited

/-- A sampler sequence context (09 R199). st: 0 idle, 1 running, 2 halted. -/
structure Seq where
  /-- The image that holds it: interface, slot, local number (R198). -/
  owner : Option (Nat × Nat × Nat) := none
  /-- The core that started its program, and that core's launch and item (R200, R203). -/
  core : Nat := 0
  launch : Nat := 0
  item : Nat := 0
  x : Store (BitVec 32) := []
  k : Store Nat := []
  seed : Nat := 0
  pos : Nat := 0
  cand : List (Nat × Nat) := []
  pc : Nat := 0
  st : Nat := 0
  /-- A reply waiting for room in q7 (16 R361): the entry, and whether the context halts. -/
  reply : Option Nat := none
  /-- The move that placed the reply in wait: the replies of one core enter q7 in that order (R202). -/
  replyAt : Nat := 0
  emptyAt : Option Nat := none
  deriving DecidableEq, Repr, Inhabited

/-- An outstanding page walk (04 R69): core, cache (0 instruction, 1 data, 2 copy) and the leaf read. -/
structure Walk where
  core : Nat := 0
  cache : Nat := 0
  ctx : Nat := 0
  leaf : Leaf := {}
  deriving DecidableEq, Repr, Inhabited

/-- A request to the service kernels (03 R59; 13 R293): the context that posted it, the address of its block, and the task it belongs to, which may since have been saved. -/
structure Request where
  core : Nat := 0
  x : Nat := 0
  blk : Nat := 0
  launch : Nat := 0
  item : Nat := 0
  deriving DecidableEq, Repr, Inhabited

/-- A leaf that a MAP has replaced or removed while an agent's peer access was translated through it: the access goes on with it, and the MAP waits (04 R74). -/
structure OldLeaf where
  core : Nat := 0
  agent : Nat := 0
  leaf : Leaf := {}
  mark : Nat := 0
  deriving DecidableEq, Repr, Inhabited

/-- A translation that has left the ATC while an access was under way that had sent a command to a peer: the access goes on with it (04 R73, R76). An invalidation waits for it, by its mark. -/
structure OldAtc where
  core : Nat := 0
  agent : Nat := 0
  ent : Tlb := {}
  mark : Option Nat := none
  deriving DecidableEq, Repr, Inhabited

/-- How a peer request ended. -/
inductive PeerEnd where
  | open
  | data (x : Nat)
  | err (c : Cause)
  deriving DecidableEq, Repr, Inhabited

/-- A request to a peer (01 R17): its tag, who waits for it (core and agent, as R295 numbers agents, with 16 plus n for channel n), and what it asked. -/
structure PeerReq where
  tag : Nat := 0
  core : Nat := 0
  agent : Nat := 0
  key : Nat := 0
  dev : Nat := 0
  /-- The port plus 1 that its flit was routed to (R20). -/
  port : Nat := 0
  /-- The command sent. -/
  cmd : PeerCmd := {}
  /-- In the move that is being made, the access has used the answer (08 R184). -/
  used : Bool := false
  res : PeerEnd := .open
  deriving DecidableEq, Repr, Inhabited

/-- An ATS translation request of one access or its denial (04 R71, R72): whose access it is (core, agent, launch and item; an agent that no core has where the access is gone), PASID, page, whether a write was asked. st: 0 sent, 2 denied with a page request outstanding, 3 unavailable, 4 sent again after a Success response, 5 denied with a page request that waits for the function's allocation. -/
structure AtsReq where
  core : Nat := 0
  agent : Nat := 0
  launch : Nat := 0
  item : Nat := 0
  pasid : Nat := 0
  page : Nat := 0
  write : Bool := false
  st : Nat := 0
  deriving DecidableEq, Repr, Inhabited

/-- A fault record (13 R295) with its extension as a number. -/
structure FaultRec where
  cause : Cause := .illegalInstruction
  tval : Nat := 0
  epc : Nat := 0
  cycle : Nat := 0
  pcore : Nat := 0
  agent : Nat := 0
  ext : Nat := 0
  res : Bool := false
  ctx : Nat := 0
  extData : Nat := 0
  deriving DecidableEq, Repr, Inhabited

/-- The whole device. -/
structure State where
  /-- Moves made so far, which feeds the free values (log 3). -/
  tick : Nat := 0
  /-- The moves that come next, oldest first; empty leaves the choice to the default order (log 2). -/
  agenda : List Agent := []
  /-- The agent whose move is being made. -/
  cur : Agent := .idle
  /-- 0 starting, 1 ready, 2 recovery (02 R32). -/
  boot : Nat := 0
  bootCause : Nat := 0
  flash : Firmware := {}
  fwKern : Nat := 0
  fwStage1 : Nat := 0
  keySlot : Nat := 0
  /-- Fused key slots that a fuse has revoked (02 R32). -/
  fuseRevoked : Nat := 0
  coremap : Nat := 2 ^ 192 - 1
  serial : Nat := 0
  devid : Nat := 0xFFF
  measure : Nat := 0
  /-- The measurement after stage one, from which a device reset goes on (02 R31, R33). -/
  measure1 : Nat := 0
  /-- The public keys in the fused key slots (02 R32); at reset none is a point of the curve (log 1). -/
  fuseKeys : Store (Nat × Nat) := []
  /-- The device identity key, which never leaves the device (02 R33; log 1); its public part is IDKEYX and IDKEYY (03 R40). -/
  idSecret : Nat := 1
  /-- The route table: port plus 1, and 0 for an empty entry (01 R18). -/
  route : Store Nat := []
  clusters : Store Cluster := []
  slices : Store Slice := []
  ports : Store Port := []
  vis : Store Vi := []
  counters : Store W64 := []
  blks : Store CntBlk := []
  ctxs : Store CtxRec := []
  mem : Memory := []
  /-- The page tables, by 4 KiB frame: the entries of each, by index (04 R63, R64). They lie in the stacks of HBM4E, where nothing but the home slice reads or writes them. -/
  tables : Store (Store Nat) := []
  /-- Poisoned 32-byte sectors (01 R13). -/
  mpoison : Store Bool := []
  /-- The coherence order of each word, newest write first (08 R169). -/
  hist : Store (List Past) := []
  /-- The publications that happen before the waits on each event counter, and before the items that start next (08 R177, R178; 05 R90). -/
  evKnow : Store (Store Nat) := []
  itemKnow : Store Nat := []
  /-- What the host and the other devices know of: the publications that happen before what they do next, and at key 192 the number of the writes that have come from them (08 R172, R177, R178; log 7). -/
  farKnow : Store Nat := []
  hostMem : Memory := []
  /-- 4 KiB pages at which the host link refuses what a function reads without a PASID (03 R49, ADDRFAULT; log 5). -/
  hostBad : Store Bool := []
  /-- Allocated 64 KiB frames: the owning interface and context, each plus 1 (01 R9). -/
  frames : Store (Nat × Nat) := []
  /-- Where the page allocators begin their search (log 12). -/
  allocHint : Nat := 0
  cores : Store Phys := []
  seqs : Store Seq := []
  launches : List Launch := []
  nextLaunch : Nat := 0
  atc : List Tlb := []
  ctlb : Store (List Tlb) := []
  walks : List Walk := []
  /-- Requests to the service kernels, in the order posted (03 R59). -/
  requests : List Request := []
  atsReqs : List AtsReq := []
  /-- Invalidations received and not yet completed, oldest first: PASID and mark (04 R73). -/
  invals : List (Nat × Nat) := []
  peerReqs : List PeerReq := []
  /-- Leaves that are gone but for accesses under way (04 R74). -/
  oldLeaves : List OldLeaf := []
  /-- Translations gone from the ATC but for accesses under way (04 R73, R76). -/
  oldAtc : List OldAtc := []
  nextTag : Nat := 0
  /-- Commands received and not yet performed, oldest first (01 R18). -/
  rx : List PeerCmd := []
  /-- Flits sent, oldest first, with their ports (01 R16, R20). -/
  tx : List (Nat × Flit) := []
  msix : List (Nat × Nat) := []
  faults : List FaultRec := []
  deriving DecidableEq, Repr, Inhabited

/-- The machine right after reset is asserted: the bring-up of 02 R32 is the one move due (log 4). Every register is at the value the spec gives or log 1 names. -/
def State.reset : State := { agenda := [.event (.coldReset true true) 0 0] }

end Sys2Proof.Machine
end

