-- ==== Sys2Proof/Machine/Parts.lean ====
section
/-! DEFINITION. Accessors over the state, the numbering of its units, and the counts that free values feed (01 R9, R11; 02 R24, R26). -/

namespace Sys2Proof.Machine

/-- What a move answers. -/
abbrev Out := Host.Outcome State Fault Refusal

/-! ### Parts of the state -/

/-- Physical core c. -/
def State.phys (s : State) (c : Nat) : Phys := s.cores.get {} c
/-- Applies f to physical core c. -/
def State.updPhys (s : State) (c : Nat) (f : Phys → Phys) : State := { s with cores := s.cores.upd {} c f }
/-- The task state held in core c. -/
def State.core (s : State) (c : Nat) : Core := (s.phys c).k
/-- Applies f to the task state held in core c. -/
def State.updCore (s : State) (c : Nat) (f : Core → Core) : State := s.updPhys c (fun p => { p with k := f p.k })
/-- Context x of core c. -/
def State.cx (s : State) (c x : Nat) : Ctx := (s.core c).cx.get {} x
/-- Applies f to context x of core c. -/
def State.updCx (s : State) (c x : Nat) (f : Ctx → Ctx) : State :=
  s.updCore c (fun k => { k with cx := k.cx.upd {} x f })
/-- Interface v. -/
def State.vi (s : State) (v : Nat) : Vi := s.vis.get {} v
/-- Applies f to interface v. -/
def State.updVi (s : State) (v : Nat) (f : Vi → Vi) : State := { s with vis := s.vis.upd {} v f }
/-- Context record n (03 R60). -/
def State.ctx (s : State) (n : Nat) : CtxRec := s.ctxs.get {} n
/-- Applies f to context record n. -/
def State.updCtx (s : State) (n : Nat) (f : CtxRec → CtxRec) : State := { s with ctxs := s.ctxs.upd {} n f }
/-- Cluster n. -/
def State.cluster (s : State) (n : Nat) : Cluster := s.clusters.get {} n
/-- Applies f to cluster n. -/
def State.updCluster (s : State) (n : Nat) (f : Cluster → Cluster) : State :=
  { s with clusters := s.clusters.upd {} n f }
/-- Memory-side slice n. -/
def State.slice (s : State) (n : Nat) : Slice := s.slices.get {} n
/-- Applies f to slice n. -/
def State.updSlice (s : State) (n : Nat) (f : Slice → Slice) : State := { s with slices := s.slices.upd {} n f }
/-- Sequence context n. -/
def State.seq (s : State) (n : Nat) : Seq := s.seqs.get {} n
/-- Applies f to sequence context n. -/
def State.updSeq (s : State) (n : Nat) (f : Seq → Seq) : State := { s with seqs := s.seqs.upd {} n f }

/-- The unit an event names. -/
def State.unit (s : State) : Nat := match s.cur with | .event _ u _ => u | _ => 0
/-- The argument an event names. -/
def State.arg (s : State) : Nat := match s.cur with | .event _ _ a => a | _ => 0
/-- The core of the acting agent. -/
def State.c (s : State) : Nat :=
  match s.cur with
  | .scalar c _ => c
  | .row c => c
  | .mat c => c
  | .sampler q => (s.seq q).core
  | .event _ u _ => u
  | .idle => 0
/-- The scalar context of the acting agent. -/
def State.x (s : State) : Nat := match s.cur with | .scalar _ x => x | _ => 0

/-- The acting agent as R295 numbers agents, with 16 plus n for channel n. -/
def State.actor (s : State) : Nat :=
  match s.cur with
  | .scalar _ x => x
  | .row _ => 3
  | .mat _ => 4
  | .event _ _ a => 16 + a
  | _ => 0

/-- Appends a move to those due. -/
def State.due (s : State) (a : Agent) : State := { s with agenda := s.agenda ++ [a] }
/-- Appends an event. -/
def State.dueEvent (s : State) (i : Instr) (u a : Nat) : State := s.due (.event i u a)

/-- Active cores of the part (00 R2). -/
def State.active (s : State) (c : Nat) : Bool := decide (c < 192) && bitAt s.coremap c

/-! ### Numbering (01 R9, R11; 03 R58) -/

/-- The cluster of a core. -/
def clusterOf (c : Nat) : Nat := c / 8
/-- The die of a core: each die has 6 clusters. -/
def dieOf (c : Nat) : Nat := c / 48
/-- The home slice of a context (R58). -/
def homeSlice (ctx : Nat) : Nat := ctx % 12
/-- The home slice of a local physical address; none where the address map has nothing (R11, R12). -/
def sliceOfPa (pa : Nat) : Option Nat :=
  if pa < 0x0C000000000 then some (pa / 0x1000000000)
  else if 0x10000000000 ≤ pa ∧ pa < 0x20000000000 then
    some (3 * ((pa - 0x10000000000) / 0x4000000000) + pa / 4096 % 3)
  else none

/-- The sum of a free value over n moves (log 3). -/
def sumMoves (f : Nat → Nat) (start : Nat) : Nat → Nat
  | 0 => 0
  | n + 1 => sumMoves f start n + f (start + n)

/-- CYCLE of a cluster at a count of moves: cycles since bring-up (02 R26; log 3). -/
def State.cycleAt (s : State) (cl t : Nat) : Nat := sumMoves (fun i => Config.cycles (24 * i + cl)) (s.cluster cl).cycle (t - (s.cluster cl).cycle)

/-- CYCLE of a cluster. -/
def State.cycle (s : State) (cl : Nat) : Nat := s.cycleAt cl s.tick

/-- ENERGY of a cluster at a count of moves: its own, ballast included (02 R24; log 3). -/
def State.energyAt (s : State) (cl t : Nat) : Nat :=
  (s.cluster cl).energy + (s.cluster cl).eballast
    + sumMoves (fun i => Config.energy (24 * i + cl)) (s.cluster cl).cycle (t - (s.cluster cl).cycle)

end Sys2Proof.Machine
end

