-- ==== Sys2Proof/Machine/View.lean ====
section
/-! DEFINITION. Memory at its homes and as each core sees it: coherence orders, publication, refresh, racing reads, and strong accesses (08 R169 to R187; log 7). -/

namespace Sys2Proof.Machine

/-! ### Words at their homes (08 R169) -/

/-- The number of host memory's first word among words: device memory's words keep their own numbers. -/
def hostWords : Nat := 2 ^ 100

/-- The bytes of a word at its home. -/
def State.homeBytes (s : State) (w : Nat) : List Byte :=
  if w < hostWords then s.mem.bytes (8 * w) 8 else s.hostMem.bytes (8 * (w - hostWords)) 8

/-- A word at its home. -/
def State.homeWord (s : State) (w : Nat) : Nat := ofBytes (s.homeBytes w)

/-- Stores bytes of a word at its home. -/
def State.setHome (s : State) (w off : Nat) (bs : List Byte) : State :=
  if w < hostWords then { s with mem := s.mem.writeBytes (8 * w + off) bs }
  else { s with hostMem := s.hostMem.writeBytes (8 * (w - hostWords) + off) bs }

/-- The writes performed to a word, newest first. -/
def State.past (s : State) (w : Nat) : List Past := s.hist.get [] w

/-- What a word held once i writes of its coherence order were performed. -/
def State.wordAfter (s : State) (w i : Nat) : Nat :=
  let h := s.past w
  if h.length ≤ i then s.homeWord w else (h.getD (h.length - 1 - i) {}).old

/-- How many writes of a word's coherence order core c has seen (R172, R174). -/
def State.seenBy (s : State) (c w : Nat) : Nat := (s.phys c).seen.get 0 w

/-- Core c has seen n writes of a word; it never goes back (R174). -/
def State.see (s : State) (c w n : Nat) : State := s.updPhys c (fun p => { p with seen := p.seen.upd 0 w (max n) })

/-- Bytes laid over a word from an offset. -/
def overlay (old : List Byte) (off : Nat) (bs : List Byte) : List Byte := old.take off ++ bs ++ old.drop (off + bs.length)

/-- Splits bytes at an address into their 8-byte words: word, offset, bytes. base is the number of the memory's first word. -/
def wordsOf (base a : Nat) (bs : List Byte) : List (Nat × Nat × List Byte) :=
  (List.range' (a / 8) ((a + bs.length + 7) / 8 - a / 8)).map (fun w =>
    let lo := max a (8 * w)
    (base + w, lo - 8 * w, (bs.drop (lo - a)).take (8 * w + 8 - lo)))

/-! ### Scopes (08 R171) -/

/-- Whether scope S covers cores a and b both. -/
def covers (scope a b : Nat) : Bool :=
  match scope with
  | 0 => a == b
  | 1 => clusterOf a == clusterOf b
  | 2 => dieOf a == dieOf b
  | _ => true

/-- Whether scope S covers core c and the writer of a performed write; the slices, Porter and the die hubs are agents of the device, and system scope alone covers the host and other devices (R171). -/
def Past.covered (e : Past) (scope c : Nat) : Bool :=
  match e.core with
  | 0 => if e.far then decide (4 ≤ scope) else decide (3 ≤ scope)
  | d + 1 => covers scope d c

/-- The number under which what is known counts the writes that have come from the host and other devices. -/
abbrev farParty : Nat := 192

/-- Joins two sets of known publications. -/
def joinKnow (a b : Store Nat) : Store Nat := b.foldl (fun m p => m.upd 0 p.1 (max p.2)) a

/-! ### Performing writes (08 R172, R176) -/

/-- A write enters its word's coherence order. -/
def State.perform (s : State) (w off : Nat) (bs : List Byte) (e : Past) : State :=
  { (s.setHome w off bs) with hist := s.hist.put [] w ({ e with old := s.homeWord w, off := off, len := bs.length } :: s.past w) }

/-- The host and the other devices come to know what a release at system scope passes on (R177, R178). -/
def State.tellFar (s : State) (know : Store Nat) : State := { s with farKnow := joinKnow s.farKnow know }

/-- Whether a write of a whole sector leaves none of its words on its way. -/
def Phys.sectorDone (p : Phys) (x : Wr) : Bool := x.sector && !p.dirty.any (fun y => y.sector && y.word / 4 == x.word / 4)

/-- One write of core c is performed at its home, which the core has then seen. A strong write counts as published at its own scope (R173), and a release to host memory at system scope reaches the host (R177); a write of a whole sector clears its poison once all of it is performed (01 R13). -/
def State.performWr (c : Nat) (s : State) (x : Wr) : State :=
  let p := s.phys c
  let n := p.pubno + 1
  let e : Past :=
    { core := c + 1, agent := x.agent, part := x.part, strong := x.scope.isSome
      pubs := match x.scope with | some k => [(k, n)] | none => []
      rel := match x.scope, x.rel with | some k, some m => some (k, m.put 0 c n) | _, _ => none }
  let s := (s.perform x.word x.off x.bs e).see c x.word ((s.past x.word).length + 1)
  let s := if x.scope.isSome then s.updPhys c (fun p => { p with pubno := n, know := p.know.put 0 c n }) else s
  let s := if hostWords ≤ x.word ∧ x.scope = some 4 then (match x.rel with | some m => s.tellFar (m.put 0 c n) | none => s) else s
  if (s.phys c).sectorDone x then { s with mpoison := s.mpoison.put false (x.word / 4) false } else s

/-- The writes of core c that sel chooses, by place and content, are performed in order, each with the core's earlier ones to its word before it (R180); the others stay. -/
def State.performIf (s : State) (c : Nat) (sel : Nat → Wr → Bool) : State :=
  let ws := (s.phys c).dirty.zipIdx
  let due := ws.filter (fun q => sel q.2 q.1)
  let goes (q : Wr × Nat) : Bool := due.any (fun r => decide (q.2 ≤ r.2) && q.1.word == r.1.word)
  let s := s.updPhys c (fun p => { p with dirty := (ws.filter (fun q => !goes q)).map (·.1) })
  ((ws.filter goes).map (·.1)).foldl (State.performWr c) s

/-- Core c's writes to a word are performed, so that they precede what comes next there. -/
def State.performOwn (s : State) (c w : Nat) : State := s.performIf c (fun _ x => x.word == w)

/-- A write of the device's own agents other than the cores (slices, Porter, the walkers, the die hubs) is performed at once, and a refresh takes it in. -/
def State.devWrite (s : State) (base a : Nat) (bs : List Byte) : State :=
  (wordsOf base a bs).foldl (fun (s : State) q => s.perform q.1 q.2.1 q.2.2 { pubs := [(4, 0)], strong := true }) s

/-- A write of the host or of another device is performed, under the next number; rel says whether it is a release at system scope, which passes on what the parties outside know (R171, R177; log 7). -/
def State.farWrite (s : State) (base a : Nat) (rel : Bool) (bs : List Byte) : State :=
  let n := s.farKnow.get 0 farParty + 1
  let know := s.farKnow.put 0 farParty n
  (wordsOf base a bs).foldl (fun (s : State) q =>
    s.perform q.1 q.2.1 q.2.2 { far := true, pubs := [(4, n)], strong := true, rel := if rel then some (4, know) else none }) { s with farKnow := know }

/-- Bytes written to device memory from outside the cores clear the poison of the sectors that they fill (01 R13). -/
def State.healed (s : State) (pa n : Nat) : State :=
  { s with mpoison := s.mpoison.filter (fun p => !decide (pa ≤ 32 * p.1 ∧ 32 * p.1 + 32 ≤ pa + n)) }

/-- A write of a slice or a walker to device memory. -/
def State.homeWrite (s : State) (pa : Nat) (bs : List Byte) : State := (s.devWrite 0 pa bs).healed pa bs.length

/-- A write of another device to device memory. -/
def State.peerWrite (s : State) (pa : Nat) (rel : Bool) (bs : List Byte) : State := (s.farWrite 0 pa rel bs).healed pa bs.length

/-- What the releases at system scope performed at n bytes of a memory pass on to an acquire at that scope there (R177). -/
def State.passedOn (s : State) (base a n : Nat) : Store Nat :=
  (List.range' (base + a / 8) ((a + n + 7) / 8 - a / 8)).foldl (fun (m : Store Nat) w =>
    (s.past w).foldl (fun (m : Store Nat) e => match e.rel with | some (4, know) => joinKnow m know | _ => m) m) []

/-- Another device reads n bytes of device memory with an acquire at system scope (R177). -/
def State.farAcquire (s : State) (pa n : Nat) : State := s.tellFar (s.passedOn 0 pa n)

/-- Bytes become the initial contents of an aligned range, which nobody has read since it was given out: it has no earlier writes and no poison (01 R13). -/
def State.initMem (s : State) (pa n : Nat) (bs : List Byte) : State :=
  { s with
    mem := Memory.setPart (s.mem.filter (fun p => decide (p.1 < pa ∨ pa + n ≤ p.1))) pa bs
    hist := s.hist.filter (fun p => decide (8 * p.1 < pa ∨ pa + n ≤ 8 * p.1))
    cores := s.cores.mapVals {} (fun _ p =>
      { p with
        seen := p.seen.filter (fun q => decide (8 * q.1 < pa ∨ pa + n ≤ 8 * q.1))
        dirty := p.dirty.filter (fun x => decide (8 * x.word < pa ∨ pa + n ≤ 8 * x.word)) })
    mpoison := s.mpoison.filter (fun p => decide (32 * p.1 < pa ∨ pa + n ≤ 32 * p.1)) }

/-- Fills an aligned range of device memory with zeros. -/
def State.zero (s : State) (pa n : Nat) : State := s.initMem pa n []

/-! ### Publication and refresh (08 R171, R172, R177) -/

/-- Whether a write has been published at a scope as wide as another. -/
def Past.published (e : Past) (scope : Nat) : Bool := e.pubs.any (fun p => decide (scope ≤ p.1))

/-- PHASE.PUB at a scope of the writes of core c that mine chooses, by agent and by whether they belong to a word or copy that is not complete: they are performed, and published with the number of this publication; host memory is published at system scope only (R171). -/
def State.publish (s : State) (c scope : Nat) (mine : Nat → Bool → Bool) : State :=
  let s := s.performIf c (fun _ x => x.scope.isNone && mine x.agent x.part)
  let n := (s.phys c).pubno + 1
  { s with
    hist := Store.mapVals [] (fun w (h : List Past) => h.map (fun (e : Past) =>
      if e.core = c + 1 ∧ !e.strong ∧ mine e.agent e.part ∧ !e.published scope ∧ (w < hostWords ∨ scope = 4) then
        { e with pubs := e.pubs ++ [(scope, n)] }
      else e)) s.hist }.updPhys c (fun p => { p with pubno := n, know := p.know.put 0 c n })

/-- What a PHASE.PUB of a context covers: the writes of the core's contexts, and those of engine words and copies that are complete (R172; log 7). -/
def allDone (_ : Nat) (part : Bool) : Bool := !part

/-- Whether a refresh of core c at a scope takes a write in: it is the core's own, or it was published at a scope that covers the core, and that publication happens before (R172). -/
def State.takesIn (s : State) (c scope : Nat) (e : Past) : Bool :=
  e.core == c + 1 || (e.covered scope c && e.pubs.any (fun p => e.covered p.1 c
    && (match e.core with
        | 0 => !e.far || decide (p.2 ≤ (s.phys c).know.get 0 farParty)
        | d + 1 => decide (p.2 ≤ (s.phys c).know.get 0 d))))

/-- PHASE.REF at a scope: for each word, the core has seen the newest write that the refresh takes in and those before it. -/
def State.refresh (s : State) (c scope : Nat) : State :=
  s.hist.foldl (fun t q => t.see c q.1 (q.2.dropWhile (fun e => !s.takesIn c scope e)).length) s

/-- The writes of an agent's word or copy are complete (R180). -/
def State.completed (s : State) (c agent : Nat) : State :=
  { s with
    hist := Store.mapVals [] (fun _ (h : List Past) => h.map (fun (e : Past) => if e.core = c + 1 ∧ e.agent = agent ∧ e.part then { e with part := false } else e)) s.hist }.updPhys c
      (fun p => { p with dirty := p.dirty.map (fun (x : Wr) => if x.agent = agent then { x with part := false } else x) })

/-- Core c comes to know what another party passed on (R177). -/
def State.learn (s : State) (c : Nat) (know : Store Nat) : State := s.updPhys c (fun p => { p with know := joinKnow p.know know })

/-! ### Ordinary reads (08 R173, R174) -/

/-- The writes of other cores to a word that are still on their way: core and place in its list. -/
def State.onTheWay (s : State) (c w : Nat) : List (Nat × Nat) :=
  s.cores.flatMap (fun p => if p.1 = c then [] else (p.2.dirty.zipIdx.filter (fun q => q.1.word == w)).map (fun q => (p.1, q.2)))

/-- A word as core c has seen it, with its own writes over it. -/
def State.sees (s : State) (c w : Nat) : List Byte :=
  ((s.phys c).dirty.filter (·.word == w)).foldl (fun b x => overlay b x.off x.bs) (toBytes 8 (s.wordAfter w (s.seenBy c w)))

/-- The core's own writes of a word that are on their way have been returned to it (R174). -/
def State.tookOwn (s : State) (c w : Nat) : State :=
  if (s.phys c).dirty.any (fun x => x.word == w && !x.read) then
    s.updPhys c (fun p => { p with dirty := p.dirty.map (fun x => if x.word = w then { x with read := true } else x) })
  else s

/-- How many of the writes performed at a word an ordinary read of core c may take as racing ones: those that it has not seen, and none once the core has read a write of its own that is still on its way, which comes later in the coherence order (R174). -/
def State.racing (s : State) (c w : Nat) : Nat :=
  if (s.phys c).dirty.any (fun x => x.word == w && x.read) then 0 else (s.past w).length - s.seenBy c w

/-- A word as core c reads it where it takes n racing writes after those that it has seen: bytes that none of them wrote are as the core sees them. -/
def State.raced (s : State) (c w n : Nat) : List Byte :=
  let i := s.seenBy c w + n
  let new := ((s.past w).drop ((s.past w).length - i)).take n
  ((s.sees c w).zip (toBytes 8 (s.wordAfter w i))).zipIdx.map (fun p =>
    if new.any (fun e => decide (e.off ≤ p.2 ∧ p.2 < e.off + e.len)) then p.1.2 else p.1.1)

/-- A word as an ordinary read of core c returns it. Where another agent's writes race, Config.racePick chooses: 0 takes what is visible, a number up to that of the racing writes performed takes the word after so many of them, and a greater one takes a write still on its way, which is then performed, the core's own before it (R174, R176). -/
def State.viewWord (s : State) (c w : Nat) : List Byte × State :=
  if (s.past w).length ≤ s.seenBy c w ∧ (s.onTheWay c w).isEmpty then (s.sees c w, s.tookOwn c w)
  else
    let pick := Config.racePick s.tick w
    if pick = 0 then (s.sees c w, s.tookOwn c w)
    else if pick ≤ s.racing c w then (s.raced c w pick, s.see c w (s.seenBy c w + pick))
    else
      match (s.onTheWay c w)[pick - s.racing c w - 1]? with
      | some (d, at_) =>
        let t := (s.performOwn c w).performIf d (fun i x => decide (i ≤ at_) && x.word == w)
        (t.homeBytes w, t.see c w (t.past w).length)
      | none => (s.sees c w, s.tookOwn c w)

/-- The words from w on, in order. -/
def State.viewWords (c : Nat) : Nat → Nat → State → List Byte × State
  | _, 0, s => ([], s)
  | w, n + 1, s =>
    let (b, s) := s.viewWord c w
    let (r, s) := State.viewWords c (w + 1) n s
    (b ++ r, s)

/-- n bytes from an address as an ordinary read sees them. -/
def State.viewRead (s : State) (c base a n : Nat) : List Byte × State :=
  let (b, s) := State.viewWords c (base + a / 8) ((a + n + 7) / 8 - a / 8) s
  ((b.drop (a % 8)).take n, s)

/-- An ordinary write: the core sees it at once and it is performed later (R172). -/
def State.ordWrite (s : State) (c agent base a : Nat) (bs : List Byte) : State :=
  s.updPhys c (fun p =>
    { p with
      dirty := p.dirty ++ (wordsOf base a bs).map (fun q =>
        { word := q.1, off := q.2.1, bs := q.2.2, agent := agent, part := decide (3 ≤ agent)
          sector := base == 0 && decide (a ≤ 32 * (q.1 / 4) ∧ 32 * (q.1 / 4) + 32 ≤ a + bs.length) }) })

/-- Whether a sector that n bytes touch is poisoned for core c: its own write of the whole sector clears it (01 R13). -/
def State.devPoison (s : State) (c pa n : Nat) : Bool :=
  (List.range' (pa / 32) ((pa + n + 31) / 32 - pa / 32)).any (fun i =>
    s.mpoison.get false i && !(s.phys c).dirty.any (fun x => x.sector && x.word / 4 == i))

/-! ### Strong accesses (08 R175 to R178, R187) -/

/-- An acquire of core c at a scope that has read a word: it synchronises with each release among the writes seen whose scope and its own cover both parties, and sees every store of a commit it has read from (R177, R187). -/
def State.acquire (s : State) (c scope w : Nat) : State :=
  ((s.past w).drop ((s.past w).length - s.seenBy c w)).foldl (fun (t : State) e =>
    match e.rel with
    | some (k, know) =>
      if e.covered k c && e.covered scope c then
        let t := t.learn c know
        if e.commit = 0 then t
        else t.hist.foldl (fun (t : State) q => t.see c q.1 (q.2.dropWhile (fun d => d.commit != e.commit)).length) t
      else t
    | none => t) s

/-- A strong read of n bytes at a home: the core's own writes there come first (R176). -/
def State.strongRead (s : State) (c base a n : Nat) : List Byte × State :=
  let ws := List.range' (base + a / 8) ((a + n + 7) / 8 - a / 8)
  let s := ws.foldl (fun s w => s.performOwn c w) s
  let s := ws.foldl (fun (s : State) w => s.see c w (s.past w).length) s
  (((ws.flatMap s.homeBytes).drop (a % 8)).take n, s)

/-- A core's own writes to a 4 KiB page of device memory are performed. -/
def State.performPage (s : State) (c pa : Nat) : State := s.performIf c (fun _ x => x.word / 512 == pa / 4096)

/-- The number of context x of core c: 0 for the main context, and else that of its tail (10 R217). -/
def State.serialOf (s : State) (c x : Nat) : Nat := if x = 0 then 0 else (s.cx c x).serial

/-- The strong writes of core c that come before a release or fence of context x are performed: its own, those of the context that created it, made before, and those of tails that it has joined (R175, R177; 10 R216 to R218; 19 R368). -/
def State.drainCx (s : State) (c x : Nat) : State := s.performIf c (fun _ q => q.scope.isSome && q.before.contains (s.serialOf c x))

/-- Strong writes of core c that come before context a come before context b too. Contexts go by their numbers. -/
def State.orderAfter (s : State) (c : Nat) (a : Nat → Bool) (b : Nat) : State :=
  s.updPhys c (fun p => { p with
    dirty := p.dirty.map (fun q => if q.before.any a && !q.before.contains b then { q with before := q.before ++ [b] } else q) })

/-- Every strong write of core c is performed. -/
def State.drainCore (s : State) (c : Nat) : State := s.performIf c (fun _ x => x.scope.isSome)

/-- What a strong write passes on where it is a release (R177). -/
def State.passOn (s : State) (c : Nat) (release : Bool) : Option (Store Nat) := if release then some (s.phys c).know else none

/-- A strong write of context x sets out for its home (R176). A release is performed after every earlier strong access of the context (R175). -/
def State.strongSend (s : State) (c x base a scope : Nat) (release : Bool) (bs : List Byte) : State :=
  let s := if release then s.drainCx c x else s
  let know := s.passOn c release
  s.updPhys c (fun p =>
    { p with
      dirty := p.dirty ++ (wordsOf base a bs).map (fun q =>
        { word := q.1, off := q.2.1, bs := q.2.2, agent := x, scope := some scope, rel := know, before := [s.serialOf c x] }) })

/-- A strong write performed at once, as the write of a read-modify-write is (R176). -/
def State.strongWrite (s : State) (c x base a scope : Nat) (release : Bool) (bs : List Byte) : State :=
  let know := s.passOn c release
  (wordsOf base a bs).foldl (fun (s : State) q =>
    (s.performOwn c q.1).performWr c { word := q.1, off := q.2.1, bs := q.2.2, agent := x, scope := some scope, rel := know }) s

/-- Reads of host memory keep no order among locations (R176): a strong read may return an earlier value than the home's, but none before what the context's last acquire or fence or an earlier read of the word had seen. -/
def State.hostStrongRead (s : State) (c a n : Nat) : List Byte × State :=
  let w := hostWords + a / 8
  let s := s.performOwn c w
  let low := max ((s.phys c).hseen.get 0 w) (s.seenBy c w)
  let i := if (s.past w).length ≤ low then low else min (s.past w).length (low + Config.racePick s.tick w)
  (((toBytes 8 (s.wordAfter w i)).drop (a % 8)).take n, s.see c w i)

/-- Every later strong read of host memory of core c comes after what is performed now (R175, R177). -/
def State.orderHost (s : State) (c : Nat) : State :=
  s.updPhys c (fun p => { p with hseen := (s.hist.filter (fun q => decide (hostWords ≤ q.1))).map (fun q => (q.1, q.2.length)) })

/-- After a move, strong writes that are on their way may be performed, as Config.performs chooses for each word: those of one word in order, those of different words in any (R176). -/
def State.drain (s : State) (c : Nat) : State :=
  (((s.phys c).dirty.filter (·.scope.isSome)).map (·.word)).foldl
    (fun (t : State) w => if Config.performs s.tick (2 ^ 8 * w + c) then t.performOwn c w else t) s

/-- The strong writes of every core that are performed after a move. -/
def State.drainAll (s : State) : State := s.cores.foldl (fun t p => t.drain p.1) s

end Sys2Proof.Machine
end

