-- ==== Sys2Proof/Machine/Ops.lean ====
section
/-! DEFINITION. The named operations over the state: accessors, claims, registers and queues, scratchpad, semaphores, event counters, windows' logs, and taking a trap, its delivery and the return from it (06; 10 R205 to R213; 13 R263, R294 to R297). -/

namespace Sys2Proof.Machine

/-! ### Claims (03 R52) -/

/-- What a task may claim. -/
inductive Res where
  | tile (n : Nat) | acc (n : Nat) | opfile | latch | sem (n : Nat) | bb (n : Nat) | cb (n : Nat)
  | st (n : Nat) | cd (n : Nat) | sw (n : Nat) | tail (n : Nat) | chan (n : Nat) | queue (n : Nat)
  | ev (n : Nat) | layout (n : Nat) | seq (n : Nat)
  deriving DecidableEq, Repr

/-- Whether the claims hold a resource. hs31 names no semaphore and needs no claim (06 R113). -/
def Claims.has (cl : Claims) : Res → Bool
  | .tile n => decide (n < 17) && bitAt cl.regs n
  | .acc n => decide (n < 4) && bitAt cl.regs (17 + n)
  | .opfile => bitAt cl.regs 21
  | .latch => bitAt cl.regs 22
  | .sem n => n == 31 || (decide (n < 31) && bitAt cl.sync n)
  | .bb n => decide (n < 16) && bitAt cl.sync (31 + n)
  | .cb n => decide (n < 8) && bitAt cl.sync (47 + n)
  | .st n => decide (n < 64) && bitAt cl.coder n
  | .cd n => decide (n < 16) && bitAt cl.coder (64 + n)
  | .sw n => decide (n < 4) && bitAt cl.spec n
  | .tail n => decide (n < bitsOf cl.spec 5 4)
  | .chan n => decide (n < 16) && bitAt cl.copy n
  | .queue n => decide (n < 8) && bitAt cl.queues n
  | .ev n => decide (n < cl.events)
  | .layout n => decide (n < cl.layout)
  | .seq n => decide (n < cl.sampler)

/-- The task of a core. -/
def Core.tk (k : Core) : Task := k.task.getD {}
/-- The claims of a core's task. -/
def Core.cl (k : Core) : Claims := k.tk.claims
/-- The SPAD claim in bytes. -/
def Core.spadLimit (k : Core) : Nat := k.cl.spad
/-- The channel fed by q7, where the image declares one (R52, COPY). -/
def Core.q7chan (k : Core) : Option Nat := if bitAt k.cl.copy 20 then some (bitsOf k.cl.copy 19 16) else none

/-! ### Stops of an access -/

/-- A request that a stalled access has posted to another unit. -/
inductive Ask where
  /-- Ranrum commands that travel in one flit: device, and each command with the requester's key for its response (01 R17). -/
  | peer (dev : Nat) (cmds : List (PeerCmd × Nat))
  /-- An ATS translation request (04 R71). -/
  | ats (pasid page : Nat) (write : Bool)
  /-- The page walks under way, those that the access has started among them (04 R69). -/
  | walks (ws : List Walk)
  deriving DecidableEq, Repr

/-- Why an access goes no further now. -/
inductive Stop where
  | trap (c : Cause) (tval : Nat)
  /-- A trap whose TVAL is not the address that failed (13 R296). -/
  | trapAt (c : Cause) (tval va : Nat)
  | stall
  /-- On an empty scratchpad line (06 R128). -/
  | empty (line : Nat)
  /-- The same for an instruction whose traps report another TVAL (09 R195). -/
  | emptyFor (line tval : Nat)
  /-- On a full store log (10 R209). -/
  | log
  /-- On a barrier or a tail (06 R129; 10 R217). -/
  | held (h : Held)
  /-- On an answer from another unit, after asking for it where it has not been asked; qs are the queues whose oldest entry the request was made from. -/
  | ask (a : Ask) (qs : List Nat := [])
  /-- A polled answer did not end the wait: it is asked for again (13 R276). -/
  | retry
  deriving DecidableEq, Repr

/-- An access that may stop, with no effect where it does (13 R263). -/
abbrev Ex (α : Type) := Except Stop α

/-- Traps unless b holds. -/
def need (b : Bool) (c : Cause) (tval : Nat) : Ex Unit := if b then .ok () else .error (.trap c tval)
/-- Stalls unless b holds. -/
def await (b : Bool) : Ex Unit := if b then .ok () else .error .stall
/-- Traps unclaimed resource unless the claims hold r (13 R296: TVAL is the index). -/
def claim (k : Core) (r : Res) (ix : Nat) : Ex Unit := need (k.cl.has r) .unclaimed ix

/-! ### Scalar registers and queues (06 R115 to R117; 13 R263) -/

/-- The depth of a queue (R115). -/
def qDepth (n : Nat) : Nat :=
  match n with
  | 2 | 3 | 6 => 8
  | 7 => 4
  | _ => 16

/-- The entries of a queue, oldest first. -/
def Core.queue (k : Core) (n : Nat) : List W64 := k.q.get [] n
/-- Replaces the entries of a queue. -/
def Core.setQueue (k : Core) (n : Nat) (l : List W64) : Core := { k with q := k.q.put [] n l }
/-- Whether a queue has room for m more entries. -/
def Core.room (k : Core) (n m : Nat) : Bool := decide ((k.queue n).length + m ≤ qDepth n)

/-- The queues among register numbers, each once. -/
def queuesOf (rs : List Nat) : List Nat := ((rs.filter (24 ≤ ·)).map (· - 24)).dedup

/-- The checks on an instruction's register operands: queue direction, then the QUEUES claim (R116; 12 R259). -/
def regCheck (k : Core) (srcs : List Nat) (dst : Option Nat) : Ex Unit := do
  let qs := queuesOf srcs
  for q in qs do
    need (q % 2 == 1 && !(q == 7 && k.q7chan.isSome)) .queueDirection q
  let dq := queuesOf dst.toList
  for q in dq do
    need (q % 2 == 0) .queueDirection q
  for q in qs ++ dq do
    claim k (.queue q) q

/-- Whether the oldest entry of a queue is one that an instruction under way in another context has sent on and will pop (R116). -/
def Core.taken (k : Core) (x q : Nat) : Bool := k.cx.any (fun p => p.1 != x && p.2.live && p.2.takes.contains q)

/-- The stalls on the queue operands of an instruction of context x (R116): a source that is empty or of which another context's instruction takes the oldest entry, a full destination. -/
def regReady (k : Core) (x : Nat) (srcs : List Nat) (dst : Option Nat) : Bool :=
  (queuesOf srcs).all (fun q => !(k.queue q).isEmpty && !k.taken x q) && (queuesOf dst.toList).all (fun q => k.room q 1)

/-- What a register reads as: s0 is zero and a queue shows its oldest entry (12 R238; 06 R116). -/
def readReg (k : Core) (cx : Ctx) (r : Nat) : W64 :=
  if r = 0 then 0 else if r < 24 then cx.s.get 0 r else (k.queue (r - 24)).headD 0

/-- Pops each source queue once (R116). -/
def popSrcs (k : Core) (srcs : List Nat) : Core :=
  (queuesOf srcs).foldl (fun k q => k.setQueue q (k.queue q).tail) k

/-- Writes a destination: a write to s0 is discarded and a queue gains an entry (12 R238; 06 R116). -/
def writeReg (k : Core) (x r : Nat) (v : W64) : Core :=
  if r = 0 then k
  else if r < 24 then { k with cx := k.cx.upd {} x (fun q => { q with s := q.s.put 0 r v }) }
  else k.setQueue (r - 24) (k.queue (r - 24) ++ [v])

/-! ### Scratchpad (06 R126 to R128) -/

/-- The 128-byte lines that n bytes from an address touch. -/
def linesOf (a n : Nat) : List Nat :=
  if n = 0 then [] else List.range' (a / 128) ((a + n - 1) / 128 - a / 128 + 1)

/-- Whether a line's full bit is clear. -/
def Core.isEmpty (k : Core) (line : Nat) : Bool := k.empty.get false line
/-- Sets or clears full bits. -/
def Core.setFull (k : Core) (full : Bool) (lines : List Nat) : Core :=
  { k with empty := lines.foldl (fun e l => e.put false l (!full)) k.empty }

/-- n scratchpad bytes: stalls on an empty line, and poison stops the read (R126, R128). -/
def spadRead (k : Core) (a n : Nat) : Ex (List Byte) :=
  if n = 0 then .ok [] else
  match (linesOf a n).find? k.isEmpty with
  | some l => .error (.empty (128 * l))
  | none =>
    match (List.range' (a / 8) ((a + n + 7) / 8 - a / 8)).find? (k.spoison.get false) with
    | some w => .error (.trap .poison (8 * w))
    | none => .ok (k.spad.part a n)

/-! ### Windows: tags and logs (10 R205 to R209) -/

/-- Window n of a core. -/
def Core.window (k : Core) (n : Nat) : Window := k.win.get {} n
/-- Applies f to window n. -/
def Core.updWin (k : Core) (n : Nat) (f : Window → Window) : Core := { k with win := k.win.upd {} n f }
/-- The window and step that a context's accesses belong to (R207). -/
def Core.tagOf (k : Core) (x : Nat) : Option (Nat × Nat) :=
  ((k.cx.get {} x).window).map (fun n => (n, (k.window n).step))

/-- Whether a line lies in a recurrent region (R206). -/
def Window.inRegion (w : Window) (line : Nat) : Bool := w.regions.any (fun r => decide (r.1 ≤ line ∧ line < r.1 + r.2))
/-- Whether the current step has logged a scratchpad line. -/
def Window.logged (w : Window) (line : Nat) : Bool := w.rlog.any (fun e => e.step == w.step && e.line == line)
/-- Whether the current step has stored to a 128-byte line of device memory. -/
def Window.stored (w : Window) (line : Nat) : Bool := w.dlog.any (fun e => e.1 == w.step && e.2.1 / 128 == line)
/-- Whether the window is open or failed. -/
def Window.live (w : Window) : Bool := w.st != 0

/-- The windows of a core that are open or failed. -/
def Core.liveWins (k : Core) : List Nat := (List.range 4).filter (fun n => (k.window n).live)

/-- The key of an error: the structure's code (06 R140) and the 8-byte word within it. -/
def errKey (struct word : Nat) : Nat := struct * 2 ^ 20 + word

/-- A scratchpad line as it stands, for a window's log. -/
def Core.logLine (k : Core) (step l : Nat) : LogLine :=
  { step := step, line := l, bs := k.spad.bytes (128 * l) 128
    poison := (List.range' (16 * l) 16).filter (k.spoison.get false)
    corr := (List.range' (16 * l) 16).filter (fun w => k.corr.get false (errKey 4 w)) }

/-- Logs the prior content of lines in window n before the step's first write to each; force logs lines outside the regions too, as coder instructions do (R207, R196). -/
def Core.logLines (k : Core) (n : Nat) (force : Bool) (lines : List Nat) : Core :=
  lines.foldl (fun k l =>
    let w := k.window n
    if (force || w.inRegion l) && !w.logged l then
      k.updWin n (fun w => { w with rlog := k.logLine w.step l :: w.rlog, lines := w.lines + 1 })
    else k) k

/-- The log lines that writes to scratchpad lines would add to window n (R209). -/
def Core.logNeed (k : Core) (n : Nat) (force : Bool) (lines : List Nat) : Nat :=
  (lines.dedup.filter (fun l => (force || (k.window n).inRegion l) && !(k.window n).logged l)).length

/-- The key as a trap value, laid out as ELAST (06 R140; 13 R296). -/
def errTval (key : Nat) : Nat := key / 2 ^ 20 + key % 2 ^ 20 * 16

/-- Words lo to hi - 1 of a structure have been written: their errors end, and an armed injection into one of them takes effect (06 R123, R142). Two bits, or any in a tile without correction, are uncorrectable (R122). -/
def Core.written (k : Core) (struct lo hi : Nat) : Core :=
  let out (m : Store Bool) : Store Bool := m.filter (fun p => decide (p.1 < errKey struct lo ∨ errKey struct hi ≤ p.1))
  let k := { k with rerr := out k.rerr, corr := out k.corr }
  let w := bitsOf k.einj 23 4
  if bitAt k.einj 31 && k.einj % 16 == struct && decide (lo ≤ w ∧ w < hi) then
    let k := { k with einj := k.einj % 2 ^ 31 }
    if bitsOf k.einj 25 24 = 2 || (struct == 0 && bitAt k.cl.regs 16) then
      if struct = 4 then { k with spoison := k.spoison.put false w true }
      else { k with rerr := k.rerr.put false (errKey struct w) true }
    else { k with corr := k.corr.put false (errKey struct w) true }
  else k

/-- Writes scratchpad bytes: windows log first, a wholly written 8-byte word loses its poison, full bits stay (R126, R127, R207). -/
def Core.spadWrite (k : Core) (a : Nat) (bs : List Byte) : Core :=
  let lines := linesOf a bs.length
  let k := k.liveWins.foldl (fun k n => k.logLines n false lines) k
  let whole := List.range' ((a + 7) / 8) ((a + bs.length) / 8 - (a + 7) / 8)
  { k with
    spad := k.spad.setPart a bs
    spoison := whole.foldl (fun p w => p.put false w false) k.spoison }.written 4 (a / 8) ((a + bs.length + 7) / 8)

/-- Correctable errors among the words from lo to hi - 1 of a structure. -/
def Core.corrIn (k : Core) (struct lo hi : Nat) : Store Bool :=
  k.corr.filter (fun p => decide (errKey struct lo ≤ p.1 ∧ p.1 < errKey struct hi))

/-- A register or scratchpad error enters the core's error log and a slice's (06 R140, R141; 03 R58): R58 names the slice in which an error occurs and no core lies in one, so the model takes the home slice of the task's context (log 41). -/
def State.noteError (s : State) (c key : Nat) (hard : Bool) : State :=
  let sl := homeSlice (s.core c).tk.ctx
  let last := key / 2 ^ 20 + key % 2 ^ 20 * 2 ^ 4 + hard.toNat * 2 ^ 24 + s.cycle (clusterOf c) % 2 ^ 32 * 2 ^ 32
  let s := s.updPhys c (fun p =>
    { p with
      ecorr := if hard then p.ecorr else min (p.ecorr + 1) (2 ^ 32 - 1)
      eunc := if hard then min (p.eunc + 1) (2 ^ 32 - 1) else p.eunc
      elast := last })
  s.updSlice sl (fun e => { e with errlog := e.errlog ++ [toBytes 8 last] })

/-- A read of words lo to hi - 1 of a structure counts the errors it corrects. -/
def State.noteRead (s : State) (c struct lo hi : Nat) : State :=
  ((s.core c).corrIn struct lo hi).foldl (fun s p => s.noteError c p.1 false) s

/-- A read of scratchpad bytes, with the state after it. -/
def State.spadGet (s : State) (c a n : Nat) : Ex (List Byte × State) := do
  let bs ← spadRead (s.core c) a n
  .ok (bs, s.noteRead c 4 (a / 8) ((a + n + 7) / 8))

/-- A cause that reports an uncorrectable error of the core counts it (06 R141): tval names the register word, or the address. -/
def State.noteFault (s : State) (c : Nat) (cause : Cause) (tval : Nat) : State :=
  match cause with
  | .registerData => s.noteError c (errKey (tval % 16) (tval / 16)) true
  | .poison => if tval < 0x80000 then s.noteError c (errKey 4 (tval / 8)) true else s
  | _ => s

/-! ### Marionette counts (06 R133) -/

/-- Adds n to every Marionette counter that counts the event. -/
def Core.mxCount (k : Core) (ev n : Nat) : Core :=
  { k with mxcnt := (List.range 8).foldl (fun m i =>
      if k.mxsel.get 0 i = ev then m.upd 0 i (fun v => (v + n) % 2 ^ 32) else m) k.mxcnt }

/-! ### Semaphores (06 R113) -/

/-- A semaphore's count; hs31 names none and is always ready. -/
def Core.semReady (k : Core) (n : Nat) : Bool := n == 31 || decide (0 < k.sem.get 0 n)
/-- Decreases a semaphore. -/
def Core.semTake (k : Core) (n : Nat) : Core :=
  if n = 31 then k else { k with sem := k.sem.upd 0 n (· - 1) }
/-- Whether a raise would take a semaphore past 65 535. -/
def Core.semFull (k : Core) (n : Nat) : Bool := n != 31 && decide (65535 ≤ k.sem.get 0 n)
/-- Adds 1 to a semaphore, which is left unchanged at its limit. -/
def Core.semRaise (k : Core) (n : Nat) : Core :=
  if n = 31 ∨ 65535 ≤ k.sem.get 0 n then k
  else { k with sem := k.sem.upd 0 n (· + 1) }.mxCount (0x10 + n) 1

/-! ### Event counters (03 R42 to R44) -/

/-- The interface that a counter is granted to, and its local index. -/
def State.evOwner (s : State) (n : Nat) : Option (Nat × Nat) :=
  (s.vis.find? (fun p => decide (p.2.evbase ≤ n ∧ n < p.2.evbase + p.2.evcount))).map (fun p => (p.1, n - p.2.evbase))

/-- A counter's value. -/
def State.counter (s : State) (n : Nat) : W64 := s.counters.get 0 n

/-- Porter, a walker or a slice writes bytes to host memory at a host address. -/
def State.hostWrite (s : State) (a : Nat) (bs : List Byte) : State := s.devWrite hostWords a bs

/-- An armed wait fires: the value goes to EVMIRBASE + 8i and a vector is signalled (R43). The host's wait is complete, and is an acquire (08 R178). -/
def State.fireWait (s : State) (n : Nat) : State :=
  let b := s.blks.get {} n
  let v := s.counter n
  if b.waitArmed && decide (b.waitThr ≤ v.toNat) then
    let s := { s with blks := s.blks.put {} n { b with waitArmed := false } }
    match s.evOwner n with
    | none => s
    | some (vi, i) =>
      let e := s.vi vi
      let s := (s.hostWrite (e.evmirbase + 8 * i) (toBytes 8 v.toNat)).tellFar (s.evKnow.get [] n)
      if bitAt e.evvec 6 then { s with msix := s.msix ++ [(vi, e.evvec % 64)] } else s
  else s

/-- A trigger that the counter has reached fires and adds its amount to its target, which may fire in turn, at most fuel times (R43). Its ADD passes on what the ADDs to its counter have passed on (08 R178). -/
def State.evFire (s : State) (n : Nat) : Nat → State
  | 0 => s
  | fuel + 1 =>
    let b := s.blks.get {} n
    if b.trigArmed && decide (b.trigt ≤ (s.counter n).toNat) then
      let s := { s with blks := s.blks.put {} n { b with trigArmed := false } }
      match s.evOwner n with
      | none => s
      | some (vi, _) =>
        let t := (s.vi vi).evbase + b.trigact % 4096
        let s := { s with
          counters := s.counters.upd 0 t (· + w64 (b.trigact / 2 ^ 32)), evKnow := s.evKnow.upd [] t (joinKnow · (s.evKnow.get [] n)) }
        State.evFire (s.fireWait t) t fuel
    else s

/-- An ADD to an event counter fires the waits and triggers it reaches (R43, R44). Each arming fires once, so 4 097 steps of the chain suffice. -/
def State.evAdd (s : State) (n x : Nat) : State :=
  let s := { s with counters := s.counters.upd 0 n (· + w64 x) }
  (s.fireWait n).evFire n 4097

/-- An ADD that is a release at system scope and passes on what its maker knows of (08 R178). -/
def State.evPass (s : State) (n x : Nat) (know : Store Nat) : State :=
  State.evAdd { s with evKnow := s.evKnow.upd [] n (joinKnow · know) } n x

/-- An ADD by core c (08 R178). -/
def State.evRelease (s : State) (c n x : Nat) : State := s.evPass n x (s.phys c).know

/-- An ADD by the host or another device (08 R178). -/
def State.evFar (s : State) (n x : Nat) : State := s.evPass n x s.farKnow

/-- A wait on a counter completes, an acquire at system scope (08 R178). -/
def State.evAcquire (s : State) (c n : Nat) : State := s.learn c (s.evKnow.get [] n)

/-! ### Ranrum commands (01 R16 to R18) -/

/-- The command slot of a command (R17): each field at its width. An atomic's operation lies above the fields that R17 places (log 15). -/
def commandSlot (c : PeerCmd) : Nat :=
  c.op % 2 ^ 8 + c.ctx % 2 ^ 12 * 2 ^ 8 + c.tag % 2 ^ 16 * 2 ^ 20 + c.paddr % 2 ^ 44 * 2 ^ 36 + (c.len / 8 - 1) % 16 * 2 ^ 80
    + c.ord % 16 * 2 ^ 84 + c.fn * 2 ^ 88

/-- Whether an operation uses the data slot whole, or 16 bytes of it: an atomic's response has the value in bytes 0 to 7 of its own 16 (log 15). -/
def wholeData (op : Nat) : Bool := op == 0x02 || op == 0x08
def partData (op : Nat) : Bool := op == 0x03 || op == 0x04 || op == 0x05 || op == 0x0A

/-- The header of a flit that this device originates, with TTL 31 and n command slots valid (R16, R18); the port that sends it fills SEQ, ACK and CREDIT. -/
def flitHeader (ftype src dst seq vc n : Nat) (datav : Bool) : Nat :=
  ftype + dst * 2 ^ 8 + src * 2 ^ 20 + seq * 2 ^ 32 + vc * 2 ^ 56 + (2 ^ n - 1) * 2 ^ 59 + datav.toNat * 2 ^ 65 + 31 * 2 ^ 82

/-- A number with bits hi to lo replaced. -/
def putBits (x hi lo v : Nat) : Nat := x - bitsOf x hi lo * 2 ^ lo + v % 2 ^ (hi + 1 - lo) * 2 ^ lo

/-- Bytes 0 to 239 of a flit as a number, over which its CRC runs (R16). -/
def flitBody (f : Flit) : Nat :=
  f.hdr + ((List.range 6).map (fun i => f.slots.getD i 0 % 2 ^ 128 * 2 ^ (128 * (i + 1)))).sum + f.data % 2 ^ 1024 * 2 ^ 896

/-- The flit of commands to a device, the first in slot 0 (R16, R17). Its virtual channel is that of the first command's page (log 10); the data of a write or a read response lies from byte 0 of the data slot on (log 15). -/
def commandFlit (src dev : Nat) (cs : List PeerCmd) : Flit :=
  let c := cs.headD {}
  { hdr := flitHeader 1 src dev 0 (Config.channel (dev * 2 ^ 32 + c.paddr % 2 ^ 44 / 4096)).toNat cs.length (cs.any (fun c => wholeData c.op || partData c.op))
    slots := cs.map commandSlot
    data := (cs.zipIdx.map (fun p => p.1.data * (if wholeData p.1.op then 1 else 2 ^ (128 * p.2)))).sum }

/-- Credits to return in one flit: at most 3 a virtual channel (R16). -/
def Port.creditBits (p : Port) : Nat := ((List.range 8).map (fun v => min 3 (p.owed.get 0 v) * 2 ^ (2 * v))).sum

/-- A port sends a flit: a traffic flit takes the next SEQ and is kept until it is acknowledged, and every flit carries the port's ACK and the credits it owes (R16; log 10). -/
def State.transmit (p : Nat) (s : State) (f : Flit) : State :=
  let t := s.ports.get {} p
  let traffic := f.hdr % 2 ^ 8 == 1
  let hdr := putBits (putBits (if traffic then putBits f.hdr 43 32 t.txseq else f.hdr) 55 44 t.rxseq) 81 66 t.creditBits
  let g : Flit := { f with hdr := hdr }
  let g : Flit := { g with crc := Config.crc64 (flitBody g) }
  { s with
    tx := s.tx ++ [(p, g)]
    ports := s.ports.put {} p { t with
      owed := t.owed.mapVals 0 (fun _ n => n - 3)
      unacked := if traffic then t.unacked ++ [g] else t.unacked
      txseq := if traffic then (t.txseq + 1) % 4096 else t.txseq } }

/-- Hands a flit to a port: one that is not UP keeps it until it is (R20). -/
def State.sendOn (s : State) (p : Nat) (f : Flit) : State :=
  if (s.ports.get {} p).state = 2 then s.transmit p f
  else { s with ports := s.ports.upd {} p (fun t => { t with waiting := t.waiting ++ [f] }) }

/-- Sends commands to a device on the routed port; none where it has no route, which discards the flit (R18). -/
def State.sendCmds (s : State) (dev : Nat) (cs : List PeerCmd) : Option State :=
  match s.route.get 0 dev with
  | 0 => none
  | p + 1 => some (s.sendOn p (commandFlit s.devid dev cs))

/-! ### Frames and pages -/

/-- Returns a 64 KiB frame, which is zeroed before reuse (10 R212). -/
def State.freeFrame (s : State) (f : Nat) : State := { (s.zero (f * 65536) 65536) with frames := s.frames.put (0, 0) f (0, 0) }

/-! ### Ending a window without keeping anything (10 R212) -/

/-- Writes a logged line back: its bytes, and the errors that its words had, as if nothing had been stored (08 R187). Being a write, it ends later errors and takes an armed injection (06 R126, R142). -/
def Core.undoLine (k : Core) (e : LogLine) : Core :=
  let words := List.range' (16 * e.line) 16
  let k := { k with
    spad := k.spad.writeBytes (128 * e.line) e.bs
    spoison := words.foldl (fun m w => m.put false w (e.poison.contains w)) k.spoison }.written 4 (16 * e.line) (16 * e.line + 16)
  { k with corr := e.corr.foldl (fun m w => m.put false (errKey 4 w) true) k.corr }

/-- Writes back the prior contents of the log entries of steps from j on, newest first. -/
def Core.undoLines (j : Nat) : List LogLine → Core → Core
  | [], k => k
  | e :: r, k => Core.undoLines j r (if j ≤ e.step then k.undoLine e else k)

/-- The streams that the owner of a window has written (R372). -/
def Window.written (w : Window) : List Nat := (w.swrote ++ w.svers.map (·.2.1)).dedup

/-- The newest version of a stream among those of steps before j. -/
def versionBefore (j x : Nat) (l : List (Nat × Nat × Stream)) : Option Stream :=
  (l.foldl (fun (b : Option (Nat × Stream)) v =>
    if v.2.1 = x ∧ v.1 < j ∧ (b.map (·.1)).getD 0 ≤ v.1 then some (v.1, v.2.2) else b) none).map (·.2)

/-- The state a stream had at the end of step j - 1, or at opening (R196, R211). -/
def streamAt (w : Window) (j x : Nat) : Stream := (versionBefore j x w.svers).getD (w.sopen.get {} x)

/-- Undoes steps from j on of window n of core c: recurrent lines, streams and pages (R211, R212). -/
def State.undoWindow (s : State) (c n j : Nat) : State :=
  let w := (s.core c).window n
  let freed := w.pages.filter (fun p => decide (j ≤ p.2.2))
  let s := freed.foldl (fun s p => s.freeFrame p.2.1) s
  let v := (s.core c).tk.vi
  let sl := (s.core c).tk.slot
  let s := s.updVi v (fun e => { e with slots := e.slots.upd {} sl (fun im => { im with pages := im.pages - freed.length }) })
  s.updCore c (fun k =>
    { Core.undoLines j w.rlog k with
      st := w.written.foldl (fun m x => m.put {} x (streamAt w j x)) k.st })

/-- Closes window n: its owner owns none. -/
def Core.closeWindow (k : Core) (n : Nat) : Core :=
  { k with
    cx := k.cx.upd {} (k.window n).owner (fun q => { q with window := none })
    win := k.win.put {} n {} }

/-- SWABORT's effect (R212). -/
def State.abortWindow (s : State) (c n : Nat) : State := (s.undoWindow c n 0).updCore c (·.closeWindow n)

/-- Aborts every window of a core (R214). -/
def State.abortWindows (s : State) (c : Nat) : State := ((s.core c).liveWins).foldl (fun s n => s.abortWindow c n) s

/-! ### Faults and traps (13 R294 to R297) -/

/-- Posts a fault record to the context's home slice (R295). ext is its EXT code. -/
def State.postFault (s : State) (c agent : Nat) (cause : Cause) (tval epc ext extData : Nat) : State :=
  { s with
    faults := s.faults ++ [{ cause := cause, tval := tval, epc := epc, cycle := s.cycle (clusterOf c), pcore := c
                             agent := agent, ext := ext, res := cause.resumable, ctx := (s.core c).tk.ctx
                             extData := extData }] }

/-- Whether a task state belongs to an item of a launch. -/
def Core.isTask (k : Core) (launch item : Nat) : Bool := k.task.isSome && k.tk.launch == launch && k.tk.item == item

/-- The core number of a translation request whose access is gone, and those under which the walkers and Porter make accesses, with the launch's and the interface's number for the agent's (log 44). -/
abbrev noCore : Nat := 2 ^ 16
/-- The walkers. -/
abbrev walkerCore : Nat := 2 ^ 15
/-- Porter. -/
abbrev porterCore : Nat := 2 ^ 15 + 1

/-- Accesses that mine chooses are given up: their translation requests are forgotten, but for page requests that the host still has to answer (04 R72). -/
def dropAts (mine : AtsReq → Bool) (l : List AtsReq) : List AtsReq :=
  (l.filter (fun r => !mine r || r.st == 2)).map (fun r => if mine r then { r with core := noCore } else r)

/-- Whether a translation request is that of an agent of the task that a core runs. -/
def State.asks (s : State) (c agent : Nat) (r : AtsReq) : Bool :=
  r.core == c && r.agent == agent && r.launch == (s.core c).tk.launch && r.item == (s.core c).tk.item

/-- The item of a core ends (05 R90): its stores are released at device scope, its contexts issue nothing further, its sampler programs stop and no reply of it enters q7 (09 R203). The walker takes note later. -/
def State.endItem (s : State) (c : Nat) (fault : Bool) : State :=
  let s := (s.drainCore c).publish c 3 (fun _ _ => true)
  let s := { s with
    itemKnow := joinKnow s.itemKnow (s.phys c).know
    seqs := s.seqs.mapVals {} (fun _ q =>
      if q.core = c && q.st == 1 && q.launch == (s.core c).tk.launch && q.item == (s.core c).tk.item then
        { q with st := 0, reply := none, emptyAt := none }
      else q)
    peerReqs := s.peerReqs.filter (·.core != c)
    requests := s.requests.filter (fun r => !(r.core == c && (s.core c).isTask r.launch r.item))
    atsReqs := dropAts (fun r => r.core == c && (s.core c).isTask r.launch r.item) s.atsReqs
    oldLeaves := s.oldLeaves.filter (·.core != c), oldAtc := s.oldAtc.filter (·.core != c) }
  s.updCore c (fun k =>
    { k with
      phase := .ended fault
      cx := k.cx.mapVals {} (fun _ q => { q with live := false, wait := .none, window := none })
      chan := if fault then [] else k.chan
      deliveries := [], engineTraps := [], copyTraps := [], follow := [], followGo := false })

/-- Whether a trap of context x ends the item: host reset, no handler, or a trap in the handler's context (R294, step 4). -/
def Core.trapEnds (k : Core) (x : Nat) (cause : Cause) : Bool :=
  cause == .hostReset || k.tvec == 0 || k.hndst == 1 + 2 * x

/-- A trap with a cause that the kernel does not resolve (R294, steps 4 and 5): the item ends, or the trap waits for delivery. A trap that the kernel has had keeps the place of its occurrence. -/
def State.handleTrap (s : State) (c x : Nat) (cause : Cause) (tval epc : Nat) : State :=
  if (s.core c).trapEnds x cause then s.endItem c true
  else s.updCore c (fun k =>
    { k with
      deliveries :=
        if k.deliveries.any (fun d => d.x == x && !d.ready) then k.deliveries.map (fun d => if d.x = x then { d with ready := true } else d)
        else k.deliveries ++ [{ x := x, cause := cause, tval := tval, epc := epc }]
      cx := k.cx.upd {} x (fun q => { q with wait := .delivery }) })

/-- Forgets the peer requests of an agent that its access no longer needs. -/
def State.dropPeers (s : State) (c agent : Nat) : State :=
  { s with
    peerReqs := s.peerReqs.filter (fun r => !(r.core == c && r.agent == agent))
    oldLeaves := s.oldLeaves.filter (fun r => !(r.core == c && r.agent == agent))
    oldAtc := s.oldAtc.filter (fun r => !(r.core == c && r.agent == agent)) }

/-- Whether a request changes memory or a counter. -/
def PeerReq.acts (r : PeerReq) : Bool := r.cmd.op != 1

/-- Whether an agent has sent a peer request that changes something: its access then goes on until it is complete (13 R263; 05 R95). -/
def State.midAccess (s : State) (c agent : Nat) : Bool := s.peerReqs.any (fun r => r.core == c && r.agent == agent && r.acts)

/-- An agent's access is complete or given up: it needs none of the requests that it has out (04 R72). -/
def State.dropReqs (s : State) (c agent : Nat) : State :=
  { (s.dropPeers c agent) with atsReqs := dropAts (s.asks c agent) s.atsReqs }

/-- An agent's access has stopped on a cause: one that the kernel may still resolve keeps its translation requests (04 R72, R75). -/
def State.stopReqs (s : State) (c agent : Nat) (cause : Cause) : State :=
  if cause.resumable then s.dropPeers c agent else s.dropReqs c agent

/-- A context traps (R294): the record goes to the home slice; a resumable cause waits for the kernel and keeps its place among the deliveries; else the trap is handled at once. Windows of an item that ends are aborted before the record is posted (10 R214). va is the address that failed. -/
def State.raiseAt (s : State) (c x : Nat) (cause : Cause) (tval epc va : Nat) : State :=
  let s := (s.stopReqs c x cause).noteFault c cause va
  let s := s.updCx c x (fun q => { q with
    stalled := false, emptyAt := none, logWait := false, held := none, takes := [], slot := q.slot && cause == .hostNotPresent })
  if cause.resumable then
    (s.postFault c x cause tval epc 0 0).updCore c (fun k =>
      { k with
        deliveries := k.deliveries ++ [{ ready := false, x := x, cause := cause, tval := tval, epc := epc }]
        cx := k.cx.upd {} x (fun q => { q with wait := .fault cause tval epc va }) })
  else
    let s := if (s.core c).trapEnds x cause then s.abortWindows c else s
    (s.postFault c x cause tval epc 0 0).handleTrap c x cause tval epc

/-- A context traps with a TVAL that is the address that failed, or no address. -/
def State.raiseTrap (s : State) (c x : Nat) (cause : Cause) (tval epc : Nat) : State := s.raiseAt c x cause tval epc tval

/-- A context traps with a cause whose resumption the kernel has already refused (04 R75): the same, but the trap is handled at once. -/
def State.raiseRefused (s : State) (c x : Nat) (cause : Cause) (tval epc : Nat) : State :=
  let s := (s.dropReqs c x).updCx c x (fun q => { q with
    stalled := false, emptyAt := none, logWait := false, held := none, takes := [], slot := false })
  let s := if (s.core c).trapEnds x cause then s.abortWindows c else s
  (s.postFault c x cause tval epc 0 0).handleTrap c x cause tval epc

/-- The kernel has resolved the fault of a context, which makes its access again (R294, step 3). -/
def Core.resumeCx (k : Core) (x : Nat) : Core :=
  { k with
    deliveries := k.deliveries.filter (fun d => !(d.x == x && !d.ready))
    cx := k.cx.upd {} x (fun q => { q with wait := .none }) }

/-- A trap that another unit raises in the main context is taken at its next boundary; after done, the item ends with it (R297). -/
def State.mainTrap (s : State) (c : Nat) (cause : Cause) (tval : Nat) : State :=
  if (s.cx c 0).live then s.updCore c (fun k => { k with copyTraps := k.copyTraps ++ [(0, cause, tval)] })
  else ((s.abortWindows c).postFault c 0 cause tval 0 0 0).endItem c true

/-- Delivery of the waiting trap that occurred first (R294, step 5), once no handler runs: TCAUSE, TVAL and EPC are set, the pending transfer and RPC are set aside, HNDST names the context and it continues at TVEC. -/
def Core.deliver (k : Core) : Core :=
  match k.deliveries.find? (·.ready) with
  | none => k
  | some d =>
    if k.hndst % 2 = 1 then k
    else
      let cx := k.cx.get {} d.x
      { k with
        deliveries := k.deliveries.erase d
        tcause := d.cause.code, tval := w64 d.tval, epc := w64 d.epc
        hndst := 1 + 2 * d.x
        aside := some (cx.pend, cx.rep)
        cx := k.cx.put {} d.x { cx with pend := none, rep := .none, pc := k.tvec, wait := .none } }

/-- The handler's context has ended: no handler runs (10 R217, R219). -/
def Core.endHandler (k : Core) (x : Nat) : Core := if k.hndst = 1 + 2 * x then { k with hndst := 0, aside := none } else k

/-- Return from a trap (R292): the pending transfer and RPC come back, HNDST clears and the context resumes at EPC. A further trap of the context that waits for delivery then reports that EPC. -/
def Core.returnFromTrap (k : Core) (x : Nat) : Core :=
  let (p, r) := k.aside.getD (none, .none)
  { k with
    hndst := 0, aside := none
    cx := k.cx.upd {} x (fun q => { q with pend := p, rep := r, pc := k.epc }) }

/-! ### Issuing a scalar instruction (13 R263, R272 to R277) -/

/-- How control continues after an instruction. -/
inductive Flow where
  | seq
  /-- A taken transfer without delay words (10 R216). -/
  | jump (t : Nat)
  /-- Passage past an end block, which is no taken transfer (R274). -/
  | passTo (a : Nat)
  /-- The context issues nothing further, or continues elsewhere than after this word. -/
  | stop
  | rep (n : Nat)
  deriving DecidableEq, Repr

/-- A taken transfer: a level whose body does not hold the target disarms (R275). -/
def Ctx.goto (q : Ctx) (t : Nat) : Ctx :=
  { q with pc := w64 t, loops := q.loops.filter (fun l => decide (l.start ≤ t ∧ t < l.fin)) }

/-- The tests at the end of an end block, most recently armed first (R274). -/
def endTests (a : Nat) (lc : Store Nat) : List LoopLv → Option Nat × Store Nat × List LoopLv
  | [] => (none, lc, [])
  | l :: r =>
    if l.fin = a then
      let n := lc.get 0 l.n - 1
      let lc := lc.put 0 l.n n
      if 0 < n then (some l.start, lc, l :: r) else endTests a lc r
    else
      let (t, lc, r) := endTests a lc r
      (t, lc, l :: r)

/-- Continues at the next word in address order, testing the loops that end there. loops holds the most recently armed first. -/
def Ctx.next (q : Ctx) (a : Nat) : Ctx :=
  let (t, lc, ls) := endTests a q.lc q.loops
  { q with pc := w64 (t.getD a), lc := lc, loops := ls }

/-- After an instruction of len bytes at a completes, with the pending transfer as it was before it (R272 to R277). -/
def Ctx.advance (q : Ctx) (was : Option (Option Nat × Nat)) (a len : Nat) (fl : Flow) : Ctx :=
  let q := { q with pfx := none, stalled := false, emptyAt := none, logWait := false, held := none, slot := false, takes := [] }
  match fl with
  | .stop => q
  | .rep n => { q with pc := w64 (a + len), rep := if n = 0 then .skip else .run n }
  | fl =>
    let onward (q : Ctx) : Ctx :=
      match fl with
      | .jump t => q.goto t
      | .passTo t => q.next t
      | _ => q.next (a + len)
    let delay (q : Ctx) : Ctx :=
      match was with
      | none => onward q
      | some (t, k) =>
        if 1 < k then onward { q with pend := some (t, k - 1) }
        else
          match t with
          | some t => { q with pend := none }.goto t
          | none => onward { q with pend := none }
    match q.rep with
    | .run (n + 2) => { q with rep := .run (n + 1) }
    | _ => delay { q with rep := .none }

/-- Which instructions may stand in a delay slot or under a repeat (R273, R277). -/
inductive Kind where
  | plain
  | control
  | lcbwait
  deriving DecidableEq, Repr

/-- The trap that an instruction's place raises: a control instruction in a delay slot, or under a repeat. -/
def placeTrap (kd : Kind) (w : Nat) (q : Ctx) : Option (Cause × Nat) :=
  if q.pend.isSome && kd != .plain then some (.controlInDelay, w)
  else if q.rep != .none && kd == .control then some (.controlValue, w)
  else none

/-- Posts peer commands in one flit, each with its own tag, those that have not been posted (01 R17). A command without a route is refused. A release at system scope passes on what the core knows of (08 R177). -/
def State.postPeer (s : State) (c agent dev : Nat) (all : List (PeerCmd × Nat)) : State :=
  let cmds := all.filter (fun q => !s.peerReqs.any (fun r => r.core == c && r.agent == agent && r.key == q.2))
  if cmds.isEmpty then s
  else
    let tagged := cmds.zipIdx.map (fun p => (({ p.1.1 with tag := (s.nextTag + p.2) % 2 ^ 16 } : PeerCmd), p.1.2))
    let reqs : List PeerReq := tagged.map (fun q =>
      { tag := q.1.tag, core := c, agent := agent, key := q.2, dev := dev, port := s.route.get 0 dev, cmd := q.1 })
    let s := { s with nextTag := s.nextTag + cmds.length }
    let s := if cmds.any (fun q => bitAt q.1.ord 1 && decide (4 ≤ q.1.ord)) then s.tellFar (s.phys c).know else s
    match s.sendCmds dev (tagged.map (·.1)) with
    | some t => { t with peerReqs := t.peerReqs ++ reqs }
    | none => { s with peerReqs := s.peerReqs ++ reqs.map (fun r => { r with res := .err .peerDenied }) }

/-- Posts what a stalled access asks for, once (01 R17; 04 R69, R71). -/
def State.post (s : State) (c agent : Nat) (a : Ask) : State :=
  match a with
  | .peer dev cmds => s.postPeer c agent dev cmds
  | .ats pasid page write =>
    if s.atsReqs.any (fun r => s.asks c agent r && r.pasid == pasid && r.page == page && r.write == write) then s
    else
      { s with atsReqs := s.atsReqs ++ [{ core := c, agent := agent, launch := (s.core c).tk.launch, item := (s.core c).tk.item
                                          pasid := pasid, page := page, write := write }] }
  | .walks ws => { s with walks := ws }

/-- Whether a request changes something, so that the instruction that makes it is to complete (13 R263). -/
def Ask.acts (a : Ask) : Bool :=
  match a with
  | .peer _ cmds => cmds.any (fun q => q.1.op != 1)
  | _ => false

/-- The queues whose oldest entry a request has been made from. -/
def Stop.from (e : Stop) (qs : List Nat) : Stop :=
  match e with
  | .ask a _ => .ask a qs
  | e => e

/-- A context that cannot go on: it stalls with no effect, or traps (R108, R263). EPC is the instruction, or the PFX of a pair. -/
def State.stopCx (s : State) (c x : Nat) (e : Stop) : State :=
  let q := s.cx c x
  let s := s.updCx c x (fun q => { q with pfx := none })
  let stall (f : Ctx → Ctx) : State := s.updCx c x (fun q => f { q with stalled := true, emptyAt := none, logWait := false, held := none })
  match e with
  | .trap cause tval => s.raiseTrap c x cause tval q.pc.toNat
  | .trapAt cause tval va => s.raiseAt c x cause tval q.pc.toNat va
  | .stall => stall id
  | .empty l => stall (fun q => { q with emptyAt := some l, emptyFor := none })
  | .emptyFor l tval => stall (fun q => { q with emptyAt := some l, emptyFor := some tval })
  | .log => stall (fun q => { q with logWait := true })
  | .held h => stall (fun q => { q with held := some h })
  | .ask a qs => (stall (fun q => { q with slot := true, takes := if a.acts then qs else q.takes })).post c x a
  | .retry => (stall id).dropReqs c x

/-- A context whose instruction has not been fetched: the same, but a fetch is no memory request and takes no slot (04 R70). -/
def State.stopFetch (s : State) (c x : Nat) (e : Stop) : State :=
  match e with
  | .ask a _ => (s.stopCx c x .stall).post c x a
  | e => s.stopCx c x e

/-- Runs one scalar instruction of the acting context: the checks on its place, then its body, then the advance of the program counter. -/
def runScalar (kd : Kind) (w : Nat) (body : State → Ex (State × Flow)) (s : State) : Out :=
  let c := s.c
  let x := s.x
  let q := s.cx c x
  let a := q.pc.toNat
  let len := if q.pfx.isSome then 8 else 4
  match placeTrap kd w q with
  | some (cause, tval) => .next (s.stopCx c x (.trap cause tval))
  | none =>
    if q.rep = .skip then .next (s.updCx c x (fun q => { q with rep := .none }.advance q.pend a len .seq))
    else
      match body s with
      | .error e => .next (s.stopCx c x e)
      | .ok (t, fl) =>
        let t := if x = 0 then t.updCore c (·.mxCount 5 1) else t
        .next (t.updCx c x (fun p => p.advance q.pend a len fl))

/-- A scalar instruction over registers: operand checks, then the claims it names, then the queue stalls, then its effect on the values read, then the pops and the write (R263; 12 R259). -/
def withRegs (srcs : List Nat) (dst : Option Nat) (pre : Core → Ex Unit)
    (f : List Nat → State → Ex (State × Option Nat × Flow)) (s : State) : Ex (State × Flow) := do
  let c := s.c
  let x := s.x
  let k := s.core c
  regCheck k srcs dst
  pre k
  await (regReady k x srcs dst)
  let (t, v, fl) ← (f (srcs.map (fun r => (readReg k (s.cx c x) r).toNat)) s).mapError (·.from (queuesOf srcs))
  let t := t.updCore c (fun k => popSrcs k srcs)
  match dst, v with
  | some d, some v => .ok (t.updCore c (fun k => writeReg k x d (w64 v)), fl)
  | _, _ => .ok (t, fl)

/-- ORs flags into FPFLAGS (07 R152, R153). -/
def Core.orFlags (k : Core) (fl : Nat) : Core := { k with fpflags := k.fpflags ||| fl }

end Sys2Proof.Machine
end

