-- ==== Sys2Proof/Machine/Mem.lean ====
section
/-! DEFINITION. Virtual memory: translation (04 R62 to R72), ordinary accesses through the core's view and a window's log (08 R172 to R174, R186; 10 R207, R209), and host and peer memory (01 R15, R17, R21). -/

namespace Sys2Proof.Machine

/-! ### Translation -/

/-- The right an access needs (R68). -/
inductive Need where
  | read | write | both | exec
  deriving DecidableEq, Repr

/-- Bytes of a leaf of each SIZE (R64). -/
def leafBytes (size : Nat) : Nat :=
  match size with
  | 0 => 4096
  | 1 => 65536
  | 2 => 2 ^ 21
  | _ => 2 ^ 30

/-- An entry of a page table (R64). -/
def State.tableEntry (s : State) (frame i : Nat) : Nat := Store.get 0 (s.tables.get [] frame) i

/-- The fields V, TYPE, SIZE and FRAME of an entry (R64). -/
def pteValid (e : Nat) : Bool := bitAt e 0
def pteType (e : Nat) : Nat := bitsOf e 3 2
def pteSize (e : Nat) : Nat := bitsOf e 8 7
def pteFrame (e : Nat) : Nat := bitsOf e 43 12

/-- The index of an address in a table of a level (R63). -/
def levelIndex (level va : Nat) : Nat := va / (4096 * 512 ^ level) % 512

/-- The walk from a table of a level down to the leaf that holds an address (R63 to R65). -/
def State.walkFrom (s : State) (va : Nat) : Nat → Nat → Option Leaf
  | 0, f =>
    let i := levelIndex 0 va
    let e := s.tableEntry f i
    if !pteValid e then none
    else if pteSize e = 1 then some { va := va / 65536 * 65536, size := 1, pte := s.tableEntry f (i / 16 * 16) }
    else some { va := va / 4096 * 4096, size := 0, pte := e }
  | l + 1, f =>
    let e := s.tableEntry f (levelIndex (l + 1) va)
    if !pteValid e then none
    else if pteType e = 0 then s.walkFrom va l (pteFrame e)
    else some { va := va / leafBytes (pteSize e) * leafBytes (pteSize e), size := pteSize e, pte := e }

/-- The leaf of a context that holds an address. -/
def State.leafAt (s : State) (ctx va : Nat) : Option Leaf := if (s.ctx ctx).live then s.walkFrom va 3 (s.ctx ctx).root else none

/-- Who makes an access: core and agent, and the context whose address space it is in. The walkers and Porter number themselves above the cores (log 44). -/
structure Party where
  core : Nat
  agent : Nat
  ctx : Nat
  deriving DecidableEq, Repr

/-- The acting agent of the task on a core. -/
def State.party (s : State) (c : Nat) : Party := { core := c, agent := s.actor, ctx := (s.core c).tk.ctx }

/-- The context in whose address space a core's or a walker's agent makes its accesses. -/
def State.ctxOf (s : State) (c agent : Nat) : Nat :=
  if c = walkerCore then ((s.launches.find? (·.id == agent)).map (·.ctx)).getD 0 else (s.core c).tk.ctx

/-- The interface whose peer windows an agent uses. -/
def State.viOfAgent (s : State) (c agent : Nat) : Nat := if c = porterCore then agent else (s.ctx (s.ctxOf c agent)).vi

/-- The leaf through which an access of a party goes: one that has been removed while it was under way, or the one in the table (R74). -/
def State.leafFor (s : State) (p : Party) (va : Nat) : Option Leaf :=
  match s.oldLeaves.find? (fun o => o.core == p.core && o.agent == p.agent && decide (o.leaf.va ≤ va ∧ va < o.leaf.va + leafBytes o.leaf.size)) with
  | some o => some o.leaf
  | none => s.leafAt p.ctx va

/-- The leaves under a table of a level whose range begins at an address. -/
def State.leavesUnder (s : State) : Nat → Nat → Nat → List Leaf
  | 0, f, va => (s.tables.get [] f).filterMap (fun q =>
      if !pteValid q.2 || (pteSize q.2 == 1 && q.1 % 16 != 0) then none
      else some { va := va + 4096 * q.1, size := pteSize q.2, pte := q.2 })
  | l + 1, f, va => (s.tables.get [] f).flatMap (fun q =>
      let a := va + 4096 * 512 ^ (l + 1) * q.1
      if !pteValid q.2 then [] else if pteType q.2 = 0 then s.leavesUnder l (pteFrame q.2) a
      else [{ va := a, size := pteSize q.2, pte := q.2 }])

/-- Every leaf of a context. -/
def State.leaves (s : State) (ctx : Nat) : List Leaf := if (s.ctx ctx).live then s.leavesUnder 3 (s.ctx ctx).root 0 else []

/-- Whether an entry gives the right (R64, R68). -/
def grants (pte : Nat) : Need → Bool
  | .read => bitAt pte 4
  | .write => bitAt pte 5
  | .both => bitAt pte 4 && bitAt pte 5
  | .exec => bitAt pte 6 && bitsOf pte 3 2 == 1

/-- The frame of a window's page at an address: the per-task mapping stands ahead of the page table (10 R210). -/
def Core.windowPage (k : Core) (va : Nat) : Option Nat :=
  k.liveWins.findSome? (fun n =>
    let w := k.window n
    (w.pages.find? (fun p => decide (w.allocVa + 65536 * p.1 ≤ va ∧ va < w.allocVa + 65536 * (p.1 + 1)))).map
      (fun p => p.2.1 * 65536 + (va - (w.allocVa + 65536 * p.1))))

/-- Whether a window descriptor admits an access (01 R21): bit 0 of RIGHTS for reads, bit 1 for writes and atomics. -/
def peerOk (d off : Nat) (n : Need) : Bool :=
  bitAt d 26 && decide (off < bitsOf d 127 96 * 4096) &&
    (match n with
     | .read => bitAt d 24
     | .exec => bitAt d 24
     | .write => bitAt d 25
     | .both => bitAt d 25)

/-! ### Host memory (04 R71, R72) -/

/-- Whether a translation of the ATC grants an access of a PASID to an address. -/
def Tlb.lets (e : Tlb) (pasid va : Nat) (write : Bool) : Bool :=
  e.id == pasid && decide (e.va ≤ va ∧ va < e.va + e.size) && bitAt e.ent (if write then 1 else 0)

/-- The translation that grants an access of a party: one that has left the ATC while the access was under way, or one in the ATC (R69, R71, R73). -/
def State.atcEntry (s : State) (p : Party) (va : Nat) (write : Bool) : Option Tlb :=
  let pasid := (s.ctx p.ctx).pasid
  match s.oldAtc.find? (fun o => o.core == p.core && o.agent == p.agent && o.ent.lets pasid va write) with
  | some o => some o.ent
  | none => s.atc.find? (fun e => e.lets pasid va write)

/-- The host address to which the ATC translates an access that it grants (R71; log 5). -/
def State.hostAddr (s : State) (p : Party) (va : Nat) (write : Bool) : Nat :=
  ((s.atcEntry p va write).map (fun e => e.ent / 4096 * 4096 + (va - e.va))).getD va

/-- The host translation of a page for an access: granted, asked for, denied or unavailable (R71, R72). An access that has sent a command to a peer goes on whatever the host has since disabled (R76). -/
def State.hostReady (s : State) (p : Party) (va : Nat) (write : Bool) : Ex Unit :=
  let r := s.ctx p.ctx
  let page := va / 4096 * 4096
  if (s.vi r.vi).atsOff && !s.midAccess p.core p.agent then .error (.trap .hostUnavailable va)
  else if (s.atcEntry p va write).isSome then .ok ()
  else
    match s.atsReqs.find? (fun q => s.asks p.core p.agent q && q.pasid == r.pasid && q.page == page && q.write == write) with
    | none => .error (.ask (.ats r.pasid page write))
    | some q =>
      match q.st with
      | 2 => .error (.trap .hostNotPresent va)
      | 3 => .error (.trap .hostUnavailable va)
      | 5 => .error (.trap .hostNotPresent va)
      | _ => .error .stall

/-- The host's leave for what an access needs: an atomic needs the translation for write and that for read (R68, R71; log 5). -/
def State.hostNeeds (s : State) (p : Party) (va : Nat) (n : Need) : Ex Unit :=
  match n with
  | .write => s.hostReady p va true
  | .both => do
    s.hostReady p va true
    s.hostReady p va false
  | _ => s.hostReady p va false

/-- What a need of a page of the host's translation cache is looked up by. -/
def Need.writes : Need → Bool
  | .write => true
  | .both => true
  | _ => false

/-- The target that a leaf gives an access of a context (R67, R68); an address of host memory is still the virtual one. -/
def State.leafTarget (s : State) (ctx va : Nat) (n : Need) (leaf : Option Leaf) : Ex (Target × Option Leaf) :=
  match leaf with
  | none => .error (.trap .notMapped va)
  | some l =>
    let off := va - l.va
    if !grants l.pte n then .error (.trap .permission va)
    else
      match pteType l.pte with
      | 1 =>
        let pa := pteFrame l.pte * 4096 + off
        if (sliceOfPa pa).isSome then .ok (.dev pa, some l) else .error (.trap .noMemory va)
      | 2 =>
        let win := bitsOf l.pte 17 12
        let woff := bitsOf l.pte 51 20 * 4096 + off
        if peerOk ((s.vi (s.ctx ctx).vi).peers.get 0 win) woff n then .ok (.peer win woff, some l)
        else .error (.trap .peerDenied va)
      | _ => .ok (.host va, some l)

/-- An access to host memory goes to the address that the host's translation gives it; nothing else is changed (R71). -/
def State.reach (s : State) (p : Party) (n : Need) (t : Target) : Ex Target :=
  match t with
  | .host va => do
    s.hostNeeds p va n
    .ok (.host (s.hostAddr p va n.writes))
  | t => .ok t

/-- Where an address of a core's task lies by the page table (R62 to R68), before the host is asked for anything. -/
def locate (s : State) (c va : Nat) (n : Need) : Ex (Target × Option Leaf) :=
  let k := s.core c
  if 2 ^ 48 ≤ va then .error (.trap .notMapped va)
  else
    match k.windowPage va with
    | some pa => if n = .exec then .error (.trap .permission va) else .ok (.dev pa, none)
    | none => s.leafTarget k.tk.ctx va n (s.leafFor (s.party c) va)

/-- Translates one address of a core's task (R62 to R68, R71, R75): an access to host memory has its host translation before any effect. -/
def translate (s : State) (c va : Nat) (n : Need) : Ex (Target × Option Leaf) := do
  let (t, l) ← locate s c va n
  .ok (← s.reach (s.party c) n t, l)

/-- Where an access of a party outside the cores goes (R62 to R68, R71). -/
def State.partyTarget (s : State) (p : Party) (va : Nat) (n : Need) : Ex Target := do
  need (decide (va < 2 ^ 48)) .notMapped va
  let (t, _) ← s.leafTarget p.ctx va n (s.leafFor p va)
  s.reach p n t

/-- An atomic that host memory does not take traps before anything is sent (01 R15; 13 R281). -/
def noHostAtomic (s : State) (c va ea : Nat) (n : Need) : Ex Unit := do
  match (← locate s c va n).1 with
  | .host _ => .error (.trap .atomicUnsupported ea)
  | _ => .ok ()

/-- Whether a translation cache holds a leaf of a context (R69). -/
def tlbHit (t : List Tlb) (ctx : Nat) (l : Leaf) : Bool := t.any (fun e => e.id == ctx && e.va == l.va)

/-- The virtual bases of the leaves that the word which an engine runs has had walked (R77). -/
def Core.walkedBy (k : Core) (agent : Nat) : List Nat := if agent = 3 then k.row.walked else if agent = 4 then k.mat.walked else []

/-- Uses a leaf through a translation cache: a miss sends a walk, of which a core has at most 16 outstanding, and a further one waits with those sent under way (R69). A word that waited goes on with the leaves that it has had walked (R77). cache is 0 instruction, 1 data, 2 copy. -/
def useLeaf (c cache : Nat) (l : Option Leaf) (s : State) : Ex State :=
  match l with
  | none => .ok s
  | some l =>
    let ctx := (s.core c).tk.ctx
    let t := match cache with
      | 0 => (s.phys c).itlb
      | 1 => (s.phys c).dtlb
      | _ => s.ctlb.get [] (c / 4)
    if tlbHit t ctx l || ((s.core c).walkedBy s.actor).contains l.va || s.walks.any (fun w => w.core == c && w.cache == cache && w.ctx == ctx && w.leaf.va == l.va) then .ok s
    else if 16 ≤ (s.walks.filter (·.core == c)).length then .error (.ask (.walks s.walks))
    else .ok { s with walks := s.walks ++ [{ core := c, cache := cache, ctx := ctx, leaf := l }] }

/-- An access split where it crosses a 4 KiB boundary, each piece translated before any effect (13 R264): target, virtual address, bytes. -/
def pieces (c cache va : Nat) (need : Need) : Nat → Nat → State → Ex (List (Target × Nat × Nat) × State)
  | 0, _, s => .ok ([], s)
  | fuel + 1, n, s =>
    if n = 0 then .ok ([], s)
    else do
      let m := min n (4096 - va % 4096)
      let (t, l) ← translate s c va need
      let s ← useLeaf c cache l s
      let (r, s) ← pieces c cache (va + m) need fuel (n - m) s
      .ok ((t, va, m) :: r, s)

/-! ### Speculative stores (10 R207, R209) -/

/-- The newest speculative byte of a window at an address, from steps 0 to i (08 R186). -/
def specByte (w : Window) (i pa : Nat) (b : Byte) : Byte :=
  match w.dlog.find? (fun e => e.2.1 == pa && decide (e.1 ≤ i)) with
  | some e => e.2.2
  | none => b

/-- Whether a window holds a speculative store to a byte, from steps 0 to i. -/
def specHas (w : Window) (i pa : Nat) : Bool := w.dlog.any (fun e => e.2.1 == pa && decide (e.1 ≤ i))

/-- Bytes with a window's speculative stores over them. -/
def specOver (k : Core) (tag : Option (Nat × Nat)) (pa : Nat) (bs : List Byte) : List Byte :=
  match tag with
  | none => bs
  | some (n, i) => (bs.zip (List.range' pa bs.length)).map (fun p => specByte (k.window n) i p.2 p.1)

/-- The tasks of a core: the one it holds and those saved (10 R215). -/
def Phys.tasks (p : Phys) : List Core := p.k :: p.saved.filterMap (·.2)

/-- Lines of store log in use in a slice, of resident and saved tasks (10 R207, R209, R215). -/
def State.sliceLog (s : State) (sl : Nat) : Nat :=
  (s.cores.flatMap (·.2.tasks)).foldl (fun t k =>
    (k.win.map (·.2)).foldl (fun t (w : Window) =>
      t + ((w.dlog.filter (fun e => sliceOfPa e.2.1 = some sl)).map (fun e => (e.1, e.2.1 / 128))).dedup.length
        + (if homeSlice k.tk.ctx = sl then w.rlog.length else 0)) t) 0

/-- A speculative store of window n (10 R207, R209): held in the log, at most 2 048 lines a window and 4 MiB a slice. -/
def State.specStore (s : State) (c n pa : Nat) (bs : List Byte) : Ex State := do
  let w := (s.core c).window n
  let new := (linesOf pa bs.length).filter (fun l => !w.stored l)
  need (decide (w.lines + new.length ≤ 2048)) .windowLimit n
  match sliceOfPa pa with
  | some sl => if s.sliceLog sl + new.length ≤ 32768 then pure () else throw .log
  | none => pure ()
  .ok (s.updCore c (fun k => k.updWin n (fun w =>
    { w with
      lines := w.lines + new.length
      dlog := ((List.range' pa bs.length).zip bs).reverse.map (fun p => (w.step, p.1, p.2)) ++ w.dlog })))

/-! ### Peer memory (01 R17, R21) -/

/-- A response that an agent's request has received; none before it is sent or answered. -/
def State.peerFind (s : State) (c agent key : Nat) : Option PeerReq :=
  s.peerReqs.find? (fun r => r.core == c && r.agent == agent && r.key == key)

/-- The data of a response, or why there is none. -/
def PeerReq.value (r : PeerReq) (va : Nat) : Ex Nat :=
  match r.res with
  | .open => .error .stall
  | .data x => .ok x
  | .err cause => .error (.trap cause va)

/-- The answer to a command, which is sent where it has not been. -/
def State.peerAnswer (s : State) (c agent key dev : Nat) (cmd : PeerCmd) (va : Nat) : Ex Nat :=
  match s.peerFind c agent key with
  | none => .error (.ask (.peer dev [(cmd, key)]))
  | some r => r.value va

/-- The descriptor of a window of an agent's interface. -/
def State.peerWin (s : State) (c agent win : Nat) : Nat := (s.vi (s.viOfAgent c agent)).peers.get 0 win

/-- ORD of a command: acquire, release, and the scope, of which R17 has device and system. -/
def ordOf (scope : Nat) (acq rel : Bool) : Nat := acq.toNat + 2 * rel.toNat + (if scope = 4 then 4 else 0)

/-- The command to a window at an offset. -/
def peerCmd (d op off len fn data ord : Nat) : PeerCmd :=
  { op := op, ctx := bitsOf d 23 12, paddr := bitsOf d 95 64 * 4096 + off, len := len, fn := fn, data := data, ord := ord }

/-- The key of an agent's request for an address of a window. -/
def peerKey (win off : Nat) : Nat := win * 2 ^ 48 + off

/-- n bytes of peer memory within one 128-byte line, read as whole 8-byte words (R17). -/
def State.peerReadLine (s : State) (c agent win off n va ord : Nat) : Ex (List Byte) := do
  let d := s.peerWin c agent win
  let a := off / 8 * 8
  let len := (off + n + 7) / 8 * 8 - a
  let x ← s.peerAnswer c agent (8 * (peerKey win a * 256 + len)) (bitsOf d 11 0) (peerCmd d 1 a len 0 0 ord) va
  .ok ((toBytes len x).drop (off - a) |>.take n)

/-- The answers to commands of one flit, which are sent where they have not been (R17). -/
def State.peerTogether (s : State) (c agent dev va : Nat) (cmds : List (PeerCmd × Nat)) : Ex (List Nat) :=
  if cmds.any (fun q => (s.peerFind c agent q.2).isNone) then .error (.ask (.peer dev cmds))
  else cmds.mapM (fun q => s.peerAnswer c agent q.2 dev q.1 va)

/-- What words of peer memory hold, by atomic adds of 0, which need no more than the right to write (R17, R21; log 16). -/
def State.peerProbes (s : State) (c agent win va : Nat) (offs : List Nat) : Ex (List Nat) :=
  let d := s.peerWin c agent win
  s.peerTogether c agent (bitsOf d 11 0) va (offs.map (fun o => (peerCmd d 3 o 8 1 0 0, 8 * peerKey win o + 3)))

/-- The 16 bytes of an object's header in peer memory (07 R163). -/
def State.peerHeader (s : State) (c agent win off va : Nat) : Ex Nat := do
  let l ← s.peerProbes c agent win va [off, off + 8]
  .ok (l.getD 0 0 + l.getD 1 0 * 2 ^ 64)

/-- Bytes of peer memory read by commands of one flit, as the read of a whole object is (13 R281; 07 R165). -/
def State.peerReadAll (s : State) (c agent win off n va ord : Nat) : Ex (List Byte) := do
  let d := s.peerWin c agent win
  let parts := (List.range ((n + 127) / 128)).map (fun i => (off + 128 * i, min 128 (n - 128 * i)))
  let xs ← s.peerTogether c agent (bitsOf d 11 0) va (parts.map (fun p => (peerCmd d 1 p.1 p.2 0 0 ord, 8 * peerKey win p.1 + 4)))
  .ok ((parts.zip xs).flatMap (fun p => toBytes p.1.2 p.2))

/-- Numbers an access's commands of one kind to one place, which may be several, each to be performed. -/
def nthKey (base n : Nat) : Nat := base + n * 2 ^ 200

/-- How many commands of a kind to a place the access has passed in this move. -/
def State.peerUsed (s : State) (c agent base : Nat) : Nat :=
  (s.peerReqs.filter (fun r => r.core == c && r.agent == agent && r.used && r.key % 2 ^ 200 == base)).length

/-- The access has passed commands, whose answers it has used. -/
def State.peerPass (s : State) (c agent : Nat) (keys : List Nat) : State :=
  { s with peerReqs := s.peerReqs.map (fun r => if r.core == c && r.agent == agent && keys.contains r.key then { r with used := true } else r) }

/-- A part of an 8-byte word of peer memory that is being written: the word's offset, the part's place and bytes, what the word is expected to hold, and the number of the attempt. -/
structure Swap where
  a : Nat
  off : Nat
  bs : List Byte
  old : Nat := 0
  n : Nat := 0
  deriving DecidableEq, Repr

/-- The place of a swap's commands among those of its access. -/
def Swap.base (w : Swap) (win : Nat) : Nat := 8 * (8 * peerKey win w.a + w.off) + 1

/-- The compare-and-swap of a swap's attempt, with its key. -/
def Swap.cmd (w : Swap) (d win ord : Nat) : PeerCmd × Nat :=
  (peerCmd d 3 w.a 8 5 (ofBytes (overlay (toBytes 8 w.old) w.off w.bs) + w.old * 2 ^ 64) ord, nthKey (w.base win) w.n)

/-- Parts of 8-byte words of peer memory are written, by one flit a round: a compare-and-swap of each word, made again with what the word held until that is what it expects (log 16). -/
def State.peerSwaps (c agent win va ord : Nat) : Nat → List Swap → State → Ex State
  | 0, _, _ => .error .stall
  | fuel + 1, ws, s =>
    if ws.isEmpty then .ok s
    else do
      let d := s.peerWin c agent win
      let cmds := ws.map (fun w => w.cmd d win ord)
      let xs ← s.peerTogether c agent (bitsOf d 11 0) va cmds
      let left := (ws.zip xs).filter (fun p => p.1.old != p.2)
      State.peerSwaps c agent win va ord fuel (left.map (fun p => { p.1 with old := p.2, n := p.1.n + 1 })) (s.peerPass c agent (cmds.map (·.2)))

/-- A run of whole 8-byte words of one 128-byte line of peer memory is written. -/
def State.peerWriteRun (s : State) (c agent win off va ord : Nat) (bs : List Byte) : Ex State := do
  let d := s.peerWin c agent win
  let base := 8 * peerKey win off + 2
  let key := nthKey base (s.peerUsed c agent base)
  let _ ← s.peerAnswer c agent key (bitsOf d 11 0) (peerCmd d 2 off bs.length 0 (ofBytes bs) ord) va
  .ok (s.peerPass c agent [key])

/-- Splits a range at 128-byte boundaries: offset and bytes of each part. -/
def lineParts (a : Nat) : Nat → Nat → List (Nat × Nat)
  | 0, _ => []
  | fuel + 1, n =>
    if n = 0 then []
    else
      let m := min n (128 - a % 128)
      (a, m) :: lineParts (a + m) fuel (n - m)

/-- Writes bytes of peer memory: the words that they fill in part by atomics of one flit, then those that they fill, line by line (R17; log 16). -/
def State.peerWriteAt (s : State) (c agent win off va ord : Nat) (bs : List Byte) : Ex State := do
  let parts := (wordsOf 0 off bs).filter (fun q => q.2.2.length != 8)
  let swaps : List Swap := parts.map (fun q =>
    let w : Swap := { a := 8 * q.1, off := q.2.1, bs := q.2.2 }
    { w with n := s.peerUsed c agent (w.base win) })
  let s ← State.peerSwaps c agent win va ord (s.peerReqs.length + 2) swaps s
  let lo := (off + 7) / 8 * 8
  let n := (off + bs.length) / 8 * 8 - lo
  (lineParts lo n n).foldlM (fun (s : State) q => s.peerWriteRun c agent win q.1 (va + (q.1 - off)) ord ((bs.drop (q.1 - off)).take q.2)) s

/-! ### Ordinary accesses -/

/-- Whether an ordinary read of n bytes meets poison, of which the bytes that its window has stored have none (08 R186). -/
def State.readPoison (s : State) (c : Nat) (tag : Option (Nat × Nat)) (pa n : Nat) : Bool :=
  s.devPoison c pa n && (match tag with
    | none => true
    | some (w, i) => (List.range' pa n).any (fun b => s.devPoison c b 1 && !specHas ((s.core c).window w) i b))

/-- One piece of an ordinary read. -/
def State.readPiece (s : State) (c agent : Nat) (tag : Option (Nat × Nat)) (p : Target × Nat × Nat) : Ex (List Byte × State) :=
  let (t, va, n) := p
  match t with
  | .dev pa =>
    if s.readPoison c tag pa n then .error (.trap .poison va)
    else
      let (b, s) := s.viewRead c 0 pa n
      .ok (specOver (s.core c) tag pa b, s)
  | .host ha => .ok (s.viewRead c hostWords ha n)
  | .peer win off => do
    let bs ← (lineParts off n n).foldlM (fun (acc : List Byte) q => do
      let b ← s.peerReadLine c agent win q.1 q.2 (va + (q.1 - off)) 0
      .ok (acc ++ b)) []
    .ok (bs, s)

/-- The pieces of an ordinary read, in order. -/
def readPieces (c agent : Nat) (tag : Option (Nat × Nat)) (ps : List (Target × Nat × Nat)) (s : State) : Ex (List Byte × State) :=
  ps.foldlM (fun (acc : List Byte × State) p => do
    let (b, s) ← acc.2.readPiece c agent tag p
    .ok (acc.1 ++ b, s)) ([], s)

/-- An ordinary read of n bytes of virtual memory. -/
def vread (c cache agent : Nat) (tag : Option (Nat × Nat)) (va n : Nat) (s : State) : Ex (List Byte × State) := do
  let (ps, s) ← pieces c cache va .read (n / 4096 + 2) n s
  readPieces c agent tag ps s

/-- One piece of an ordinary write. In a window a device store is speculative and any other traps (10 R207). -/
def State.writePiece (s : State) (c agent : Nat) (tag : Option (Nat × Nat)) (p : Target × Nat × Nat) (bs : List Byte) : Ex State :=
  let (t, va, _) := p
  match t with
  | .dev pa =>
    match tag with
    | some (n, _) => s.specStore c n pa bs
    | none => .ok (s.ordWrite c agent 0 pa bs)
  | .host ha => do
    need tag.isNone .remoteInWindow va
    .ok (s.ordWrite c agent hostWords ha bs)
  | .peer win off => do
    need tag.isNone .remoteInWindow va
    s.peerWriteAt c agent win off va 0 bs

/-- The writes to peer memory of an access that has more than one part: each page grants them before the first is sent, so that a refused one has performed nothing (04 R76; 08 R184; log 16). -/
def State.peersGrant (s : State) (c agent : Nat) (ps : List (Target × Nat × Nat)) : Ex Unit :=
  if ps.length < 2 then .ok ()
  else ps.forM (fun p =>
    match p.1 with
    | .peer win off => do
      let _ ← s.peerProbes c agent win p.2.1 [off / 8 * 8]
      .ok ()
    | _ => .ok ())

/-- In an open step a store goes to device memory alone: one with any other part traps before anything is sent (10 R207; 13 R278). -/
def windowLocal (c : Nat) (tag : Option (Nat × Nat)) (s : State) : Nat → Nat → Nat → Ex Unit
  | 0, _, _ => .ok ()
  | fuel + 1, va, n =>
    if n = 0 ∨ tag.isNone then .ok ()
    else do
      let m := min n (4096 - va % 4096)
      match (← locate s c va .write).1 with
      | .dev _ => windowLocal c tag s fuel (va + m) (n - m)
      | _ => .error (.trap .remoteInWindow va)

/-- Writes the pieces of an access in order. -/
def writePieces (c agent : Nat) (tag : Option (Nat × Nat)) : List (Target × Nat × Nat) → List Byte → State → Ex State
  | [], _, s => .ok s
  | p :: r, bs, s => do
    let s ← s.writePiece c agent tag p (bs.take p.2.2)
    writePieces c agent tag r (bs.drop p.2.2) s

/-- An ordinary write of bytes to virtual memory: every page is translated before any effect. -/
def vwrite (c cache agent : Nat) (tag : Option (Nat × Nat)) (va : Nat) (bs : List Byte) (s : State) : Ex State := do
  windowLocal c tag s (bs.length / 4096 + 2) va bs.length
  let (ps, s) ← pieces c cache va .write (bs.length / 4096 + 2) bs.length s
  s.peersGrant c agent ps
  writePieces c agent tag ps bs s

/-- Whether a cause reports the effective address of a scalar access (13 R296). -/
def Cause.ofAccess : Cause → Bool
  | .notMapped => true
  | .permission => true
  | .hostNotPresent => true
  | .hostUnavailable => true
  | .noMemory => true
  | .poison => true
  | .peerDenied => true
  | .peerLinkDown => true
  | .remoteInWindow => true
  | _ => false

/-- A scalar access reports its effective address, whichever part of it fails (13 R296). -/
def atEa {α : Type} (ea : Nat) (r : Ex α) : Ex α :=
  match r with
  | .error (.trap c va) => .error (if c.ofAccess then .trapAt c ea va else .trap c va)
  | r => r

end Sys2Proof.Machine
end

