-- ==== Sys2Proof/Machine/Operands.lean ====
section
/-! DEFINITION. Operand forms: immediates with and without a prefix (12 R241), effective addresses (13 R264), and the row operands that a descriptor names (12 R250, R251, R262). -/

namespace Sys2Proof.Machine

/-! ### Immediates -/

/-- HI21 of the prefix of the acting word, where it has one. -/
def hiOf (q : Ctx) : Option Nat := q.pfx.map (·.hi)

/-- A field of w bits, with HI21 above it where the word has a prefix, sign-extended (R241). -/
def immS (q : Ctx) (w f : Nat) : Int :=
  match hiOf q with
  | none => Sys2Proof.sext f w
  | some h => Sys2Proof.sext (h * 2 ^ w + f % 2 ^ w) (w + 21)

/-- A field of 16 bits, with HI21 above it where the word has a prefix, zero-extended (R241). -/
def immZ (q : Ctx) (f : Nat) : Nat := (hiOf q).getD 0 * 2 ^ 16 + f % 2 ^ 16

/-- The immediate of movhi (R241). -/
def immHi (q : Ctx) (f : Nat) : Nat := (((hiOf q).getD 0 % 2 ^ 16) * 2 ^ 16 + f % 2 ^ 16) * 2 ^ 16

/-- The rounding mode of the acting word: PFX RND where RV is 1, else rne (R240). -/
def modeOf (q : Ctx) : Nat := match q.pfx with | some p => if p.rv then p.rnd else 0 | none => 0

/-- Whether the acting word carries .sat (R240). -/
def satOf (q : Ctx) : Bool := match q.pfx with | some p => p.sat | none => false

/-! ### Effective addresses -/

/-- What an effective address names (R264). -/
inductive Place where
  | spad
  | aperture
  | virt
  deriving DecidableEq, Repr

/-- The place of an access of n bytes: scratchpad beyond the SPAD claim and addresses past the aperture trap (R264). -/
def placeOf (k : Core) (ea n : Nat) : Ex Place :=
  if 2 ^ 20 ≤ ea then .ok .virt
  else if ea < 0x80000 then if ea + n ≤ k.spadLimit then .ok .spad else .error (.trap .unclaimed ea)
  else if ea < 0x82000 then .ok .aperture
  else .error (.trap .controlValue ea)

/-- Whether a context's store of n bytes touches the slot of a word that is released or held and not yet dequeued; the slot of a halted ring's word RD is free (06 R111; 13 R290). -/
def slotBusy (r : Ring) (slot held a n : Nat) : Bool :=
  (List.range (r.rel + held - r.rd)).any (fun i =>
    let b := r.base + slot * ((r.rd + i) % r.size)
    decide (a < b + slot ∧ b < a + n) && !(r.halted && i == 0))

/-- Words of a ring held in the banks (R110). -/
def Ring.inBanks (r : Ring) : Nat := r.bankA.length + r.bankB.length

/-- Whether the logs have room for writes to scratchpad lines: 2 048 lines a window, else "window limit", and 4 MiB in the home slice, else a wait (10 R209). own is the window whose bitstream lines they are, if any (09 R196). -/
def State.logRoom (s : State) (c : Nat) (own : Option Nat) (lines : List Nat) : Ex Unit := do
  let k := s.core c
  let want (n : Nat) : Nat := k.logNeed n (own == some n) lines
  for n in k.liveWins do
    need (decide ((k.window n).lines + want n ≤ 2048)) .windowLimit n
  let total := (k.liveWins.map want).sum
  if total ≠ 0 ∧ 32768 < s.sliceLog (homeSlice k.tk.ctx) + total then throw .log

/-- A context's store to scratchpad (06 R111; 10 R209): busy slots and a full window log stop it. -/
def scalarSpadStore (s : State) (c a : Nat) (bs : List Byte) : Ex State := do
  let k := s.core c
  need (!slotBusy k.row 12 k.row.inBanks a bs.length && !slotBusy k.mat 24 k.mat.inBanks a bs.length) .resourceBusy a
  s.logRoom c none (linesOf a bs.length)
  .ok (s.updCore c (·.spadWrite a bs))

end Sys2Proof.Machine
end

