-- ==== Sys2Proof/Machine/Flags.lean ====
section
/-! DEFINITION. Results and the flags that come with them: the integer functions (13 R265), the compares (R267) and the binary64 functions (R269, R270). Each answers the destination bits and the FPFLAGS bits to set. -/

namespace Sys2Proof.Machine

/-- The signed reading of a 64-bit pattern. -/
abbrev s64 (x : Nat) : Int := Sys2Proof.sext x 64

/-- An exact result modulo 2^64, or clamped to the signed range with SAT (R265, 07 R148). -/
def clamp64 (sat : Bool) (x : Int) : Nat × Nat := wrapInt 3 sat x

/-- Signed division truncated toward zero; all ones for a zero divisor (R265). -/
def divS (a b : Nat) : Nat := if b = 0 then 2 ^ 64 - 1 else wrapNat ((s64 a).tdiv (s64 b)) 64

/-- Signed remainder; the dividend for a zero divisor (R265). -/
def remS (a b : Nat) : Nat := if b = 0 then a else wrapNat (s64 a - s64 b * (s64 a).tdiv (s64 b)) 64

/-- Set bits of the w low bits. -/
def popCount : Nat → Nat → Nat
  | 0, _ => 0
  | w + 1, x => x % 2 + popCount w (x / 2)

/-- Zero bits below the lowest set bit among w bits. -/
def trailZeros : Nat → Nat → Nat
  | 0, _ => 0
  | w + 1, x => if x % 2 = 1 then 0 else 1 + trailZeros w (x / 2)

/-- A condition of R267 by its code: eq, ne, lt, ge signed, ltu, geu. -/
def condHolds (cond a b : Nat) : Bool :=
  match cond with
  | 0 => a == b
  | 1 => a != b
  | 2 => decide (s64 a < s64 b)
  | 3 => decide (s64 b ≤ s64 a)
  | 4 => decide (a < b)
  | _ => decide (b ≤ a)

/-- One rounding of an exact binary64 result. -/
def round64 (mode : Nat) (r : FRes) : Nat × Nat :=
  let (b, fl) := roundFloat F64 mode false r.1
  (b, fl ||| r.2)

/-- NV for each signalling NaN among two values (07 R147). -/
def snans (a b : Val) : Nat := a.snan ||| b.snan

/-- The binary64 value of a register. -/
abbrev d64 (x : Nat) : Val := valueOf F64 x

def faddBits (mode a b : Nat) : Nat × Nat :=
  let r := addVal mode (d64 a) (d64 b)
  round64 mode (r.1, r.2 ||| snans (d64 a) (d64 b))

def fsubBits (mode a b : Nat) : Nat × Nat :=
  let r := addVal mode (d64 a) (d64 b).neg
  round64 mode (r.1, r.2 ||| snans (d64 a) (d64 b))

def fmulBits (mode a b : Nat) : Nat × Nat :=
  let r := mulVal (d64 a) (d64 b)
  round64 mode (r.1, r.2 ||| snans (d64 a) (d64 b))

def fdivBits (mode a b : Nat) : Nat × Nat :=
  let r := divVal (d64 a) (d64 b)
  round64 mode (r.1, r.2 ||| snans (d64 a) (d64 b))

def fsqrtBits (mode a : Nat) : Nat × Nat :=
  let r := sqrtVal (d64 a)
  round64 mode (r.1, r.2 ||| (d64 a).snan)

def fmaBits (mode a b d : Nat) : Nat × Nat :=
  let r := fmaVal mode false (d64 a) (d64 b) (d64 d)
  round64 mode (r.1, r.2 ||| snans (d64 a) (d64 b) ||| (d64 d).snan)

/-- fmin and fmax choose an operand without rounding it (R269). -/
def fminmaxBits (max : Bool) (a b : Nat) : Nat × Nat :=
  let v := minMax max (d64 a) (d64 b)
  let bits :=
    if (d64 a).isNan && (d64 b).isNan then nanBits F64
    else if (d64 a).isNan then b
    else if (d64 b).isNan then a
    else if v = d64 a then a else b
  (bits, snans (d64 a) (d64 b))

/-- The sign cleared; a NaN gives the canonical NaN (R269). -/
def fabsBits (a : Nat) : Nat × Nat := if (d64 a).isNan then (nanBits F64, (d64 a).snan) else (a % 2 ^ 63, 0)

/-- The sign inverted; a NaN gives the canonical NaN (R269). -/
def fnegBits (a : Nat) : Nat × Nat :=
  if (d64 a).isNan then (nanBits F64, (d64 a).snan) else ((a + 2 ^ 63) % 2 ^ 64, 0)

/-- The compares of R269: whether the relation holds, and NV. quiet relations set it only on a signalling NaN. -/
def fcmpBits (rel : Option Ordering → Bool) (quiet : Bool) (a b : Nat) : Bool × Nat :=
  let o := cmpVal (d64 a) (d64 b)
  (rel o, if o.isNone && !quiet then fNV else snans (d64 a) (d64 b))

/-- The class bit of fclass (R269). -/
def fclassBits (a : Nat) : Nat :=
  let sub := decide (bitsOf a 62 52 = 0)
  match d64 a with
  | .nan q => if q then 2 ^ 8 else 2 ^ 9
  | .inf n => if n then 1 else 2 ^ 7
  | .num n m _ =>
    if m = 0 then if n then 2 ^ 3 else 2 ^ 4
    else if n then if sub then 2 ^ 2 else 2 ^ 1
    else if sub then 2 ^ 5 else 2 ^ 6

/-- cvtfi: rounded to an integer, sign-extended for the signed formats (R270). -/
def cvtfiBits (fmt mode : Nat) (sat : Bool) (a : Nat) : Nat × Nat :=
  let (b, fl) := roundInt fmt mode sat (d64 a)
  (if isIFmt fmt then wrapNat (Sys2Proof.sext b (8 * fmtBytes fmt)) 64 else b, fl)

/-- cvtif: an integer rounded to binary64 (R270). -/
def cvtifBits (fmt mode a : Nat) : Nat × Nat := roundFloat F64 mode false (valueOf fmt a)

/-- cvtff: rounded to a narrower float format (R270). -/
def cvtffBits (fmt mode : Nat) (sat : Bool) (a : Nat) : Nat × Nat := roundFloat fmt mode sat (d64 a)

/-- cvtft: a narrower float format converted exactly to binary64 (R270). -/
def cvtftBits (fmt a : Nat) : Nat × Nat := roundFloat F64 0 false (valueOf fmt a)

/-- The result of an atomic's operation on w bits, whether it is written, and flags (R280). fn is FN[5:1]. -/
def amoResult (fn w old b d : Nat) : Nat × Bool × Nat :=
  let f := if w = 32 then F32 else F64
  let lo (x : Nat) : Nat := x % 2 ^ w
  match fn with
  | 0 => (lo (old + b), true, 0)
  | 1 => (lo b, true, 0)
  | 2 => (lo b, old == lo d, 0)
  | 3 => (Nat.land old (lo b), true, 0)
  | 4 => (Nat.lor old (lo b), true, 0)
  | 5 => (Nat.xor old (lo b), true, 0)
  | 6 => (if Sys2Proof.sext old w ≤ Sys2Proof.sext (lo b) w then old else lo b, true, 0)
  | 7 => (if Sys2Proof.sext old w ≤ Sys2Proof.sext (lo b) w then lo b else old, true, 0)
  | 8 => (if old ≤ lo b then old else lo b, true, 0)
  | 9 => (if old ≤ lo b then lo b else old, true, 0)
  | _ =>
    let r := addVal 0 (valueOf f old) (valueOf f (lo b))
    let (bits, fl) := roundFloat f 0 false r.1
    (bits, true, fl ||| r.2 ||| snans (valueOf f old) (valueOf f (lo b)))

end Sys2Proof.Machine
end

