-- ==== Sys2Proof/Machine/Integer.lean ====
section
/-! DEFINITION. Integer arithmetic, immediates and conditions (13 R265 to R267). -/

namespace Sys2Proof.Machine

/-- An instruction that computes sD and flags from its source registers and its context. -/
def regOp (srcs : List Nat) (d : Nat) (f : Ctx → List Nat → Nat × Nat) (s : State) : Out :=
  runScalar .plain 0 (withRegs srcs (some d) (fun _ => .ok ()) (fun vs t =>
    let (v, fl) := f (t.cx t.c t.x) vs
    .ok (t.updCore t.c (·.orFlags fl), some v, .seq))) s

/-- A function of two source registers without flags. -/
def regOp2 (d a b : Nat) (f : Nat → Nat → Nat) (s : State) : Out :=
  regOp [a, b] d (fun _ vs => (f (vs.getD 0 0) (vs.getD 1 0), 0)) s

/-- A function of one source register without flags. -/
def regOp1 (d a : Nat) (f : Nat → Nat) (s : State) : Out := regOp [a] d (fun _ vs => (f (vs.getD 0 0), 0)) s

/-- A function of one source register and the prefix's context, without flags. -/
def immOp (d : Nat) (srcs : List Nat) (f : Ctx → Nat → Nat) (s : State) : Out :=
  regOp srcs d (fun q vs => (f q (vs.getD 0 0), 0)) s

/-- Sets a condition bit of a context. -/
def setCond (k : Core) (x n : Nat) (v : Bool) : Core :=
  { k with cx := k.cx.upd {} x (fun q => { q with c := q.c.put false n v }) }

/-- An instruction that writes condition bit c from its source registers, and sets flags. -/
def condOp (srcs : List Nat) (c : Nat) (f : Ctx → List Nat → Bool × Nat) (s : State) : Out :=
  runScalar .plain 0 (withRegs srcs none (fun _ => .ok ()) (fun vs t =>
    let (v, fl) := f (t.cx t.c t.x) vs
    .ok (t.updCore t.c (fun k => setCond (k.orFlags fl) t.x c v), none, .seq))) s

/-- A condition bit of a context. -/
def condBit (q : Ctx) (n : Nat) : Bool := q.c.get false n

/-- ADD (R265): the sum modulo 2^64, or clamped with .sat. -/
def execAdd (d a b : Nat) (s : State) : Out := 
  regOp [a, b] d (fun q vs => clamp64 (satOf q) (s64 (vs.getD 0 0) + s64 (vs.getD 1 0))) s

/-- SUB (R265): the difference modulo 2^64, or clamped with .sat. -/
def execSub (d a b : Nat) (s : State) : Out := 
  regOp [a, b] d (fun q vs => clamp64 (satOf q) (s64 (vs.getD 0 0) - s64 (vs.getD 1 0))) s

/-- AND (R265). -/
def execIand (d a b : Nat) (s : State) : Out := regOp2 d a b Nat.land s

/-- OR (R265). -/
def execIor (d a b : Nat) (s : State) : Out := regOp2 d a b Nat.lor s

/-- XOR (R265). -/
def execIxor (d a b : Nat) (s : State) : Out := regOp2 d a b Nat.xor s

/-- SLL (R265): the shift is sB[5:0]. -/
def execSll (d a b : Nat) (s : State) : Out := regOp2 d a b (fun x y => x * 2 ^ (y % 64)) s

/-- SRL (R265). -/
def execSrl (d a b : Nat) (s : State) : Out := regOp2 d a b (fun x y => x / 2 ^ (y % 64)) s

/-- SRA (R265). -/
def execSra (d a b : Nat) (s : State) : Out := regOp2 d a b (fun x y => wrapNat (s64 x / 2 ^ (y % 64)) 64) s

/-- MUL (R265): the low half of the product, or the clamped product with .sat. -/
def execMul (d a b : Nat) (s : State) : Out := 
  regOp [a, b] d (fun q vs => clamp64 (satOf q) (s64 (vs.getD 0 0) * s64 (vs.getD 1 0))) s

/-- MULH (R265). -/
def execMulh (d a b : Nat) (s : State) : Out := regOp2 d a b (fun x y => wrapNat (s64 x * s64 y / 2 ^ 64) 64) s

/-- MULHU (R265). -/
def execMulhu (d a b : Nat) (s : State) : Out := regOp2 d a b (fun x y => x * y / 2 ^ 64) s

/-- DIV (R265). -/
def execDiv (d a b : Nat) (s : State) : Out := regOp2 d a b divS s

/-- DIVU (R265): all ones for a zero divisor. -/
def execDivu (d a b : Nat) (s : State) : Out := regOp2 d a b (fun x y => if y = 0 then 2 ^ 64 - 1 else x / y) s

/-- REM (R265). -/
def execRem (d a b : Nat) (s : State) : Out := regOp2 d a b remS s

/-- REMU (R265): sA for a zero divisor. -/
def execRemu (d a b : Nat) (s : State) : Out := regOp2 d a b (fun x y => if y = 0 then x else x % y) s

/-- MIN (R265), signed. -/
def execMin (d a b : Nat) (s : State) : Out := regOp2 d a b (fun x y => if s64 x ≤ s64 y then x else y) s

/-- MAX (R265), signed. -/
def execMax (d a b : Nat) (s : State) : Out := regOp2 d a b (fun x y => if s64 x ≤ s64 y then y else x) s

/-- MINU (R265). -/
def execMinu (d a b : Nat) (s : State) : Out := regOp2 d a b (fun x y => if x ≤ y then x else y) s

/-- MAXU (R265). -/
def execMaxu (d a b : Nat) (s : State) : Out := regOp2 d a b (fun x y => if x ≤ y then y else x) s

/-- CLZ (R265). -/
def execClz (d a : Nat) (s : State) : Out := regOp1 d a (fun x => 64 - bitLen x) s

/-- CTZ (R265). -/
def execCtz (d a : Nat) (s : State) : Out := regOp1 d a (trailZeros 64) s

/-- POPC (R265). -/
def execPopc (d a : Nat) (s : State) : Out := regOp1 d a (popCount 64) s

/-- SEXT (R265): w = 8, 16 or 32 for fmt 0, 1 or 2. -/
def execSext (d a fmt : Nat) (s : State) : Out := regOp1 d a (fun x => wrapNat (Sys2Proof.sext x (8 * 2 ^ fmt)) 64) s

/-- ZEXT (R265): w = 8, 16 or 32 for fmt 4, 5 or 6. -/
def execZext (d a fmt : Nat) (s : State) : Out := regOp1 d a (fun x => x % 2 ^ (8 * 2 ^ (fmt - 4))) s

/-- ADDI (R266). -/
def execAddi (d a imm : Nat) (s : State) : Out := immOp d [a] (fun q x => wrapNat (x + immS q 16 imm) 64) s

/-- ANDI (R266). -/
def execAndi (d a imm : Nat) (s : State) : Out := immOp d [a] (fun q x => Nat.land x (immZ q imm)) s

/-- ORI (R266). -/
def execOri (d a imm : Nat) (s : State) : Out := immOp d [a] (fun q x => Nat.lor x (immZ q imm)) s

/-- XORI (R266). -/
def execXori (d a imm : Nat) (s : State) : Out := immOp d [a] (fun q x => Nat.xor x (immZ q imm)) s

/-- SLLI (R266). -/
def execSlli (d a n : Nat) (s : State) : Out := immOp d [a] (fun _ x => x * 2 ^ n) s

/-- SRLI (R266). -/
def execSrli (d a n : Nat) (s : State) : Out := immOp d [a] (fun _ x => x / 2 ^ n) s

/-- SRAI (R266). -/
def execSrai (d a n : Nat) (s : State) : Out := immOp d [a] (fun _ x => wrapNat (s64 x / 2 ^ n) 64) s

/-- MOVI (R266). -/
def execMovi (d imm : Nat) (s : State) : Out := immOp d [] (fun q _ => wrapNat (immS q 16 imm) 64) s

/-- MOVHI (R266). -/
def execMovhi (d imm : Nat) (s : State) : Out := immOp d [] (fun q _ => immHi q imm) s

/-- CMPI (R267). -/
def execCmpi (cond c a imm : Nat) (s : State) : Out := 
  condOp [a] c (fun q vs => (condHolds cond (vs.getD 0 0) (wrapNat (immS q 13 imm) 64), 0)) s

/-- CMP_EQ (R267). -/
def execCmpEq (c a b : Nat) (s : State) : Out := condOp [a, b] c (fun _ vs => (condHolds 0 (vs.getD 0 0) (vs.getD 1 0), 0)) s

/-- CMP_NE (R267). -/
def execCmpNe (c a b : Nat) (s : State) : Out := condOp [a, b] c (fun _ vs => (condHolds 1 (vs.getD 0 0) (vs.getD 1 0), 0)) s

/-- CMP_LT (R267). -/
def execCmpLt (c a b : Nat) (s : State) : Out := condOp [a, b] c (fun _ vs => (condHolds 2 (vs.getD 0 0) (vs.getD 1 0), 0)) s

/-- CMP_GE (R267). -/
def execCmpGe (c a b : Nat) (s : State) : Out := condOp [a, b] c (fun _ vs => (condHolds 3 (vs.getD 0 0) (vs.getD 1 0), 0)) s

/-- CMP_LTU (R267). -/
def execCmpLtu (c a b : Nat) (s : State) : Out := condOp [a, b] c (fun _ vs => (condHolds 4 (vs.getD 0 0) (vs.getD 1 0), 0)) s

/-- CMP_GEU (R267). -/
def execCmpGeu (c a b : Nat) (s : State) : Out := condOp [a, b] c (fun _ vs => (condHolds 5 (vs.getD 0 0) (vs.getD 1 0), 0)) s

/-- CAND (R267). -/
def execCand (c a b : Nat) (s : State) : Out := condOp [] c (fun q _ => (condBit q a && condBit q b, 0)) s

/-- COR (R267). -/
def execCor (c a b : Nat) (s : State) : Out := condOp [] c (fun q _ => (condBit q a || condBit q b, 0)) s

/-- CXOR (R267). -/
def execCxor (c a b : Nat) (s : State) : Out := condOp [] c (fun q _ => (condBit q a != condBit q b, 0)) s

/-- CNOT (R267). -/
def execCnot (c a : Nat) (s : State) : Out := condOp [] c (fun q _ => (!condBit q a, 0)) s

/-- SEL (R267). -/
def execSel (d a b k : Nat) (s : State) : Out := 
  regOp [a, b] d (fun q vs => (if condBit q k then vs.getD 0 0 else vs.getD 1 0, 0)) s

end Sys2Proof.Machine
end

