-- ==== Sys2Proof/Machine/Control.lean ====
section
/-! DEFINITION. Fetch (06 R109; 12 R239 to R241, R259), control registers (13 R271; 06 R110, R124, R133; 12 R248), branches, loops and repeats (13 R272 to R277), done, trap and tret (R291, R292), and the fates of illegal words. -/

namespace Sys2Proof.Machine

/-! ### Fetch -/

/-- Where a core caches the block of a physical address: each launch has blocks of its own, since the next launch finds none of an earlier one's (R109). -/
def blockKey (s : State) (c pa : Nat) : Nat := (s.core c).tk.launch * 2 ^ 38 + pa / 64

/-- The instruction word at a virtual address (R109): a page with EXEC, through the instruction TLB and cache. A cached block that memory no longer holds may be returned or fetched again (log 8). An injected parity error causes a refetch and is counted (R142): the first fill takes it, whatever word it names (log 46). -/
def fetchWord (c va : Nat) (s : State) : Ex (Nat × State) := do
  let (t, l) ← translate s c va .exec
  let s ← useLeaf c 0 l s
  match t with
  | .dev pa =>
    let new := s.mem.num (pa / 64 * 64) 64
    let hit := (s.phys c).icache.get 0 (blockKey s c pa)
    let old := hit % 2 ^ 512
    let block := if hit = 0 || old = new || Config.fetchNew s.tick (pa / 64) then new else old
    let w := block / 2 ^ (8 * (pa % 64)) % 2 ^ 32
    let s := s.updPhys c (fun p => { p with icache := p.icache.put 0 (blockKey s c pa) (2 ^ 512 + block) })
    let e := (s.core c).einj
    if hit = 0 && bitAt e 31 && e % 16 == 5 then
      .ok (w, (s.updCore c (fun k => { k with einj := e % 2 ^ 31 })).noteError c (errKey 5 (bitsOf e 23 4)) false)
    else .ok (w, s)
  | _ => .error (.trap .permission va)

/-- The bytes of the instruction at an address: 8 for a prefix and its word (R239). -/
def instrLen (s : State) (c va : Nat) : Nat :=
  match fetchWord c va s with
  | .ok (w, _) => if w / 2 ^ 26 = 0x3F then 8 else 4
  | .error _ => 4

/-- The word that encodes an instruction, as TVAL reports it (13 R296). -/
def wordOf (i : Instr) : Nat := ((encode i).getD (0, 0)).2

/-- ILLEGAL_INSTRUCTION (R259): traps with the word, or with the pair, PFX in [63:32]. -/
def execIllegalInstruction (w : Nat) (s : State) : Out :=
  let q := s.cx s.c s.x
  let tval :=
    match q.pfx with
    | some p => wordOf (.pfx p.rnd p.rv p.sat p.hi) * 2 ^ 32 + w
    | none => w
  .next (s.stopCx s.c s.x (.trap .illegalInstruction tval))

/-- PFX (R239, R240): its fields are latched for the word that follows in the same move, or it traps orphan prefix: last in its block, or before another prefix. -/
def execPfx (rnd : Nat) (rv : Bool) (sat : Bool) (hi : Nat) (s : State) : Out :=
  let c := s.c
  let x := s.x
  let pc := (s.cx c x).pc.toNat
  let w := wordOf (.pfx rnd rv sat hi)
  if pc % 64 = 60 then .next (s.stopCx c x (.trap .orphanPrefix w))
  else
    match fetchWord c (pc + 4) s with
    | .error e => .next (s.stopFetch c x e)
    | .ok (w2, t) =>
      if w2 / 2 ^ 26 = 0x3F then .next (t.stopCx c x (.trap .orphanPrefix w))
      else .next (t.updCx c x (fun q => { q with pfx := some { rnd := rnd, rv := rv, sat := sat, hi := hi } }))

/-! ### Control registers -/

/-- Marionette's condition inputs (06 R132). -/
def Core.mxInput (k : Core) (i : Nat) : Bool :=
  if i < 8 then decide (k.mxthr.get 0 i ≤ k.mxcnt.get 0 i)
  else if i < 24 then (k.bb.get {} (i - 8)).count == 0 && !(k.bb.get {} (i - 8)).overrun
  else if i < 32 then (k.cb.get {} (i - 24)).wcnt != (k.cb.get {} (i - 24)).rcnt
  else if i < 40 then !(k.queue (i - 32)).isEmpty
  else if i < 56 then (k.chan.get {} (i - 40)).phase == .idle
  else if i = 56 then k.row.rd == k.row.rel && k.row.word.isNone
  else if i = 57 then k.mat.rd == k.mat.rel && k.mat.word.isNone && !k.followGo
  else if i = 58 then (k.cx.get {} 0).stalled || (match (k.cx.get {} 0).wait with | .service _ => true | _ => false)
  else false

/-- Whether term j is true: every masked input is, and the mask is not zero (R133). -/
def Core.mxTerm (k : Core) (j : Nat) : Bool :=
  let m := k.mxterm.get 0 j
  m != 0 && (List.range 64).all (fun i => !bitAt m i || k.mxInput i)

/-- The OR of action n's terms. -/
def Core.mxOr (k : Core) (n : Nat) : Bool :=
  (List.range 16).any (fun j => bitAt (k.mxact.get 0 n) j && k.mxTerm j)

/-- Whether a control offset is placed (R271). -/
def csrPlaced (off : Nat) : Bool :=
  off % 8 == 0 && (decide (off ≤ 0xB0) || decide (0x100 ≤ off ∧ off < 0x1C0) || decide (0x200 ≤ off ∧ off < 0x280)
    || decide (0x280 ≤ off ∧ off < 0x2C0))

/-- RINGSTAT (R271). -/
def Core.ringStat (k : Core) : Nat :=
  k.row.halted.toNat + 2 * k.mat.halted.toNat + 4 * k.row.held.isSome.toNat + 8 * k.mat.held.isSome.toNat

/-- BANKST (06 R110). -/
def Core.bankSt (k : Core) : Nat :=
  k.bank + k.row.bankA.length * 2 ^ 2 + k.row.bankB.length * 2 ^ 18 + k.mat.bankA.length * 2 ^ 34 + k.mat.bankB.length * 2 ^ 49

/-- The value of a control register (R271; 06 R110, R124, R133; 12 R248). -/
def csrValue (s : State) (c off : Nat) : Nat :=
  let k := s.core c
  if off < 0x100 then
    match off with
    | 0x000 => k.row.base | 0x008 => k.row.size | 0x010 => k.row.rel % 2 ^ 32 | 0x018 => k.row.rd % 2 ^ 32
    | 0x020 => k.mat.base | 0x028 => k.mat.size | 0x030 => k.mat.rel % 2 ^ 32 | 0x038 => k.mat.rd % 2 ^ 32
    | 0x040 => k.bankSt | 0x048 => k.tbpwr | 0x050 => k.fpflags | 0x058 => k.pacerow | 0x060 => k.pacemat
    | 0x068 => s.cycle (clusterOf c) | 0x070 => k.tk.ctx | 0x078 => k.tvec.toNat | 0x080 => k.tcause
    | 0x088 => k.tval.toNat | 0x090 => k.epc.toNat | 0x0A0 => k.ringStat | 0x0A8 => k.hndst
    | _ => 0
  else if off < 0x200 then
    let i := (off - 0x100) / 0x18
    match (off - 0x100) % 0x18 with
    | 0 => k.mxsel.get 0 i
    | 8 => k.mxcnt.get 0 i
    | _ => k.mxthr.get 0 i
  else if off < 0x280 then k.mxterm.get 0 ((off - 0x200) / 8)
  else k.mxact.get 0 ((off - 0x280) / 8)

/-- A ring's BASE or SIZE is written (06 R110, R111): slot bytes, the largest SIZE and the alignment are the ring's. -/
def setRing (k : Core) (r : Ring) (slot most al base size v off : Nat) : Ex Ring := do
  need (r.rd == r.rel && r.word.isNone && k.bank == 0) .resourceBusy off
  need (decide (base < 2 ^ 19) && base % al == 0 && decide (1 ≤ size ∧ size ≤ most)
    && decide (base + slot * size ≤ k.spadLimit)) .controlValue v
  .ok { r with base := base, size := size }

/-- A ring halted by an engine fault restarts, past the halted word if asked (R290). -/
def restartRing (r : Ring) (skip : Bool) : Ring :=
  if r.halted then
    { r with
      halted := false
      tags := if skip then r.tags.put none r.rd none else r.tags
      rd := if skip then r.rd + 1 else r.rd }
  else r

/-- The sequence context with a local number in a core's image and cluster (09 R198). -/
def localSeq (s : State) (c n : Nat) : Nat :=
  let t := (s.core c).tk
  let all := List.range' (64 * clusterOf c) 64
  (all.find? (fun i => (s.seq i).owner == some (t.vi, t.slot, n))).getD (64 * clusterOf c + n)

/-- A halted sequence context becomes idle with COUNT 0 (16 R362). -/
def clearSeq (s : State) (n : Nat) : State :=
  if (s.seq n).st = 2 then s.updSeq n (fun q => { q with st := 0, cand := [] }) else s

/-- The claim that a Marionette action names (06 R133). -/
def mxClaim (k : Core) (v : Nat) : Ex Unit :=
  match bitsOf v 18 16 with
  | 1 => claim k (.sem (bitsOf v 24 20)) (bitsOf v 24 20)
  | 2 => claim k (.ev (bitsOf v 31 20)) (bitsOf v 31 20)
  | 3 => do
    claim k (.chan (bitsOf v 23 20)) (bitsOf v 23 20)
    need (decide (bitsOf v 39 24 < k.tk.templates.length)) .unclaimed (bitsOf v 39 24)
  | _ => .ok ()

/-- A write to a control register (R271, R290; 06 R110, R111, R133; 12 R248; 16 R362). A write to a register that is RO is ignored (00 R5). -/
def csrWrite (s : State) (c off v : Nat) : Ex State :=
  let k := s.core c
  let put (k : Core) : Ex State := .ok (s.updCore c (fun _ => k))
  if off < 0x100 then
    match off with
    | 0x000 => do put { k with row := ← setRing k k.row 12 43690 4 v k.row.size v off }
    | 0x008 => do put { k with row := ← setRing k k.row 12 43690 4 k.row.base v v off }
    | 0x020 => do put { k with mat := ← setRing k k.mat 24 21845 8 v k.mat.size v off }
    | 0x028 => do put { k with mat := ← setRing k k.mat 24 21845 8 k.mat.base v v off }
    | 0x050 => put { k with fpflags := Nat.land k.fpflags (Nat.xor (v % 64) 63) }
    | 0x058 => put { k with pacerow := v % 2 ^ 16 }
    | 0x060 => put { k with pacemat := v % 2 ^ 16 }
    | 0x078 => do need (v % 64 == 0 && decide (v < 2 ^ 48)) .controlValue v; put { k with tvec := w64 v }
    | 0x090 => do need (v % 4 == 0) .controlValue v; put { k with epc := w64 v }
    | 0x098 =>
      put { k with
        row := if bitAt v 0 then restartRing k.row (bitAt v 2) else k.row
        mat := if bitAt v 1 then restartRing k.mat (bitAt v 2) else k.mat }
    | 0x0B0 => do
      claim k (.seq (v % 64)) (v % 64)
      .ok (if bitAt v 6 then clearSeq s (localSeq s c (v % 64)) else s)
    | _ => .ok s
  else if off < 0x200 then
    let i := (off - 0x100) / 0x18
    match (off - 0x100) % 0x18 with
    | 0 => do
      if 0x10 ≤ v % 256 ∧ v % 256 < 0x10 + 31 then claim k (.sem (v % 256 - 0x10)) (v % 256 - 0x10)
      put { k with mxsel := k.mxsel.put 0 i (v % 256) }
    | 8 => put { k with mxcnt := k.mxcnt.put 0 i (v % 2 ^ 32) }
    | _ => put { k with mxthr := k.mxthr.put 0 i (v % 2 ^ 32) }
  else if off < 0x280 then put { k with mxterm := k.mxterm.put 0 ((off - 0x200) / 8) v }
  else do
    mxClaim k v
    let n := (off - 0x280) / 8
    let k := { k with mxact := k.mxact.put 0 n (v % 2 ^ 48) }
    put { k with mxprev := k.mxprev.put false n (k.mxOr n) }

/-- CSRR (R271). -/
def execCsrr (d off : Nat) (s : State) : Out :=
  runScalar .plain 0 (withRegs [] (some d) (fun _ => .ok ()) (fun _ t => do
    need (csrPlaced off) .controlValue off
    .ok (t, some (csrValue t t.c off), .seq))) s

/-- CSRW (R271). -/
def execCsrw (a off : Nat) (s : State) : Out :=
  runScalar .plain 0 (withRegs [a] none (fun _ => .ok ()) (fun vs t => do
    need (csrPlaced off) .controlValue off
    .ok (← csrWrite t t.c off (vs.getD 0 0), none, .seq))) s

/-- RESTART_ROW_RING (R290): as a RINGCTL write of bit 0. -/
def execRestartRowRing (s : State) : Out :=
  .next (s.updCore s.unit (fun k => { k with row := restartRing k.row (s.arg == 1) }))

/-- RESTART_MATRIX_RING (R290): as a RINGCTL write of bit 1. -/
def execRestartMatrixRing (s : State) : Out :=
  .next (s.updCore s.unit (fun k => { k with mat := restartRing k.mat (s.arg == 1) }))

/-- SMPCLR (16 R362): as a write of the argument to the register; a SEQ beyond the claim clears nothing. -/
def execSmpclr (s : State) : Out :=
  .next (if bitAt s.arg 6 && (s.core s.unit).cl.has (.seq (s.arg % 64)) then clearSeq s (localSeq s s.unit (s.arg % 64)) else s)

/-! ### Branches -/

/-- The program counter of the acting context. -/
def State.pcOf (s : State) : Nat := (s.cx s.c s.x).pc.toNat

/-- Branch register n of a context. -/
def Ctx.br (q : Ctx) (n : Nat) : Nat := (q.b.get 0 n).toNat

/-- PBT (R272). -/
def execPbt (bn imm : Nat) (s : State) : Out :=
  runScalar .plain 0 (withRegs [] none (fun _ => .ok ()) (fun _ t =>
    let b := wrapNat ((t.pcOf / 64 + Sys2Proof.sext imm 16) * 64) 64
    .ok (t.updCx t.c t.x (fun q => { q with b := q.b.put 0 bn (w64 b) }), none, .seq))) s

/-- PBR (R272): nothing is checked. -/
def execPbr (bn a : Nat) (s : State) : Out :=
  runScalar .plain 0 (withRegs [a] none (fun _ => .ok ()) (fun vs t =>
    .ok (t.updCx t.c t.x (fun q => { q with b := q.b.put 0 bn (w64 (vs.getD 0 0)) }), none, .seq))) s

/-- Whether a block address may be a target (R272). -/
def targetOk (t : Nat) : Bool := t % 64 == 0 && decide (t < 2 ^ 48)

/-- The address after the second delay instruction of a branch at a (R239, R272). -/
def delayEnd (s : State) (c a : Nat) : Nat :=
  let a2 := a + 4 + instrLen s c (a + 4)
  a2 + instrLen s c a2

/-- br and brl: the alignment trap, the trap for delay instructions that reach past an armed body, then the pending transfer (R272, R273, R275). -/
def branch (bn : Nat) (taken : Bool) (t : State) : Ex State := do
  let q := t.cx t.c t.x
  let a := q.pc.toNat
  let dest := q.br bn
  if taken then need (targetOk dest) .alignment dest
  let e := delayEnd t t.c a
  need (!q.loops.any (fun l => decide (l.start ≤ a ∧ a < l.fin ∧ l.fin < e))) .loopEndInDelay 0
  .ok (t.updCx t.c t.x (fun q => { q with pend := some (if taken then some dest else none, 2) }))

/-- BR (R272, 12 R245). -/
def execBr (bn x : Nat) (s : State) : Out :=
  runScalar .control (wordOf (.br bn x)) (withRegs [] none (fun _ => .ok ()) (fun _ t => do
    let q := t.cx t.c t.x
    .ok (← branch bn (bitAt x 4 || (condBit q (x % 8) != bitAt x 3)) t, none, .seq))) s

/-- BRL (R272): the link is the block boundary at or after the end of the second delay instruction. -/
def execBrl (bn d : Nat) (s : State) : Out :=
  runScalar .control (wordOf (.brl bn d)) (withRegs [] (some d) (fun _ => .ok ()) (fun _ t => do
    let e := delayEnd t t.c t.pcOf
    .ok (← branch bn true t, some ((e + 63) / 64 * 64), .seq))) s

/-! ### Loops and repeats -/

/-- LOOP (R274): arms level n over the blocks after its own up to the end block. -/
def execLoopHw (n a imm : Nat) (s : State) : Out :=
  runScalar .control (wordOf (.loopHw n a imm)) (withRegs (if a = 0 then [] else [a]) none
    (fun _ => let q := s.cx s.c s.x
              need (!q.loops.any (·.n == n) && decide (1 ≤ imm ∧ imm < 2 ^ 15)) .controlValue imm)
    (fun vs t => do
      let q := t.cx t.c t.x
      let cnt := if a = 0 then q.lc.get 0 n else vs.getD 0 0
      need (decide (cnt < 2 ^ 32)) .controlValue cnt
      let blk := q.pc.toNat / 64 * 64
      let fin := blk + 64 * (imm + 1)
      if cnt = 0 then .ok (t, none, .passTo fin)
      else do
        need (q.loops.all (fun l => decide (l.start ≤ blk + 64 ∧ fin ≤ l.fin))) .controlValue fin
        .ok (t.updCx t.c t.x (fun q =>
          { q with lc := q.lc.put 0 n cnt, loops := { n := n, start := blk + 64, fin := fin } :: q.loops }), none, .seq))) s

/-- A repeat may not be the last word of an armed body (R275). -/
def repPlace (s : State) (w : Nat) : Ex Unit :=
  let q := s.cx s.c s.x
  need (!q.loops.any (fun l => l.fin == q.pc.toNat + 4)) .controlValue w

/-- REP (R277). -/
def execRepA (a : Nat) (s : State) : Out :=
  runScalar .control (wordOf (.repA a)) (withRegs [a] none (fun _ => repPlace s (wordOf (.repA a))) (fun vs t => do
    need (decide (vs.getD 0 0 < 2 ^ 16)) .controlValue (vs.getD 0 0)
    .ok (t, none, .rep (vs.getD 0 0)))) s

/-- REPI (R277). -/
def execRepi (n : Nat) (s : State) : Out :=
  runScalar .control (wordOf (.repi n)) (withRegs [] none (fun _ => repPlace s (wordOf (.repi n))) (fun _ t =>
    .ok (t, none, .rep n))) s

/-- LCGET (R276). -/
def execLcget (d n : Nat) (s : State) : Out :=
  runScalar .plain 0 (withRegs [] (some d) (fun _ => .ok ()) (fun _ t =>
    .ok (t, some ((t.cx t.c t.x).lc.get 0 n), .seq))) s

/-! ### System words -/

/-- NOP (R291). -/
def execNop (s : State) : Out := runScalar .plain 0 (fun t => .ok (t, .seq)) s

/-- DONE (R291): not with the banks open, nor while the context owns a window. Where it runs the handler, none runs from then on (10 R219). -/
def execDone (s : State) : Out :=
  runScalar .control (wordOf .done) (fun t => do
    let q := t.cx t.c t.x
    need ((t.core t.c).bank == 0) .banksOpen 0
    need q.window.isNone .windowAtDone (q.window.getD 0)
    .ok (t.updCore t.c (fun k => { (k.endHandler t.x) with cx := k.cx.upd {} t.x (fun q => { q with live := false }) }), .stop)) s

/-- TRAP (R292): EPC is the following instruction. -/
def execTrap (n : Nat) (s : State) : Out :=
  runScalar .control (wordOf (.trap n)) (fun t => .ok (t.raiseTrap t.c t.x .softwareTrap n (t.pcOf + 4), .stop)) s

/-- TRET (R292): legal only in the context that runs the handler. -/
def execTret (s : State) : Out :=
  runScalar .control (wordOf .tret) (fun t => do
    let k := t.core t.c
    need (k.hndst == 1 + 2 * t.x) .controlValue k.hndst
    .ok (t.updCore t.c (·.returnFromTrap t.x), .stop)) s

end Sys2Proof.Machine
end

