-- ==== Sys2Proof/Machine/Coder.lean ====
section
/-! DEFINITION. Range-coder streams, probability registers and the coder instructions (09 R190 to R197; 16 R347 to R355). -/

namespace Sys2Proof.Machine

/-! ### Streams (09 R190, R191) -/

/-- Stream x of a core. -/
def Core.stream (k : Core) (x : Nat) : Stream := k.st.get {} x

/-- The 64-byte image of a stream as a number (R190). -/
def Stream.image (t : Stream) : Nat :=
  t.low + t.range * 2 ^ 64 + t.code * 2 ^ 96 + t.pend * 2 ^ 128 + t.cache * 2 ^ 160 + t.mode * 2 ^ 168
    + t.ctx * 2 ^ 176 + t.base * 2 ^ 192 + t.limit * 2 ^ 224 + t.cursor * 2 ^ 256

/-- The fields of an image (R190). -/
def streamOf (x : Nat) : Stream :=
  { low := bitsOf x 32 0, range := bitsOf x 95 64, code := bitsOf x 127 96, pend := bitsOf x 159 128
    cache := bitsOf x 167 160, mode := bitsOf x 169 168, ctx := bitsOf x 187 176, base := bitsOf x 223 192
    limit := bitsOf x 255 224, cursor := bitsOf x 287 256 }

/-- Whether a stream image is valid for a task (R191): its reserved bits are zero exactly where the fields give the image back. -/
def streamValid (k : Core) (x : Nat) : Bool :=
  let t := streamOf x
  t.image == x &&
    (match t.mode with
     | 0 => x == 0
     | 3 => false
     | m =>
       t.ctx == k.tk.ctx && decide (t.base ≤ t.cursor ∧ t.cursor ≤ t.limit ∧ t.limit ≤ k.spadLimit ∧ 2 ^ 24 ≤ t.range)
         && (if m = 1 then t.code == 0 && decide (1 ≤ t.pend) else t.low == 0 && t.cache == 0 && t.pend == 0 && decide (t.code < t.range)))

/-- The checks of a coding instruction on its stream (R191). -/
def streamReady (k : Core) (x mode : Nat) : Bool := (k.stream x).mode == mode && (k.stream x).ctx == k.tk.ctx

/-- A coder instruction writes stream x; where the acting context owns a window, the window versions it (R196; 10 R372; 16 R355). -/
def Core.setStream (k : Core) (cx x : Nat) (t : Stream) : Core :=
  let k' := { k with st := k.st.put {} x t }
  match (k.cx.get {} cx).window with
  | none => k'
  | some n => k'.updWin n (fun w => { w with swrote := if w.swrote.contains x then w.swrote else w.swrote ++ [x] })

/-! ### Encoding (16 R350, R351) -/

/-- ShiftLow: the stream after it and the bytes it emits at CURSOR; none where a byte would pass LIMIT or PEND its width. -/
def shiftLow (t : Stream) : Option (Stream × List Byte) :=
  let low := t.low * 256 % 2 ^ 32
  if t.low < 0xFF000000 ∨ 2 ^ 32 ≤ t.low then
    if t.limit < t.cursor + t.pend then none
    else
      let c := t.low / 2 ^ 32
      some ({ t with cursor := t.cursor + t.pend, cache := t.low / 2 ^ 24 % 256, pend := 1, low := low },
        BitVec.ofNat 8 (t.cache + c) :: List.replicate (t.pend - 1) (BitVec.ofNat 8 (0xFF + c)))
  else if t.pend + 1 < 2 ^ 32 then some ({ t with pend := t.pend + 1, low := low }, [])
  else none

/-- ShiftLow n times. -/
def shiftLows : Nat → Stream → Option (Stream × List Byte)
  | 0, t => some (t, [])
  | n + 1, t => do
    let (t, a) ← shiftLow t
    let (t, b) ← shiftLows n t
    some (t, a ++ b)

/-- How often a range is multiplied by 2^8 until it reaches 2^24. RANGE is at least 2^24 and P at most 15, so 3 suffice. -/
def renorm (r : Nat) : Nat := if 2 ^ 24 ≤ r then 0 else if 2 ^ 16 ≤ r then 1 else if 2 ^ 8 ≤ r then 2 else 3

/-- A cell of a probability register. -/
def Prob.cell (p : Prob) (i : Nat) : Nat := p.cum.getD i 0

/-- The interval of symbol s: what the code is lowered by, and the new range (R350, R352). -/
def Prob.interval (p : Prob) (range s : Nat) : Nat × Nat :=
  let r := range / 2 ^ p.p
  (r * p.cell s, if s + 1 < p.n then r * (p.cell (s + 1) - p.cell s) else range - r * p.cell s)

/-- One encoding step (R350): the stream after it and the bytes emitted at the old CURSOR. x names the stream in a fault. -/
def encode1 (p : Prob) (t : Stream) (x s : Nat) : Ex (Stream × List Byte) := do
  need (decide (s < p.n)) .controlValue s
  need (p.cell (s + 1) != p.cell s) .zeroFreq x
  let (d, r) := p.interval t.range s
  need (decide (t.low + d < 2 ^ 33)) .streamInvalid x
  let n := renorm r
  match shiftLows n { t with low := t.low + d } with
  | none => .error (.trap .bitstreamLimit x)
  | some (t, bs) => .ok ({ t with range := r * 256 ^ n }, bs)

/-! ### Decoding (16 R352) -/

/-- The symbol whose interval holds v. -/
def Prob.symbol (p : Prob) (v : Nat) : Nat := ((List.range p.n).find? (fun s => decide (p.cell s ≤ v ∧ v < p.cell (s + 1)))).getD 0

/-- One decoding step: the symbol and the stream after it. The bytes it takes in stall on empty lines. -/
def decode1 (k : Core) (p : Prob) (t : Stream) (x : Nat) : Ex (Nat × Stream) := do
  let v := min (t.code / (t.range / 2 ^ p.p)) (2 ^ p.p - 1)
  let s := p.symbol v
  let (d, r) := p.interval t.range s
  let c := t.code - d
  need (decide (c < r)) .zeroFreq x
  let n := renorm r
  need (decide (t.cursor + n ≤ t.limit)) .bitstreamLimit x
  let bs ← spadRead k t.cursor n
  .ok (s, { t with code := bs.foldl (fun c b => c * 256 + b.toNat) c, range := r * 256 ^ n, cursor := t.cursor + n })

/-- Counts the errors corrected in the bytes that a decode has taken in (06 R141). -/
def State.noteTaken (s : State) (c : Nat) (old new : Stream) : State :=
  if old.cursor = new.cursor then s else s.noteRead c 4 (old.cursor / 8) ((new.cursor + 7) / 8)

/-! ### Probability registers (09 R194) -/

/-- The 192 bytes of a register's image. -/
def Prob.bytes (p : Prob) : List Byte :=
  [BitVec.ofNat 8 p.n, BitVec.ofNat 8 p.p] ++ toBytes 6 0 ++ (List.range 65).flatMap (fun i => toBytes 2 (p.cell i)) ++ toBytes 54 0

/-- The register that an image holds; none where it is not valid. -/
def probOf (bs : List Byte) : Option Prob :=
  let n := ofBytes (bs.take 1)
  let p := ofBytes ((bs.drop 1).take 1)
  let cum := (List.range (n + 1)).map (fun i => ofBytes ((bs.drop (8 + 2 * i)).take 2))
  let q : Prob := { n := n, p := p, cum := cum }
  if 1 ≤ n ∧ n ≤ 64 ∧ 10 ≤ p ∧ p ≤ 15 ∧ q.bytes = bs ∧ q.cell 0 = 0 ∧ q.cell n = 2 ^ p
      ∧ (List.range n).all (fun i => decide (q.cell i ≤ q.cell (i + 1))) then some q else none

/-- Probability register y of a core. -/
def Core.prob (k : Core) (y : Nat) : Prob := k.cd.get {} y

/-- Coding needs a register that is not cleared. -/
def probReady (k : Core) (y tval : Nat) : Ex Unit := need ((k.prob y).n != 0) .probInvalid tval

/-! ### Instructions -/

/-- The checks on a memory operand (16 R348, step 2). -/
def operandOk (k : Core) (a align n : Nat) : Ex Unit := do
  need (a % align == 0) .misaligned a
  need (decide (a + n ≤ k.spadLimit)) .unclaimed a

/-- Writes emitted bytes at a bitstream address, logging their lines in the acting context's window (R193, R196; 16 R355). A slot that is released is no obstacle to them (06 R111; log 46). -/
def emitBytes (s : State) (c x a : Nat) (bs : List Byte) : Ex State := do
  let own := (s.cx c x).window
  let lines := linesOf a bs.length
  s.logRoom c own lines
  .ok (s.updCore c (fun k => ((match own with | some n => k.logLines n true lines | none => k)).spadWrite a bs))

/-- rcinit.enc and rcinit.dec (R349). -/
def rcinit (x a mode : Nat) (s : State) : Out :=
  runScalar .plain 0 (withRegs [a] none (fun k => claim k (.st x) x) (fun vs t => do
    let ea := vs.getD 0 0
    let c := t.c
    let k := t.core c
    operandOk k ea 8 8
    let (bs, t) ← t.spadGet c ea 8
    let d := ofBytes bs
    let base := bitsOf d 18 0
    let limit := bitsOf d 50 32
    need (decide (d < 2 ^ 51) && bitsOf d 31 19 == 0 && decide (base ≤ limit ∧ limit ≤ k.spadLimit)) .streamInvalid x
    let st : Stream := { mode := mode, range := 2 ^ 32 - 1, base := base, limit := limit, cursor := base, ctx := k.tk.ctx }
    if mode = 1 then .ok (t.updCore c (fun k => k.setStream t.x x { st with pend := 1 }), none, .seq)
    else do
      need (decide (base + 5 ≤ limit)) .bitstreamLimit x
      let (b, t) ← t.spadGet c base 5
      let code := (b.drop 1).foldl (fun v y => v * 256 + y.toNat) 0
      need (ofBytes (b.take 1) == 0 && code != 2 ^ 32 - 1) .streamInvalid x
      .ok (t.updCore c (fun k => k.setStream t.x x { st with code := code, cursor := base + 5 }), none, .seq))) s

/-- RCINIT_ENC. -/
def execRcinitEnc (x a : Nat) (s : State) : Out := rcinit x a 1 s
/-- RCINIT_DEC. -/
def execRcinitDec (x a : Nat) (s : State) : Out := rcinit x a 2 s

/-- RCENC (R350). -/
def execRcenc (x y a : Nat) (s : State) : Out :=
  runScalar .plain 0 (withRegs [a] none (fun k => do claim k (.st x) x; claim k (.cd y) y) (fun vs t => do
    let c := t.c
    let k := t.core c
    need (streamReady k x 1) .streamInvalid x
    probReady k y y
    let st := k.stream x
    let (st', bs) ← encode1 (k.prob y) st x (vs.getD 0 0)
    let t ← emitBytes t c t.x st.cursor bs
    .ok (t.updCore c (fun k => k.setStream t.x x st'), none, .seq))) s

/-- RCFLUSH (R351). -/
def execRcflush (x : Nat) (s : State) : Out :=
  runScalar .plain 0 (withRegs [] none (fun k => claim k (.st x) x) (fun _ t => do
    let c := t.c
    let k := t.core c
    need (streamReady k x 1) .streamInvalid x
    let st := k.stream x
    match shiftLows 5 st with
    | none => .error (.trap .bitstreamLimit x)
    | some (st', bs) => do
      let t ← emitBytes t c t.x st.cursor bs
      .ok (t.updCore c (fun k => k.setStream t.x x st'), none, .seq))) s

/-- RCDEC (R352). -/
def execRcdec (d x y : Nat) (s : State) : Out :=
  runScalar .plain 0 (withRegs [] (some d) (fun k => do claim k (.st x) x; claim k (.cd y) y) (fun _ t => do
    let c := t.c
    let k := t.core c
    need (streamReady k x 2) .streamInvalid x
    probReady k y y
    let st := k.stream x
    let (v, st') ← decode1 k (k.prob y) st x
    let t := t.noteTaken c st st'
    .ok (t.updCore c (fun k => k.setStream t.x x st'), some v, .seq))) s

/-- The decodes of rcdecn from stream b + i on (09 R195): symbols and new streams, or the first failing stream's cause. -/
def decodeN (k : Core) (ent b : Nat) : Nat → Nat → Ex (List (Nat × Stream))
  | 0, _ => .ok []
  | n + 1, i => do
    let x := b + i
    let y := bitsOf ent (4 * i + 3) (4 * i)
    let tval := x + y * 2 ^ 16
    claim k (.cd y) tval
    probReady k y tval
    let r ← match decode1 k (k.prob y) (k.stream x) x with
      | .error (.trap cause va) => .error (.trapAt cause tval va)
      | .error (.empty l) => .error (.emptyFor l tval)
      | r => r
    let l ← decodeN k ent b n (i + 1)
    .ok (r :: l)

/-- The q5 entries that hold symbols, eight to an entry (09 R195). -/
def packSymbols (k : Nat) (l : List Nat) : List W64 :=
  (List.range (ceilDiv k 8)).map (fun e => w64 (ofBytes (((l.drop (8 * e)).take 8).map (BitVec.ofNat 8))))

/-- RCDECN (R353; 09 R195). -/
def execRcdecn (x n : Nat) (s : State) : Out :=
  runScalar .plain 0 (fun t => do
    let c := t.c
    let k := t.core c
    need (k.cl.has (.queue 4)) .unclaimed 28
    need (k.cl.has (.queue 5)) .unclaimed 29
    (List.range' x n).forM (fun i => claim k (.st i) i)
    (List.range' x n).forM (fun i => need (streamReady k i 2) .streamInvalid i)
    await (!(k.queue 4).isEmpty && k.room 5 (ceilDiv n 8))
    let ent := ((k.queue 4).headD 0).toNat
    let l ← decodeN k ent x n 0
    let t := (l.zip (List.range' x n)).foldl (fun t p => t.noteTaken c (k.stream p.2) p.1.2) t
    let k := (l.zip (List.range' x n)).foldl (fun k p => k.setStream t.x p.2 p.1.2) (t.core c)
    let k := (k.setQueue 4 (k.queue 4).tail).setQueue 5 (k.queue 5 ++ packSymbols n (l.map (·.1)))
    .ok (t.updCore c (fun _ => k), .seq)) s

/-- RCSAVE (R354). -/
def execRcsave (x a : Nat) (s : State) : Out :=
  runScalar .plain 0 (withRegs [a] none (fun k => claim k (.st x) x) (fun vs t => do
    let k := t.core t.c
    operandOk k (vs.getD 0 0) 64 64
    .ok (← scalarSpadStore t t.c (vs.getD 0 0) (toBytes 64 (k.stream x).image), none, .seq))) s

/-- RCLOAD (R354). -/
def execRcload (x a : Nat) (s : State) : Out :=
  runScalar .plain 0 (withRegs [a] none (fun k => claim k (.st x) x) (fun vs t => do
    let c := t.c
    operandOk (t.core c) (vs.getD 0 0) 64 64
    let (bs, t) ← t.spadGet c (vs.getD 0 0) 64
    need (streamValid (t.core c) (ofBytes bs)) .streamInvalid x
    .ok (t.updCore c (fun k => k.setStream t.x x (streamOf (ofBytes bs))), none, .seq))) s

/-- CDLD (R354). -/
def execCdld (y a : Nat) (s : State) : Out :=
  runScalar .plain 0 (withRegs [a] none (fun k => claim k (.cd y) y) (fun vs t => do
    let c := t.c
    operandOk (t.core c) (vs.getD 0 0) 64 192
    let (bs, t) ← t.spadGet c (vs.getD 0 0) 192
    match probOf bs with
    | none => .error (.trap .probInvalid y)
    | some p => .ok (t.updCore c (fun k => { k with cd := k.cd.put {} y p }), none, .seq))) s

/-- CDSAVE (R354). -/
def execCdsave (y a : Nat) (s : State) : Out :=
  runScalar .plain 0 (withRegs [a] none (fun k => claim k (.cd y) y) (fun vs t => do
    let k := t.core t.c
    operandOk k (vs.getD 0 0) 64 192
    .ok (← scalarSpadStore t t.c (vs.getD 0 0) (k.prob y).bytes, none, .seq))) s

end Sys2Proof.Machine
end

