-- ==== Sys2Proof/Machine/Copy.lean ====
section
/-! DEFINITION. The copy aperture, templates and channels (06 R120, R131, R135 to R139; 15 R336 to R346; 04 R78 to R80). -/

namespace Sys2Proof.Machine

/-- Channel n of a core. -/
def Core.ch (k : Core) (n : Nat) : Chan := k.chan.get {} n
/-- Applies f to channel n. -/
def Core.updCh (k : Core) (n : Nat) (f : Chan → Chan) : Core := { k with chan := k.chan.upd {} n f }
/-- Applies f to channel n of core c. -/
def State.updCh (s : State) (c n : Nat) (f : Chan → Chan) : State := s.updCore c (·.updCh n f)
/-- Channel n of core c. -/
def State.ch (s : State) (c n : Nat) : Chan := (s.core c).ch n
/-- The number by which the model's requests and resumptions name channel n of a core. -/
def chanAgent (n : Nat) : Nat := 16 + n
/-- Circular buffer n. -/
def Core.buf (k : Core) (n : Nat) : CBuf := k.cb.get {} n
/-- The scratchpad row that holds row k of a buffer (R130). -/
def CBuf.rowOf (b : CBuf) (k : Nat) : Nat := b.base + k % (b.sizem1 + 1)
/-- Rows that a buffer holds: produced and not consumed, both n32 free-running. -/
def CBuf.fill (b : CBuf) : Nat := (b.wcnt + 2 ^ 32 - b.rcnt) % 2 ^ 32
/-- The lines of a scratchpad row. -/
def rowLines (r : Nat) : List Nat := List.range' (8 * r) 8
/-- A consumer passes n rows of a buffer, whose lines become empty (R131). -/
def Core.consume (k : Core) (i n : Nat) : Core :=
  let b := k.buf i
  let rows := (List.range n).map (fun j => b.rowOf ((b.rcnt + j) % 2 ^ 32))
  { k.setFull false (rows.flatMap rowLines) with cb := k.cb.put {} i { b with rcnt := (b.rcnt + n) % 2 ^ 32 } }

/-! ### Layout handles (06 R138, R139; 15 R341) -/

/-- Coordinate d of the packed coordinates of SCOORD (15 R337). -/
def coord (sc d : Nat) : Nat := bitsOf sc (16 * d + 15) (16 * d)

/-- The address of the element at coordinates of a layout entry; none where a check of R139 or R138 fails. It is the address of a segment's first line that is checked: one that starts below 2^48 and runs past it fails at the line that does not translate (log 45). -/
def layoutAddr (e ctx i0 i1 i2 i3 : Nat) : Option Nat :=
  if !bitAt e 21 || bitsOf e 35 24 != ctx || decide (bitsOf e 51 36 < i0) || decide (bitsOf e 67 52 < i1)
      || decide (bitsOf e 83 68 < i2) || decide (bitsOf e 99 84 < i3) then none
  else
    let a : Int := bitsOf e 255 208 + i0 * 2 ^ bitsOf e 23 22 + i1 * Sys2Proof.sext (bitsOf e 135 100) 36
      + i2 * Sys2Proof.sext (bitsOf e 171 136) 36 + i3 * Sys2Proof.sext (bitsOf e 207 172) 36
    if 0 ≤ a ∧ a < 2 ^ 48 then some a.toNat else none

/-- The start of segment g of a layout source with a token added to i1 (R341), by the entry as it was when the copy started (R139). -/
def layoutSeg (s : State) (c : Nat) (h : Chan) (g : Nat) : Ex Nat :=
  let k := s.core c
  let bad : Ex Nat := .error (.trap .layoutInvalid h.src)
  let e := h.lay
  let co (d : Nat) : Nat := coord h.scoord d + (if h.t.sdim = d then g else 0)
  let i1 := if h.t.qidx then (co 1 + h.token) % 2 ^ 16 else co 1
  if k.cl.layout ≤ h.src then bad
  else
    match layoutAddr e k.tk.ctx (co 0) i1 (co 2) (co 3) with
    | none => bad
    | some a =>
      let el := 2 ^ bitsOf e 23 22
      if (bitsOf e 51 36 + 1) * el < co 0 * el + 128 * h.t.seglines then bad
      else if a % 128 ≠ 0 then .error (.trap .misaligned a)
      else .ok a

/-- The checks of R341 for every segment. -/
def layoutCheck (s : State) (c : Nat) (h : Chan) : Ex Unit :=
  (List.range h.t.nseg).forM (fun g => do let _ ← layoutSeg s c h g)

/-! ### The aperture (06 R135, R136; 15 R337) -/

/-- The channel and the window offset of an aperture address; no offset is the start register (R135). -/
def apertureOf (k : Core) (a : Nat) : Ex (Nat × Option Nat) := do
  let off := a - 0x80000
  if a % 8 ≠ 0 then throw (.trap .controlValue a)
  else if off < 0x1000 then
    need (off % 16 == 0 && decide (off < 256)) .controlValue a
    claim k (.chan (off / 16)) (off / 16)
    .ok (off / 16, none)
  else
    let n := (off - 0x1000) / 256
    claim k (.chan n) n
    .ok (n, some (off % 256))

/-- A load of 8 bytes from the aperture: busy and stopped, or a window register (R136, R337). -/
def apertureLoad (k : Core) (a : Nat) : Ex Nat := do
  let (n, r) ← apertureOf k a
  match r with
  | none => .ok (((k.ch n).phase != .idle).toNat + 2 * (k.ch n).stopped.isSome.toNat)
  | some off => .ok (if off < 0x18 then (k.pwin.get 0 (0x100 * n + off)).toNat else 0)

/-- A scratchpad extent of segments: aligned, inside the SPAD claim (R339). -/
def extentOk (k : Core) (base : Nat) (stride : Int) (t : Template) : Bool :=
  let last : Int := base + stride * (t.nseg - 1 : Int)
  let lo := min (base : Int) last
  let hi := max (base : Int) last + 128 * t.seglines
  base % 128 == 0 && decide (0 ≤ lo ∧ hi ≤ k.spadLimit)

/-- Scratchpad destination lines of a copy (R339 step 1). -/
def Chan.dstLines (h : Chan) : List Nat :=
  if h.t.dkind = 0 then
    ((List.range h.t.nseg).flatMap (fun g =>
      List.range' ((h.dst + h.t.dstride * g).toNat / 128) h.t.seglines)).dedup
  else []

/-- The capture and the checks of a start (R339), in order; the banks must be open for a bank tag (R136). win is the window whose open step the storing context is in. -/
def startCopy (s : State) (c x n data : Nat) (win : Option Nat) : Ex State := do
  let k := s.core c
  let i := data % 2 ^ 16
  let tag := bitsOf data 17 16
  match k.tk.templates[i]? with
  | none => throw (.trap .controlValue i)
  | some t =>
    need (tag == 0 || (tag != 3 && k.bank != 0)) .controlValue data
    let reg (off : Nat) : Nat := (k.pwin.get 0 (0x100 * n + off)).toNat
    let arg (kind v : Nat) : Nat :=
      match kind with
      | 0 => v % 2 ^ 19
      | 1 => v % 2 ^ 48
      | 2 => v % 2 ^ 16
      | _ => v % 8
    let src := arg t.skind (reg 0)
    let dst := arg t.dkind (reg 8)
    claim k (.sem t.aw) t.aw
    claim k (.sem t.rs) t.rs
    if t.bbv then claim k (.bb t.bb) t.bb
    if t.skind = 3 then claim k (.cb src) src
    if t.dkind = 3 then claim k (.cb dst) dst
    if t.evkind = 1 then claim k (.ev t.evidx) t.evidx
    if t.evkind = 2 then need (bitAt k.cl.peer t.evwin) .unclaimed t.evwin
    need (!t.qidx || k.q7chan == some n) .controlValue i
    if t.skind = 0 then need (extentOk k src t.sstride t) .controlValue src
    if t.dkind = 0 then need (extentOk k dst t.dstride t) .controlValue dst
    need (!t.fov || decide (t.foaddr + 24 ≤ k.spadLimit)) .controlValue t.foaddr
    if t.skind = 1 then need (src % 128 == 0) .misaligned src
    if t.dkind = 1 then need (dst % 128 == 0) .misaligned dst
    let h : Chan := { phase := .await, owner := x, tidx := i, t := t, src := src, dst := dst, scoord := reg 0x10, tag := tag
                      lay := if t.skind = 2 then (s.ctx k.tk.ctx).layouts.get 0 src else 0 }
    if t.skind = 2 && !t.qidx then layoutCheck s c h
    need win.isNone .strongInWindow (win.getD 0)
    .ok (s.updCore c (fun k =>
      { (if tag = 0 then k.setFull false h.dstLines else k) with chan := k.chan.put {} n h }))

/-- A store of 8 bytes to the aperture: a window register, or a start once the channel is idle (R136). -/
def apertureStore (s : State) (c x a v : Nat) : Ex State := do
  let k := s.core c
  let (n, r) ← apertureOf k a
  match r with
  | some off =>
    .ok (if off < 0x18 then s.updCore c (fun k => { k with pwin := k.pwin.put 0 (0x100 * n + off) (w64 v) }) else s)
  | none =>
    await ((k.ch n).phase == .idle)
    startCopy s c x n v (k.cx.get {} x).window

/-- COPY_START (R339; 06 R135, R136): the store of data to channel ch's start register by context x, as the store instruction and Marionette make it. -/
def execCopyStart (core x ch data : Nat) (s : State) : Out :=
  let start : Ex State := do
    claim (s.core core) (.chan ch) ch
    await ((s.ch core ch).phase == .idle)
    startCopy s core x ch data (s.cx core x).window
  match start with
  | .ok t => .next t
  | .error e => .next (s.stopCx core x e)

/-! ### Lines -/

/-- Lines of a copy. -/
def Chan.total (h : Chan) : Nat := h.t.seglines * h.t.nseg

/-- The address of line l on a side that strides (R340), modulo 2^64 as effective addresses are. -/
def lineAddr (base : Nat) (stride : Int) (seglines l : Nat) : Nat :=
  wrapNat ((base : Int) + stride * (l / seglines : Nat) + 128 * (l % seglines : Nat)) 64

/-- The data of a copy's next source line, with the state after reading it (R340, R342): scratchpad and buffer lines only when full. A tagged copy reads on in a buffer and consumes nothing (06 R120). -/
def readLine (s : State) (c n : Nat) (h : Chan) : Ex (List Byte × State) := do
  let k := s.core c
  let l := h.issued
  match h.t.skind with
  | 0 => s.spadGet c (lineAddr h.src h.t.sstride h.t.seglines l) 128
  | 3 =>
    let b := k.buf h.src
    let ahead := if h.tag = 0 then 0 else l / 8
    await (decide (ahead + 1 ≤ b.fill))
    let (d, s) ← s.spadGet c (1024 * b.rowOf ((b.rcnt + ahead) % 2 ^ 32) + 128 * (l % 8)) 128
    .ok (d, if h.tag = 0 ∧ l % 8 = 7 then s.updCore c (·.consume h.src 1) else s)
  | 1 => vread c 2 (chanAgent n) none (lineAddr h.src h.t.sstride h.t.seglines l) 128 s
  | _ =>
    let a ← layoutSeg s c h (l / h.t.seglines)
    vread c 2 (chanAgent n) none (a + 128 * (l % h.t.seglines)) 128 s

/-- The copy extension of a fault record (04 R79) as a number. FAULTOFF is the number of lines landed, also where a line fails after later ones have landed (log 45). -/
def copyExt (c n : Nat) (h : Chan) : Nat :=
  h.total * 2 ^ 224 + h.landed.length * 2 ^ 192 + h.tidx * 2 ^ 160 + n * 2 ^ 156 + clusterOf c * 2 ^ 144

/-- A copy ends with a cause (04 R78; 15 R343): the record carries the copy extension, and the context that started it, or the main context after it has ended, traps at its next instruction boundary with TVAL the template index. With no context left, the item ends with the fault. -/
def failCopy (s : State) (c n : Nat) (cause : Cause) (tval : Nat) : State :=
  let h := s.ch c n
  let k := s.core c
  let x := if (k.cx.get {} h.owner).live then h.owner else 0
  let ends := !(k.cx.get {} x).live
  let s := if ends then s.abortWindows c else s
  let s := (s.dropReqs c (chanAgent n)).completed c (chanAgent n)
  let s := if h.recorded then s else s.postFault c 5 cause tval 0 1 (copyExt c n h)
  let s := s.updCore c (fun k => { k with chan := k.chan.put {} n {} })
  if ends then s.endItem c true
  else s.updCore c (fun k => { k with copyTraps := k.copyTraps ++ [(x, cause, h.tidx)] })

/-- Whether the lines that a stopped copy has issued are complete (04 R78): those in flight are lines of a bank tag, which have not been translated. -/
def Chan.stopSettled (h : Chan) : Bool := h.flight.all (·.dst.isNone) && (h.t.dkind == 1 || h.flight.isEmpty || h.tag != 0)

/-- A copy stopped by a resumable fault posts its record once the lines that it has issued have landed, so that FAULTOFF is where it goes on (04 R78, R79). -/
def recordStop (s : State) (c n : Nat) : State :=
  let h := s.ch c n
  match h.stopped with
  | some (cause, tval) =>
    if h.recorded || !h.stopSettled then s
    else (s.postFault c 5 cause tval 0 1 (copyExt c n h)).updCh c n (fun h => { h with recorded := true })
  | none => s

/-- An access of a copy stops it (04 R78, R75): a resumable cause holds it at its line, any other ends it once the lines in flight complete. -/
def stopCopy (s : State) (c n : Nat) (e : Stop) : State :=
  match e with
  | .trap cause tval =>
    let s := s.stopReqs c (chanAgent n) cause
    if cause.resumable then
      recordStop (s.updCh c n (fun h =>
        { h with stopped := some (cause, tval), recorded := false, emptyAt := none, slot := h.slot && cause == .hostNotPresent })) c n
    else (s.noteFault c cause tval).updCh c n (fun h => { h with failed := some cause, emptyAt := none, slot := false })
  | .empty l => s.updCh c n (fun h => { h with emptyAt := some l })
  | .ask a _ => s.post c (chanAgent n) a
  | .log => s.updCh c n (fun h => { h with logWait := true })
  | _ => s

/-- Whether the task of a core is resident and not draining, so that its engines and copies move. -/
def Core.moving (k : Core) : Bool := k.phase == .running

/-- Memory requests outstanding in a core (04 R70): the scalar accesses and the lines of its copies that have been issued and wait for an answer, and the lines in flight. -/
def Core.outstanding (k : Core) : Nat :=
  (k.chan.map (fun p => p.2.flight.length + p.2.slot.toNat)).sum + (k.cx.filter (fun q => q.2.live && q.2.slot)).length

/-- Whether lines of a copy that BSEL has chosen wait for their translation, which comes before that of any later line (04 R78; 06 R120). -/
def Chan.untranslated (h : Chan) : Bool := h.tag == 0 && h.t.dkind == 1 && h.flight.any (·.dst.isNone)

/-- Whether a copy may issue its next line: it is not stopped or failed, the core has a request slot or the line holds one (04 R70), the lines before it are translated, and a tagged copy buffers at most 32 lines (R120). -/
def canIssue (k : Core) (h : Chan) : Bool :=
  k.moving && h.phase == .lines && h.stopped.isNone && h.failed.isNone && decide (h.issued < h.total) && !h.untranslated
    && (h.slot || decide (k.outstanding < 8192)) && (h.tag == 0 || decide (h.flight.length < 32))

/-- The translated pieces of a line's destination in virtual memory (R340). -/
def dstPieces (c : Nat) (h : Chan) (l : Nat) (s : State) : Ex (List (Target × Nat × Nat) × State) :=
  pieces c 2 (lineAddr h.dst h.t.dstride h.t.seglines l) .write 2 128 s

/-- COPY_LINE_ISSUE (R340): the await and acquire of a copy that has not made them (R339), else its next line: the source is read and the destination translated. -/
def execCopyLineIssue (s : State) : Out :=
  let c := s.unit
  let n := s.arg
  let k := s.core c
  let h := k.ch n
  if k.moving && h.phase == .await then
    if k.semReady h.t.aw then
      let s := s.updCore c (fun k => (k.semTake h.t.aw).updCh n (fun h => { h with phase := if h.t.qidx then .reply else .lines }))
      .next (if h.t.acq then s.refresh c h.t.scope else s)
    else .next s
  else if canIssue k h then
    let r : Ex (Line × State) := do
      let (ps, s) ← if h.t.dkind = 1 ∧ h.tag = 0 then do
          let (ps, s) ← dstPieces c h h.issued s
          .ok (some ps, s)
        else .ok (none, s)
      let (d, s) ← readLine s c n h
      .ok ({ line := h.issued, data := d, dst := ps }, s)
    match r with
    | .error (.ask a qs) => .next (stopCopy (s.updCh c n (fun h => { h with slot := true })) c n (.ask a qs))
    | .error e => .next (stopCopy s c n e)
    | .ok (l, s) =>
      .next ((s.dropReqs c (chanAgent n)).updCh c n (fun h =>
        { h with issued := h.issued + 1, flight := h.flight ++ [l], emptyAt := none, slot := false }))
  else .next s

/-- Every context that waits on a byte barrier is released with the trap "barrier overrun" (06 R129). -/
def Core.releaseBarrier (k : Core) (n : Nat) : Core :=
  { k with
    copyTraps := k.copyTraps ++ ((k.cx.filter (fun q => q.2.live && q.2.held == some (.barrier n))).map (fun q => (q.1, .barrierOverrun, n)))
    cx := k.cx.mapVals {} (fun _ q => if q.held = some (.barrier n) then { q with held := none } else q) }

/-- A landed line counts 128 bytes on a byte barrier; below 0 it goes to overrun, which the channel records and which releases the waiting contexts (06 R129). -/
def countLine (s : State) (c n : Nat) : State :=
  let h := s.ch c n
  if h.t.bbv then
    let b := (s.core c).bb.get {} h.t.bb
    if b.count < 128 then
      (s.updCore c (fun k => { k with bb := k.bb.put {} h.t.bb { count := 0, overrun := true } }.releaseBarrier h.t.bb)).postFault c 5 .barrierOverrun h.t.bb 0 1 (copyExt c n h)
    else s.updCore c (fun k => { k with bb := k.bb.put {} h.t.bb { b with count := b.count - 128 } })
  else s

/-- Writes one line at its destination (R340, R342): a scratchpad line gets its full bit, and a buffer's row counts when its last line has landed. ps has the destination's pieces where they have been translated. -/
def writeLine (s : State) (c n l : Nat) (d : List Byte) (ps : Option (List (Target × Nat × Nat))) : Ex State := do
  let h := s.ch c n
  let k := s.core c
  let spad (a : Nat) : Ex State := do
    s.logRoom c none [a / 128]
    .ok (s.updCore c (fun k => (k.spadWrite a d).setFull true [a / 128]))
  let done (s : State) : State :=
    let s := s.updCore c (fun k => (k.updCh n (fun h => { h with landed := h.landed ++ [l] })).mxCount 4 1)
    countLine s c n
  match h.t.dkind with
  | 0 => do .ok (done (← spad (lineAddr h.dst h.t.dstride h.t.seglines l)))
  | 3 =>
    let b := k.buf h.dst
    await (decide (b.fill < b.sizem1 + 1) && decide (8 * (l / 8) ≤ h.landed.length))
    let s := done (← spad (1024 * b.rowOf b.wcnt + 128 * (l % 8)))
    if (h.landed.filter (fun j => j / 8 == l / 8)).length = 7 then
      .ok (s.updCore c (fun k => { k with cb := k.cb.put {} h.dst { b with wcnt := (b.wcnt + 1) % 2 ^ 32 } }))
    else .ok s
  | _ => do
    let (ps, s) ← match ps with
      | some ps => .ok (ps, s)
      | none => dstPieces c h l s
    let s ← writePieces c (chanAgent n) none ps d s
    .ok (done s)

/-- Whether line l may land now: one that its destination's translation may still stop lands in order, and not while the copy is stopped (04 R78). -/
def Chan.mayLand (h : Chan) (l : Line) : Bool :=
  h.tag == 0 && (l.dst.isSome || h.t.dkind != 1 || (h.stopped.isNone && h.flight.all (fun m => decide (l.line ≤ m.line))))

/-- A line of a checking copy is kept until the check (07 R157), translated in its place in the order of lines (04 R78). -/
def keepLine (s : State) (c n : Nat) (l : Line) : Ex State := do
  let h := s.ch c n
  let (l, s) ← if h.t.dkind = 1 ∧ l.dst.isNone then do
      let (ps, s) ← dstPieces c h l.line s
      .ok ({ l with dst := some ps }, s)
    else .ok (l, s)
  .ok (s.updCh c n (fun h => { h with kept := h.kept ++ [l] }))

/-- COPY_LINE_LAND (R340; 06 R127, R129): line of channel ch lands. A checking copy keeps its lines until the check (07 R157); a tagged copy lands none (06 R120). A line that fails for good does not land, and the copy ends once the others have (04 R78). -/
def execCopyLineLand (core ch line : Nat) (s : State) : Out :=
  let h := s.ch core ch
  match h.flight.find? (fun p => p.line == line) with
  | none => .next s
  | some l =>
    let drop (h : Chan) : Chan := { h with logWait := false, flight := h.flight.filter (fun p => p.line != line) }
    if !h.mayLand l then .next s
    else
      match (if h.t.check then keepLine s core ch l else writeLine s core ch line l.data l.dst) with
      | .error (.trap cause tval) =>
        if cause.resumable then .next (stopCopy s core ch (.trap cause tval))
        else .next ((stopCopy s core ch (.trap cause tval)).updCh core ch drop)
      | .error e => .next (stopCopy s core ch e)
      | .ok t => .next (recordStop ((t.dropReqs core (chanAgent ch)).updCh core ch drop) core ch)

/-- COPY_REPLY_POP (R341; 09 R204): a QIDX copy pops the reply and checks the layout, or ends. -/
def execCopyReplyPop (s : State) : Out :=
  let c := s.unit
  let n := s.arg
  let k := s.core c
  let h := k.ch n
  match k.moving && h.phase == .reply, k.queue 7 with
  | true, e :: r =>
    let s := s.updCore c (·.setQueue 7 r)
    if bitsOf e.toNat 35 32 ≠ 0 then .next (failCopy s c n .samplerReply h.tidx)
    else
      let h' := { h with token := e.toNat % 2 ^ 32, phase := .lines }
      match layoutCheck s c h' with
      | .error (.trap cause _) => .next (failCopy s c n cause h.tidx)
      | _ => .next (s.updCh c n (fun _ => h'))
  | _, _ => .next s

/-- The trailer check of a checking copy (07 R155 to R157): the CRC of its data lines, and the format. -/
def trailerOk (h : Chan) : Bool :=
  let lines := (List.range h.total).map (fun l => ((h.kept.find? (·.line == l)).getD {}).data)
  let data := (lines.take (h.total - 1)).flatten
  let tr := ofBytes ((lines.getLastD []).take 16)
  bitsOf tr 127 96 == crc32c data && bitsOf tr 77 72 == h.t.cfmt

/-- The 24 bytes of a follow-on word as a number, marked where one of its words is poisoned (R344; 06 R126). -/
def followBits (k : Core) (a : Nat) : Nat :=
  k.spad.num a 24 + (if (List.range 3).any (fun i => k.spoison.get false (a / 8 + i)) then 2 ^ 192 + a * 2 ^ 193 else 0)

/-- Steps 1 to 3 of the finish (R343): the check, after which the kept lines land together, the hand-over of the follow-on word, and the release; every line that has landed at a peer has had its acknowledge (08 R184). -/
def finishLines (s : State) (c n : Nat) : Ex State := do
  let h := s.ch c n
  let s ← if h.t.check then
      h.kept.foldlM (fun s p => writeLine s c n p.line p.data p.dst) s
    else .ok s
  let s := (s.dropReqs c (chanAgent n)).updCh c n (fun h => { h with handed := true, kept := [] })
  let s := if h.t.fov then
      (s.noteRead c 4 (h.t.foaddr / 8) (h.t.foaddr / 8 + 3)).updCore c (fun k => { k with follow := k.follow ++ [followBits k h.t.foaddr] })
    else s
  .ok (if h.t.rel then s.publish c h.t.scope (fun a part => a == chanAgent n && part) else s)

/-- Step 4 (R343): the counter add, to this interface or through a peer window. -/
def finishCount (s : State) (c n : Nat) : Ex State := do
  let h := s.ch c n
  match h.t.evkind with
  | 1 => .ok (s.evRelease c ((s.vi (s.core c).tk.vi).evbase + h.t.evidx) h.t.evamt)
  | 2 => do
    let d := s.peerWin c (chanAgent n) h.t.evwin
    need (bitAt d 26 && bitAt d 25) .peerDenied h.tidx
    let cmd : PeerCmd := { op := 5, ctx := bitsOf d 23 12, paddr := h.t.evidx, len := 8, data := h.t.evamt, ord := ordOf 4 false true }
    let _ ← s.peerAnswer c (chanAgent n) (2 ^ 63) (bitsOf d 11 0) cmd h.tidx
    .ok s
  | _ => .ok s

/-- Whether every line of a copy has landed, or has arrived for its check. -/
def Chan.arrived (h : Chan) : Bool :=
  h.phase == .lines && h.failed.isNone && h.stopped.isNone && h.flight.isEmpty && decide (h.issued = h.total)

/-- COPY_FINISH (R343): the steps after the last landing, or the end of a copy that failed once its lines in flight are done (04 R78). -/
def execCopyFinish (s : State) : Out :=
  let c := s.unit
  let n := s.arg
  let h := s.ch c n
  match h.failed with
  | some cause => .next (if h.flight.isEmpty then failCopy s c n cause h.tidx else s)
  | none =>
    if !h.arrived || h.tag ≠ 0 then .next s
    else if !h.handed && h.t.check && !trailerOk h then .next (failCopy s c n .trailerMismatch h.tidx)
    else
      match (if h.handed then .ok s else finishLines s c n) with
      | .error e => .next (stopCopy s c n e)
      | .ok s =>
        match finishCount s c n with
        | .error (.trap cause _) => .next (failCopy s c n cause h.tidx)
        | .error e => .next (stopCopy s c n e)
        | .ok t =>
          if (t.core c).semFull h.t.rs then .next (failCopy t c n .semOverflow h.tidx)
          else .next (((t.dropReqs c (chanAgent n)).completed c (chanAgent n)).updCore c (fun k => { (k.semRaise h.t.rs) with chan := k.chan.put {} n {} }))

end Sys2Proof.Machine
end

