-- ==== Sys2Proof/Machine/Memory.lean ====
section
/-! DEFINITION. Scalar loads and stores (13 R264, R278). -/

namespace Sys2Proof.Machine

/-- The bytes of a load's or store's TY (12 R242). -/
def tyBytes (ty : Nat) : Nat := 2 ^ (ty % 4)

/-- What a load gives from the bytes read: sign-extended for i8, i16 and i32 (R278). -/
def loadValue (ty x : Nat) : Nat := if ty < 3 then wrapNat (Sys2Proof.sext x (8 * tyBytes ty)) 64 else x

/-- An effective address modulo 2^64 (R264). -/
def effAddr (q : Ctx) (base disp : Nat) : Nat := wrapNat (base + immS q 12 disp) 64

/-- Whether the core has a request slot for context x: one of 8 192, which the context's own access may hold already (04 R70). -/
def Core.mayAsk (k : Core) (x : Nat) : Bool := (k.cx.get {} x).slot || decide (k.outstanding < 8192)

/-- A scalar load of type ty at EA: its bytes as a number, with the state after it. ld.n64 alone reaches the aperture (R264, R278). -/
def loadAt (s : State) (c x ea ty : Nat) : Ex (Nat × State) := do
  let k := s.core c
  let n := tyBytes ty
  match ← placeOf k ea n with
  | .spad => do
    let (bs, t) ← s.spadGet c ea n
    .ok (ofBytes bs, t)
  | .aperture => do
    need (ty == 7) .controlValue ea
    .ok (← apertureLoad k ea, s)
  | .virt => do
    await (k.mayAsk x)
    let (bs, t) ← atEa ea (vread c 1 x (k.tagOf x) ea n s)
    .ok (ofBytes bs, t)

/-- A scalar store of the n low bytes of v at EA (R264, R278). -/
def storeAt (s : State) (c x ea n v : Nat) : Ex State := do
  let k := s.core c
  match ← placeOf k ea n with
  | .spad => scalarSpadStore s c ea (toBytes n v)
  | .aperture => do
    need (n == 8) .controlValue ea
    apertureStore s c x ea v
  | .virt => do
    await (k.mayAsk x)
    atEa ea (vwrite c 1 x (k.tagOf x) ea (toBytes n v) s)

/-- LD (R278). -/
def execLd (d a ty disp : Nat) (s : State) : Out :=
  runScalar .plain 0 (withRegs [a] (some d) (fun _ => .ok ()) (fun vs t => do
    let (v, u) ← loadAt t t.c t.x (effAddr (t.cx t.c t.x) (vs.getD 0 0) disp) ty
    .ok (u.dropReqs t.c t.x, some (loadValue ty v), .seq))) s

/-- ST (R278): sD is a source. -/
def execSt (d a ty disp : Nat) (s : State) : Out :=
  runScalar .plain 0 (withRegs [a, d] none (fun _ => .ok ()) (fun vs t => do
    let u ← storeAt t t.c t.x (effAddr (t.cx t.c t.x) (vs.getD 0 0) disp) (tyBytes ty) (vs.getD 1 0)
    .ok (u.dropReqs t.c t.x, none, .seq))) s

end Sys2Proof.Machine
end

