-- ==== Sys2Proof/Machine/Strong.lean ====
section
/-! DEFINITION. Strong accesses, atomics, exact accumulator instructions and event counters (08 R175, R176; 13 R279 to R283). -/

namespace Sys2Proof.Machine

/-- A strong access traps in a step of an open window (R284). -/
def noWindow (s : State) : Ex Unit :=
  match (s.cx s.c s.x).window with
  | some n => .error (.trap .strongInWindow n)
  | none => .ok ()

/-- The checks on a strong access's address (R279): alignment, place, translation; none is the scratchpad. host says whether host memory takes the access (01 R15). -/
def strongHome (s : State) (ea n : Nat) (nd : Need) (host : Bool) : Ex (Option Target × State) := do
  let k := s.core s.c
  noWindow s
  need (ea % n == 0) .misaligned ea
  match ← placeOf k ea n with
  | .spad => .ok (none, s)
  | .aperture => .error (.trap .controlValue ea)
  | .virt => do
    if !host then noHostAtomic s s.c ea ea nd
    await (k.mayAsk s.x)
    let (t, l) ← translate s s.c ea nd
    let s ← useLeaf s.c 1 l s
    .ok (some t, s)

/-- Whether an order has acquire (12 R244). -/
def acqOf (order : Nat) : Bool := bitAt order 0
/-- Whether an order has release (12 R244). -/
def relOf (order : Nat) : Bool := bitAt order 1

/-- What an acquire does once its read has been made at a word (08 R175, R177): later accesses come after it. -/
def State.acquired (s : State) (order scope w : Nat) : State :=
  if acqOf order then (s.acquire s.c scope w).orderHost s.c else s

/-- What an acquire does once its read has been made in the scratchpad or at a peer: later accesses come after it, and at system scope the core knows what the parties outside have passed on (08 R171, R175, R177; log 7). -/
def State.acquiredAway (s : State) (order scope : Nat) (peer : Bool) : State :=
  if acqOf order then (if peer && decide (4 ≤ scope) then s.learn s.c s.farKnow else s).orderHost s.c else s

/-- What a release waits for: every earlier strong access of the context (08 R175). -/
def State.released (s : State) (order : Nat) : State := if relOf order then s.drainCx s.c s.x else s

/-- A strong read of n bytes (R279; 08 R175 to R177): a read at the home, and of peer and host memory an ordinary read there (01 R15, R17). -/
def strongLoad (s : State) (h : Option Target) (ea n order scope : Nat) : Ex (List Byte × State) :=
  let c := s.c
  match h with
  | none => do
    let (b, t) ← s.spadGet c ea n
    .ok (b, t.acquiredAway order scope false)
  | some (.dev pa) => do
    need (!s.devPoison c pa n) .poison ea
    let (b, t) := s.strongRead c 0 pa n
    .ok (b, t.acquired order scope (pa / 8))
  | some (.peer w o) => do
    let b ← s.peerReadLine c s.x w o n ea (ordOf scope (acqOf order) false)
    .ok (b, s.acquiredAway order scope true)
  | some (.host ha) =>
    let (b, t) := s.hostStrongRead c ha n
    .ok (b, t.acquired order scope (hostWords + ha / 8))

/-- A target some bytes further on in the same page. -/
def Target.plus (t : Target) (k : Nat) : Target :=
  match t with
  | .dev pa => .dev (pa + k)
  | .peer w o => .peer w (o + k)
  | .host ha => .host (ha + k)

/-- LDA (R279). -/
def execLda (d a width scope order : Nat) (s : State) : Out :=
  runScalar .plain 0 (withRegs [a] (some d) (fun _ => .ok ()) (fun vs t => do
    let ea := vs.getD 0 0
    let n := 2 ^ width
    let (h, t) ← strongHome t ea n .read true
    let (b, t) ← strongLoad t h ea n order scope
    .ok (t.dropReqs t.c t.x, some (ofBytes b), .seq))) s

/-- STL (R279): a strong write sets out for its home, in order with what a release orders (08 R175, R176). -/
def execStl (a b width scope order : Nat) (s : State) : Out :=
  runScalar .plain 0 (withRegs [a, b] none (fun _ => .ok ()) (fun vs t => do
    let ea := vs.getD 0 0
    let n := 2 ^ width
    let bs := toBytes n (vs.getD 1 0)
    let (h, t) ← strongHome t ea n .write true
    let c := t.c
    match h with
    | none => do
      .ok (← scalarSpadStore (t.released order) c ea bs, none, .seq)
    | some (.dev pa) => .ok (t.strongSend c t.x 0 pa scope (relOf order) bs, none, .seq)
    | some (.peer w o) => do
      let t := t.released order
      let t ← t.peerWriteAt c t.x w o ea (ordOf scope false (relOf order)) bs
      .ok (t.dropReqs c t.x, none, .seq)
    | some (.host ha) => .ok (t.strongSend c t.x hostWords ha scope (relOf order) bs, none, .seq))) s

/-! ### Atomics -/

/-- Whether a floating-point add to device memory is held: ordered mode of its slice or of its launch (R282). -/
def faddHeld (s : State) (pa : Nat) : Bool :=
  (s.core s.c).tk.ordered || (match sliceOfPa pa with | some sl => (s.slice sl).atommode == 1 | none => false)

/-- The slice holds a floating-point add with its sort keys (R282). -/
def holdFadd (s : State) (pa n x : Nat) : State :=
  let t := (s.core s.c).tk
  let h : HeldFadd := { launch := t.launch, addr := pa, n := n, x := x, vcore := t.vcore, item := t.item, cx := s.x
                        cnt := (s.cx s.c s.x).fadds }
  s.updSlice ((sliceOfPa pa).getD 0) (fun e => { e with heldAdds := e.heldAdds ++ [h] })

/-- The read and write of an atomic at its home, which nothing comes between (R280): the value before, and the flags. -/
def amoHome (s : State) (base a n scope order : Nat) (apply : Nat → Nat × Bool × Nat) : Nat × Nat × State :=
  let c := s.c
  let (b, t) := (s.released order).strongRead c base a n
  let t := t.acquired order scope (base + a / 8)
  let (new, wr, fl) := apply (ofBytes b)
  (ofBytes b, fl, if wr then t.strongWrite c t.x base a scope (relOf order) (toBytes n new) else t)

/-- The atomic read-modify-write (R280): fn is FN[5:1], width FN[0]; for cas sD is a source too. -/
def amo (fn d a b width scope order : Nat) (s : State) : Out :=
  runScalar .plain 0 (withRegs (if fn = 2 then [a, b, d] else [a, b]) (some d) (fun _ => .ok ()) (fun vs t => do
    let ea := vs.getD 0 0
    let x := vs.getD 1 0
    let n := if width = 0 then 4 else 8
    let (h, t) ← strongHome t ea n .both (decide (fn < 3))
    let c := t.c
    let apply (old : Nat) : Nat × Bool × Nat := amoResult fn (8 * n) old x (vs.getD 2 0)
    let count (t : State) : State := if fn = 10 then t.updCx c t.x (fun q => { q with fadds := q.fadds + 1 }) else t
    match h with
    | none => do
      let (b, t) ← (t.released order).spadGet c ea n
      let old := ofBytes b
      let (new, wr, fl) := apply old
      let t ← if wr then scalarSpadStore t c ea (toBytes n new) else .ok t
      .ok (count ((t.acquiredAway order scope false).updCore c (·.orFlags fl)), some old, .seq)
    | some (.dev pa) => do
      need (!t.devPoison c pa n) .poison ea
      if fn = 10 && faddHeld t pa then .ok (count (holdFadd (t.released order) pa n (x % 2 ^ (8 * n))), some 0, .seq)
      else
        let (old, fl, t) := amoHome t 0 pa n scope order apply
        .ok (count (t.updCore c (·.orFlags fl)), some old, .seq)
    | some (.peer w o) => do
      let t := t.released order
      let dsc := t.peerWin c t.x w
      let data := x % 2 ^ (8 * n) + (if fn = 2 then vs.getD 2 0 % 2 ^ (8 * n) * 2 ^ 64 else 0)
      let cmd := peerCmd dsc 3 o 8 (2 * fn + width) data (ordOf scope (acqOf order) (relOf order))
      let old ← t.peerAnswer c t.x (8 * peerKey w o + 5) (bitsOf dsc 11 0) cmd ea
      let (_, _, fl) := apply (old % 2 ^ (8 * n))
      let t := (t.dropReqs c t.x).updCore c (·.orFlags fl)
      .ok (count (t.acquiredAway order scope true), some (old % 2 ^ (8 * n)), .seq)
    | some (.host ha) =>
      let (old, _, t) := amoHome t hostWords ha n scope order apply
      .ok (t, some old, .seq))) s

/-- AMO_ADD (R280). -/
def execAmoAdd (d a b width scope order : Nat) (s : State) : Out := amo 0 d a b width scope order s
/-- AMO_SWAP (R280). -/
def execAmoSwap (d a b width scope order : Nat) (s : State) : Out := amo 1 d a b width scope order s
/-- AMO_CAS (R280): a queue in D traps queue direction, being a source. -/
def execAmoCas (d a b width scope order : Nat) (s : State) : Out := amo 2 d a b width scope order s
/-- AMO_AND (R280). -/
def execAmoAnd (d a b width scope order : Nat) (s : State) : Out := amo 3 d a b width scope order s
/-- AMO_OR (R280). -/
def execAmoOr (d a b width scope order : Nat) (s : State) : Out := amo 4 d a b width scope order s
/-- AMO_XOR (R280). -/
def execAmoXor (d a b width scope order : Nat) (s : State) : Out := amo 5 d a b width scope order s
/-- AMO_MIN (R280). -/
def execAmoMin (d a b width scope order : Nat) (s : State) : Out := amo 6 d a b width scope order s
/-- AMO_MAX (R280). -/
def execAmoMax (d a b width scope order : Nat) (s : State) : Out := amo 7 d a b width scope order s
/-- AMO_MINU (R280). -/
def execAmoMinu (d a b width scope order : Nat) (s : State) : Out := amo 8 d a b width scope order s
/-- AMO_MAXU (R280). -/
def execAmoMaxu (d a b width scope order : Nat) (s : State) : Out := amo 9 d a b width scope order s
/-- AMO_FADD (R280, R282). -/
def execAmoFadd (d a b width scope order : Nat) (s : State) : Out := amo 10 d a b width scope order s

/-! ### Exact accumulator objects (R281; 07 R163 to R166) -/

/-- Steps 1 to 4 of R281: class, alignment, translation, target. -/
def xobjHome (s : State) (ea : Nat) (nd : Need) : Ex (Target × State) := do
  noWindow s
  need (decide (0x80000 ≤ ea)) .atomicUnsupported ea
  need (decide (2 ^ 20 ≤ ea)) .controlValue ea
  need (ea % 8 == 0) .misaligned ea
  noHostAtomic s s.c ea ea nd
  await ((s.core s.c).mayAsk s.x)
  let (t, l) ← translate s s.c ea nd
  let s ← useLeaf s.c 1 l s
  .ok (t, s)

/-- Step 5 of R281: the number of bins of the object with a header, all of them in the header's page. -/
def xobjCheck (hdr ea : Nat) : Ex Nat := do
  need (decide (ea % 4096 + 16 + 8 * bitsOf hdr 21 16 ≤ 4096)) .misaligned ea
  match xobjBins hdr with
  | none => .error (.trap .accInvalid ea)
  | some b => .ok b

/-- The object at a local address with its number of bins, read at its home (R281). The core's own writes to the page come first. -/
def xobjAt (s : State) (pa ea : Nat) : Ex (Nat × State) := do
  let c := s.c
  need (decide (ea % 4096 + 16 ≤ 4096)) .misaligned ea
  need (!s.devPoison c pa 16) .poison ea
  let s := s.performPage c pa
  let n ← xobjCheck (s.mem.num pa 16) ea
  need (!s.devPoison c pa (16 + 8 * n)) .poison ea
  .ok (n, s)

/-- XADD (R281): the home slice's exact add. A peer that refuses it says no more than that, so the header then tells the cause. -/
def execXadd (a b scope order : Nat) (s : State) : Out :=
  runScalar .plain 0 (withRegs [a, b] none (fun _ => .ok ()) (fun vs t => do
    let ea := vs.getD 0 0
    let (h, t) ← xobjHome t ea .both
    let c := t.c
    match h with
    | .peer w o => do
      need (decide (ea % 4096 + 16 ≤ 4096)) .misaligned ea
      let t := t.released order
      let dsc := t.peerWin c t.x w
      let cmd := peerCmd dsc 4 o 8 0 (vs.getD 1 0) (ordOf scope (acqOf order) (relOf order))
      match t.peerAnswer c t.x (8 * peerKey w o + 6) (bitsOf dsc 11 0) cmd ea with
      | .error (.trap .peerDenied _) => do
        let hdr ← t.peerHeader c t.x w o ea
        let _ ← xobjCheck hdr ea
        .error (.trap .peerDenied ea)
      | .error e => .error e
      | .ok _ => .ok ((t.dropReqs c t.x).acquiredAway order scope true, none, .seq)
    | .dev pa => do
      let (n, t) ← xobjAt t pa ea
      let (hdr, bins) := xobjAdd (t.mem.num pa 16) (binsOf (t.mem.bytes (pa + 16) (8 * n)) n) (d64 (vs.getD 1 0))
      let (_, t) := (t.released order).strongRead c 0 pa (16 + 8 * n)
      let t := t.acquired order scope (pa / 8)
      .ok (t.strongWrite c t.x 0 pa scope (relOf order) (xobjBytes hdr bins), none, .seq)
    | _ => .ok (t, none, .seq))) s

/-- XRD (R281): the home slice's exact read; a peer object travels as a read of the whole object, as far as its page goes, in one flit. -/
def execXrd (d a scope order : Nat) (s : State) : Out :=
  runScalar .plain 0 (withRegs [a] (some d) (fun _ => .ok ()) (fun vs t => do
    let ea := vs.getD 0 0
    let (h, t) ← xobjHome t ea .read
    let c := t.c
    let mode := modeOf (t.cx c t.x)
    let result (obj : List Byte) (n : Nat) (t : State) : State × Option Nat × Flow :=
      let (v, fl) := xobjRead (ofBytes (obj.take 16)) mode (binsOf (obj.drop 16) n)
      (t.updCore c (·.orFlags fl), some v, .seq)
    match h with
    | .peer w o => do
      need (decide (ea % 4096 + 16 ≤ 4096)) .misaligned ea
      let obj ← t.peerReadAll c t.x w o (min 520 (4096 - ea % 4096)) ea (ordOf scope (acqOf order) false)
      let n ← xobjCheck (ofBytes (obj.take 16)) ea
      let t := t.dropReqs c t.x
      .ok (result obj n (t.acquiredAway order scope true))
    | .dev pa => do
      let (n, t) ← xobjAt t pa ea
      let (obj, t) := t.strongRead c 0 pa (16 + 8 * n)
      .ok (result obj n (t.acquired order scope (pa / 8)))
    | _ => .ok (t, none, .seq))) s

/-! ### Event counters (R283) -/

/-- The counter that a local index names (03 R42). -/
def evOf (s : State) (i : Nat) : Nat := (s.vi (s.core s.c).tk.vi).evbase + i

/-- The checks on a counter's local index and on the place of the access. -/
def evCheck (s : State) (i : Nat) : Ex Unit := do
  claim (s.core s.c) (.ev i) i
  noWindow s

/-- EVADD (R283): a release at system scope, which comes after every earlier strong access of the context. -/
def execEvadd (d a b : Nat) (s : State) : Out :=
  runScalar .plain 0 (withRegs [a, b] (some d) (fun _ => .ok ()) (fun vs t => do
    evCheck t (vs.getD 0 0)
    let e := evOf t (vs.getD 0 0)
    .ok ((t.drainCx t.c t.x).evRelease t.c e (vs.getD 1 0), some (t.counter e).toNat, .seq))) s

/-- EVWAIT (R283): an acquire at system scope when it completes. -/
def execEvwait (d a b : Nat) (s : State) : Out :=
  runScalar .plain 0 (withRegs [a, b] (some d) (fun _ => .ok ()) (fun vs t => do
    evCheck t (vs.getD 0 0)
    let e := evOf t (vs.getD 0 0)
    let v := (t.counter e).toNat
    await (decide (vs.getD 1 0 ≤ v))
    .ok ((t.evAcquire t.c e).orderHost t.c, some v, .seq))) s

/-- EVRD (R283): a relaxed strong read. -/
def execEvrd (d a : Nat) (s : State) : Out :=
  runScalar .plain 0 (withRegs [a] (some d) (fun _ => .ok ()) (fun vs t => do
    evCheck t (vs.getD 0 0)
    .ok (t, some (t.counter (evOf t (vs.getD 0 0))).toNat, .seq))) s

end Sys2Proof.Machine
end

