-- ==== Sys2Proof/Machine/Sync.lean ====
section
/-! DEFINITION. Fences and phases, ring releases, semaphores, banks, byte barriers, circular buffers, full bits and tile bank power (13 R276, R284 to R289; 06 R111 to R131). -/

namespace Sys2Proof.Machine

/-! ### Fences and phases (R284; 08 R172, R177) -/

/-- FENCE: every earlier strong access of the context is performed, and later ones come after it; at core scope there is nothing to wait for, since the core's own accesses see each other. -/
def execFence (scope : Nat) (s : State) : Out :=
  runScalar .plain 0 (fun t => .ok (if scope = 0 then t else (t.drainCx t.c t.x).orderHost t.c, .seq)) s

/-- PHASE: publication, then refresh. -/
def execPhase (scope : Nat) (s : State) : Out :=
  runScalar .plain 0 (fun t => do
    noWindow t
    .ok ((t.publish t.c scope allDone).refresh t.c scope, .seq)) s

/-- PHASE_PUB. -/
def execPhasePub (scope : Nat) (s : State) : Out :=
  runScalar .plain 0 (fun t => do
    noWindow t
    .ok (t.publish t.c scope allDone, .seq)) s

/-- PHASE_REF. -/
def execPhaseRef (scope : Nat) (s : State) : Out :=
  runScalar .plain 0 (fun t => do
    noWindow t
    .ok (t.refresh t.c scope, .seq)) s

/-! ### Loop-count blocks (R276) -/

/-- LCBWAIT: the flag is read with acquire at device scope until it is nonzero, then each count by a relaxed strong read; nothing is armed. -/
def execLcbwait (a : Nat) (s : State) : Out :=
  runScalar .lcbwait (wordOf (.lcbwait a)) (withRegs [a] none (fun _ => .ok ()) (fun vs t => do
    let ea := vs.getD 0 0
    let c := t.c
    need (!(t.cx c t.x).loops.any (fun l => decide (l.n < 2))) .controlValue ea
    noWindow t
    need (ea % 8 == 0 && decide (ea % 4096 + 16 ≤ 4096)) .misaligned ea
    let _ ← placeOf (t.core c) ea 16
    let (h, t) ← strongHome t ea 8 .read true
    let (flag, t) ← strongLoad t h ea 8 1 3
    if ofBytes flag = 0 then throw .retry
    let (n0, t) ← strongLoad t (h.map (·.plus 8)) (ea + 8) 4 0 3
    let (n1, t) ← strongLoad t (h.map (·.plus 12)) (ea + 12) 4 0 3
    .ok ((t.dropReqs c t.x).updCx c t.x (fun q => { q with lc := (q.lc.put 0 0 (ofBytes n0)).put 0 1 (ofBytes n1) }), none, .seq))) s

/-! ### Releases (R285; 06 R111, R118) -/

/-- A ring after the release of j words, each tagged with the window's step; open banks hold them. -/
def releaseTo (r : Ring) (bank j : Nat) (tag : Option (Nat × Nat)) : Ring :=
  match bank with
  | 1 => { r with bankA := r.bankA ++ List.replicate j tag }
  | 2 => { r with bankB := r.bankB ++ List.replicate j tag }
  | _ =>
    { r with
      rel := r.rel + j
      tags := (List.range' r.rel j).foldl (fun m k => m.put none k tag) r.tags }

/-- The checks and the wait of a release, then the release. -/
def release (k : Core) (r : Ring) (j x : Nat) : Ex Ring := do
  need (decide (j ≤ r.size)) .controlValue j
  await (decide (r.rel + j + r.inBanks ≤ r.rd + r.size))
  .ok (releaseTo r k.bank j (k.tagOf x))

/-- RELROW. -/
def execRelrow (a : Nat) (s : State) : Out :=
  runScalar .plain 0 (withRegs [a] none (fun _ => .ok ()) (fun vs t => do
    let k := t.core t.c
    let r ← release k k.row (vs.getD 0 0) t.x
    .ok (t.updCore t.c (fun k => { k with row := r }), none, .seq))) s

/-- RELMAT. -/
def execRelmat (a : Nat) (s : State) : Out :=
  runScalar .plain 0 (withRegs [a] none (fun _ => .ok ()) (fun vs t => do
    let k := t.core t.c
    let r ← release k k.mat (vs.getD 0 0) t.x
    .ok (t.updCore t.c (fun k => { k with mat := r }), none, .seq))) s

/-! ### Semaphores (R286; 06 R113) -/

/-- SEMRAISE: an overflow leaves the semaphore and traps in the main context, which a tail's own instruction does not wait for. -/
def execSemraise (n : Nat) (s : State) : Out :=
  runScalar .plain 0 (fun t => do
    let k := t.core t.c
    claim k (.sem n) n
    if k.semFull n then
      if t.x = 0 then throw (.trap .semOverflow n) else .ok (t.mainTrap t.c .semOverflow n, .seq)
    else .ok (t.updCore t.c (·.semRaise n), .seq)) s

/-- SEMWAIT: test and decrease in one step. -/
def execSemwait (n : Nat) (s : State) : Out :=
  runScalar .plain 0 (fun t => do
    let k := t.core t.c
    claim k (.sem n) n
    await (k.semReady n)
    .ok (t.updCore t.c (·.semTake n), .seq)) s

/-! ### Dual banks (R287; 06 R118 to R120) -/

/-- BOPEN. -/
def execBopen (s : State) : Out :=
  runScalar .plain 0 (fun t => do
    let k := t.core t.c
    need (k.bank == 0) .controlValue k.bank
    .ok (t.updCore t.c (fun k => { k with bank := 1 }), .seq)) s

/-- BSWITCH. -/
def execBswitch (s : State) : Out :=
  runScalar .plain 0 (fun t => do
    let k := t.core t.c
    need (k.bank == 1) .controlValue k.bank
    .ok (t.updCore t.c (fun k => { k with bank := 2 }), .seq)) s

/-- A ring after BSEL (R119). -/
def selectBank (r : Ring) (first : Bool) : Ring :=
  let a := r.bankA.length
  let tagged (m : Store (Option (Nat × Nat))) (at_ : Nat) (l : List (Option (Nat × Nat))) : Store (Option (Nat × Nat)) :=
    (l.zip (List.range' at_ l.length)).foldl (fun m p => m.put none p.2 p.1) m
  if first then { r with rel := r.rel + a, tags := tagged r.tags r.rel r.bankA, bankA := [], bankB := [] }
  else
    { r with
      rel := r.rel + a + r.bankB.length
      tags := tagged r.tags (r.rel + a) r.bankB
      cancelled := r.cancelled ++ List.range' r.rel a
      bankA := [], bankB := [] }

/-- A copy whose bank BSEL has chosen (R120): its destination lines are cleared, the rows of a circular buffer that it has read ahead are passed (15 R342), and it goes on untagged. -/
def Core.chooseCopy (k : Core) (n : Nat) : Core :=
  let h := k.ch n
  let k := k.setFull false h.dstLines
  (if h.t.skind = 3 then k.consume h.src (h.issued / 8) else k).updCh n (fun h => { h with tag := 0 })

/-- The tagged copies after BSEL (R120): those of the chosen bank go on untagged, the others end. -/
def selectCopies (s : State) (c tag : Nat) : State :=
  (List.range 16).foldl (fun s n =>
    let h := s.ch c n
    if h.tag = 0 then s
    else if h.tag = tag then
      s.updCore c (·.chooseCopy n)
    else (s.dropReqs c (chanAgent n)).updCore c (fun k => { k with chan := k.chan.put {} n {} })) s

/-- BSEL: all of its effects together. -/
def execBsel (kc : Nat) (s : State) : Out :=
  runScalar .plain 0 (fun t => do
    let k := t.core t.c
    need (k.bank != 0) .controlValue k.bank
    let first := condBit (t.cx t.c t.x) kc
    let t := t.updCore t.c (fun k => { k with bank := 0, row := selectBank k.row first, mat := selectBank k.mat first })
    .ok (selectCopies t t.c (if first then 1 else 2), .seq)) s

/-! ### Byte barriers and circular buffers (R288; 06 R129 to R131) -/

/-- BBARM. -/
def execBbarm (n a : Nat) (s : State) : Out :=
  runScalar .plain 0 (withRegs [a] none (fun k => claim k (.bb n) n) (fun vs t => do
    let b := (t.core t.c).bb.get {} n
    let v := if b.overrun then vs.getD 0 0 else b.count + vs.getD 0 0
    need (decide (v < 2 ^ 48)) .controlValue v
    .ok (t.updCore t.c (fun k => { k with bb := k.bb.put {} n { count := v, overrun := false } }), none, .seq))) s

/-- BBWAIT: a context that waits is released by the overrun itself (06 R129). -/
def execBbwait (n : Nat) (s : State) : Out :=
  runScalar .plain 0 (fun t => do
    let k := t.core t.c
    claim k (.bb n) n
    let b := k.bb.get {} n
    need (!b.overrun) .barrierOverrun n
    if b.count ≠ 0 then throw (.held (.barrier n))
    .ok (t, .seq)) s

/-- CBCONS. -/
def execCbcons (n a : Nat) (s : State) : Out :=
  runScalar .plain 0 (withRegs [a] none (fun k => claim k (.cb n) n) (fun vs t => do
    let c := vs.getD 0 0
    let b := (t.core t.c).buf n
    need (decide (c ≤ b.sizem1 + 1)) .controlValue c
    await (decide (c ≤ b.fill))
    .ok (t.updCore t.c (·.consume n c), none, .seq))) s

/-- A buffer's descriptor from its 256 bits (R130). -/
def cbufOf (x : Nat) : CBuf :=
  { wcnt := bitsOf x 255 224, rcnt := bitsOf x 223 192, sizem1 := bitsOf x 17 9, base := bitsOf x 8 0 }

/-- Whether a copy's destination is buffer n (R130). -/
def Core.bufTarget (k : Core) (n : Nat) : Bool :=
  k.chan.any (fun p => p.2.phase != .idle && p.2.t.dkind == 3 && p.2.dst == n)

/-- CBSET. -/
def execCbset (n a : Nat) (s : State) : Out :=
  runScalar .plain 0 (withRegs [a] none (fun k => claim k (.cb n) n) (fun vs t => do
    let ea := vs.getD 0 0
    let c := t.c
    let k := t.core c
    need (ea % 32 == 0) .controlValue ea
    need (decide (ea + 32 ≤ k.spadLimit)) .unclaimed ea
    let (bs, t) ← t.spadGet c ea 32
    let d := cbufOf (ofBytes bs)
    need (d.wcnt == d.rcnt && decide (1024 * (d.base + d.sizem1 + 1) ≤ k.spadLimit)) .controlValue (ofBytes (bs.take 8))
    need ((k.buf n).wcnt == (k.buf n).rcnt && !k.bufTarget n) .resourceBusy n
    .ok (t.updCore c (fun k => { k with cb := k.cb.put {} n d }), none, .seq))) s

/-! ### Full bits (R288; 06 R127) -/

/-- Whether a copy in flight targets a scratchpad line; of a circular buffer, in the rows that it has still to fill. -/
def Core.copyTargets (k : Core) (line : Nat) : Bool :=
  k.chan.any (fun p =>
    let h := p.2
    h.phase != .idle && h.tag == 0 &&
      (h.dstLines.contains line ||
        (h.t.dkind == 3 && (List.range (h.total / 8 - h.landed.length / 8)).any (fun i => (rowLines ((k.buf h.dst).rowOf ((k.buf h.dst).wcnt + i))).contains line))))

/-- empty and fullset; where a copy in flight targets the line its full bit is a free value (R288; log 3). -/
def setLine (full : Bool) (a : Nat) (s : State) : Out :=
  runScalar .plain 0 (withRegs [a] none (fun _ => .ok ()) (fun vs t => do
    let ad := vs.getD 0 0
    let k := t.core t.c
    need (ad % 128 == 0) .controlValue ad
    need (decide (ad + 128 ≤ k.spadLimit)) .unclaimed ad
    let full := if k.copyTargets (ad / 128) then Config.lineRace t.tick (ad / 128) else full
    .ok (t.updCore t.c (·.setFull full [ad / 128]), none, .seq))) s

/-- EMPTY. -/
def execEmpty (a : Nat) (s : State) : Out := setLine false a s
/-- FULLSET. -/
def execFullset (a : Nat) (s : State) : Out := setLine true a s

/-! ### Tile bank power (R289; 06 R124, R125) -/

/-- The tiles of a bank. -/
def bankTiles (b : Nat) : List Nat := if b = 3 then [12, 13, 14, 15, 16] else List.range' (4 * b) 4

/-- The state of a bank in TBPWR. -/
def Core.bankPower (k : Core) (b : Nat) : Nat := bitsOf k.tbpwr (2 * b + 1) (2 * b)

/-- Sets the state of a bank; from off to on its tiles read as zero (R125), and one that has gone from off to retention keeps what it held (log 46). -/
def Core.setBankPower (k : Core) (b st : Nat) : Core :=
  let k := if k.bankPower b = 0 ∧ st = 2 then
      let lo := 8192 * (4 * b)
      let hi := 8192 * (if b = 3 then 17 else 4 * b + 4)
      { k with tiles := k.tiles.filter (fun p => decide (p.1 < lo ∨ hi ≤ p.1)) }.written 0 (lo / 8) (hi / 8)
    else k
  { k with tbpwr := k.tbpwr - k.bankPower b * 4 ^ b + st * 4 ^ b }

/-- Whether a dequeued word that names a bank is executing (06 R125). -/
def Core.bankBusy (k : Core) (b : Nat) : Bool :=
  (k.row.word.isSome && k.row.banks.contains b) || ((k.mat.word.isSome || k.followGo) && k.mat.banks.contains b)

/-- PWR: it waits for a dequeued word that names the bank. -/
def execPwr (bank st : Nat) (s : State) : Out :=
  runScalar .plain 0 (fun t => do
    let k := t.core t.c
    need ((bankTiles bank).any (fun n => k.cl.has (.tile n))) .unclaimed bank
    await (k.bankPower bank == st || !k.bankBusy bank)
    .ok (if k.bankPower bank = st then t else t.updCore t.c (·.setBankPower bank st), .seq)) s

end Sys2Proof.Machine
end

