-- ==== Sys2Proof/Machine/Engine.lean ====
section
/-! DEFINITION. How a ring word runs: the check at dequeue, the await, the acquire, the body, the release and the raise, and its engine fault (06 R111 to R113; 12 R260; 13 R297; 14 R299, R300, R302; 04 R77). -/

namespace Sys2Proof.Machine

/-- The row ring, or the matrix ring where m. -/
def Core.ring (k : Core) (m : Bool) : Ring := if m then k.mat else k.row
/-- Applies f to a ring. -/
def Core.updRing (k : Core) (m : Bool) (f : Ring → Ring) : Core := if m then { k with mat := f k.mat } else { k with row := f k.row }
/-- Applies f to a ring of core c. -/
def State.updRing (s : State) (c : Nat) (m : Bool) (f : Ring → Ring) : State := s.updCore c (·.updRing m f)
/-- The agent number of an engine (13 R295). -/
def engineAgent (m : Bool) : Nat := if m then 4 else 3

/-- Accumulators are marked invalid: VALID is 0, and all else stays (06 R123; 15 R328). -/
def Core.spoilAccs (k : Core) (accs : List Nat) : Core :=
  { k with acctag := accs.foldl (fun t a => t.upd {} a (fun g => { g with valid := false })) k.acctag }

/-- The TVAL of an engine fault (13 R297). -/
def engineTval (m : Bool) (cause : Cause) (rd : Nat) : Nat := cause.code + (if m then 2 else 1) * 2 ^ 16 + rd % 2 ^ 32 * 2 ^ 32

/-- An engine fault on a word (12 R260; 13 R297): RD is at the word, the ring halts, the accumulators it names are invalid, the record with the word's bytes is posted, and the main context will trap; after done the item ends. -/
def State.haltWord (s : State) (c : Nat) (m : Bool) (cause : Cause) (tval bits : Nat) (accs : List Nat) : State :=
  let r := (s.core c).ring m
  let rd := if r.word.isSome then r.rd - 1 else r.rd
  let ends := !(s.cx c 0).live
  let s := if ends then s.abortWindows c else s
  let s := (s.dropReqs c (engineAgent m)).noteFault c cause tval
  let s := s.postFault c (engineAgent m) cause tval 0 2 (rd % 2 ^ 32 * 2 ^ 224 + bits)
  let s := s.updCore c (fun k => (k.spoilAccs accs).updRing m (fun r =>
    { r with rd := rd, word := none, halted := true, held := none, emptyAt := none, logWait := false, walked := [] }))
  if ends then s.endItem c true
  else s.updCore c (fun k => { k with engineTraps := k.engineTraps ++ [engineTval m cause rd] })

/-- What an engine needs of a word to run it. -/
structure Word where
  /-- The word's bits. -/
  bits : Nat
  aw : Nat
  rs : Nat
  acq : Bool
  rel : Bool
  scope : Nat
  /-- The accumulators that it names. -/
  accs : List Nat
  /-- The tile banks that it names. -/
  banks : List Nat
  /-- Whether it is well-formed for the task (12 R260). -/
  legal : Bool
  /-- The entries that it pops from q0 or q2, and pushes to q1 or q3 (14 R299). -/
  pops : Nat
  pushes : Nat
  /-- Whether it ends the ring (06 R112). -/
  notify : Bool

/-- Whether an engine may go on: its item runs, or drains while the word finishes (05 R95), and its ring is neither halted nor held nor ended. -/
def Core.engineFree (k : Core) (m : Bool) : Bool :=
  let r := k.ring m
  (k.phase == .running || (k.phase == .draining && r.word.isSome)) && !r.halted && r.held.isNone && !r.notified

/-- Whether a word may be dequeued: its await, its entries and its room (06 R113; 14 R299). -/
def Core.wordReady (k : Core) (m : Bool) (w : Word) : Bool :=
  k.semReady w.aw && decide (w.pops ≤ (k.queue (if m then 2 else 0)).length) && k.room (if m then 3 else 1) w.pushes

/-- The dequeue: the await is consumed, RD counts the word, Marionette counts it, and the acquire is made (06 R113, R133; 08 R179). The banks that it names stay noted until it is complete (06 R125). A word that a drain has abandoned has been counted (21 R371). -/
def State.dequeue (s : State) (c : Nat) (m : Bool) (w : Word) : State :=
  let s := s.updCore c (fun k =>
    let r := k.ring m
    let k := (k.semTake w.aw).updRing m (fun r => { r with rd := r.rd + 1, word := some w.bits, banks := w.banks, counted := 0, walked := [] })
    if r.counted = r.rd + 1 then k else k.mxCount (if m then 3 else 2) 1)
  if w.acq then s.refresh c w.scope else s

/-- The release of a word, if it has one, publishes the word's own writes; then they are complete (08 R179, R180). -/
def State.wordWrote (s : State) (c : Nat) (m : Bool) (w : Word) : State :=
  (if w.rel then s.publish c w.scope (fun a part => a == engineAgent m && part) else s).completed c (engineAgent m)

/-- A word has run: its flags, pops and pushes take effect, then its release and its raise (14 R300; 07 R153; 08 R179). -/
def State.finishWord (s : State) (c : Nat) (m : Bool) (w : Word) (flags : Nat) (out : List W64) : State :=
  let q := if m then 2 else 0
  let s := (s.dropReqs c (engineAgent m)).updCore c (fun k =>
    let k := k.orFlags flags
    let k := k.setQueue q ((k.queue q).drop w.pops)
    let k := k.setQueue (q + 1) (k.queue (q + 1) ++ out)
    k.updRing m (fun r =>
      { r with
        word := none, emptyAt := none, logWait := false, walked := []
        tags := r.tags.put none (r.rd - 1) none
        notified := r.notified || w.notify }))
  (s.wordWrote c m w).updCore c (·.semRaise w.rs)

/-- The leaves that a word has had walked, with those of the walks that it waits for (04 R69, R77). -/
def Ring.noteWalks (r : Ring) (c : Nat) (a : Ask) : Ring :=
  match a with
  | .walks ws => { r with walked := (r.walked ++ (ws.filter (fun w => w.core == c && w.cache == 1)).map (·.leaf.va)).dedup }
  | _ => r

/-- A word whose access stops: it stalls, holds its ring for a resumable fault (04 R77), or faults. -/
def State.stopWord (s : State) (c : Nat) (m : Bool) (w : Word) (e : Stop) : State :=
  let stall (f : Ring → Ring) : State := s.updRing c m (fun r => f { r with emptyAt := none, logWait := false })
  match e with
  | .trap cause tval =>
    if cause.resumable then
      (s.postFault c (engineAgent m) cause tval 0 2 ((((s.core c).ring m).rd - 1) % 2 ^ 32 * 2 ^ 224 + w.bits)).updRing c m (fun r => { r with held := some (cause, tval) })
    else s.haltWord c m cause tval w.bits w.accs
  | .trapAt cause tval _ => s.haltWord c m cause tval w.bits w.accs
  | .stall => stall id
  | .held _ => stall id
  | .emptyFor l _ => stall (fun r => { r with emptyAt := some l })
  | .empty l => stall (fun r => { r with emptyAt := some l })
  | .log => stall (fun r => { r with logWait := true })
  | .ask a _ => (stall (·.noteWalks c a)).post c (engineAgent m) a
  | .retry => (stall id).dropReqs c (engineAgent m)

/-- The tag of the word that a ring runs (10 R208). -/
def Ring.tag (r : Ring) : Option (Nat × Nat) := r.tags.get none (r.rd - 1)

/-- Runs a word of the acting engine. body has the word's effects but for its dequeue and its end: the state, the flags and the entries it pushes. -/
def runEngine (m : Bool) (word : Core → Word) (body : State → Ex (State × Nat × List W64)) (s : State) : Out :=
  let c := s.c
  let k := s.core c
  let w := word k
  let go (s : State) : Out :=
    match body s with
    | .error e => .next (s.stopWord c m w e)
    | .ok (t, fl, out) =>
      if (t.core c).semFull w.rs then .next (s.haltWord c m .semOverflow w.rs w.bits w.accs)
      else .next (t.finishWord c m w fl out)
  if !k.engineFree m then .next s
  else if (k.ring m).word.isSome then go s
  else if !w.legal then .next (s.haltWord c m .illFormed 0 w.bits w.accs)
  else if k.wordReady m w then go (s.dequeue c m w)
  else .next s

/-- ILL_FORMED_WORD (12 R260): a word with a reserved opcode, of the row ring 0 or the matrix ring 1. An opcode that is reserved names no accumulator. -/
def execIllFormedWord (ring w : Nat) (s : State) : Out :=
  let m := ring == 1
  .next (if (s.core s.c).engineFree m && ((s.core s.c).ring m).word.isNone then s.haltWord s.c m .illFormed 0 w [] else s)

/-- Whether the main context may take a trap that another unit raises: it issues, or waits for the kernel to carry out a request, which it then withdraws, and it has sent no request that changes something (13 R263, R297). -/
def State.mainOpen (s : State) (c : Nat) : Bool :=
  !s.midAccess c 0 && (match (s.cx c 0).wait with | .none => true | .service _ => true | _ => false)

/-- The kernel drops what a context has asked of it (13 R297). -/
def State.withdraw (s : State) (c x : Nat) : State :=
  { s with requests := s.requests.filter (fun r => !(r.core == c && r.x == x && (s.core c).isTask r.launch r.item)) }

/-- ENGINE_FAULT (13 R297): the main context takes the oldest waiting engine fault at its boundary, abandoning a stall; EPC is the instruction it stands at. -/
def execEngineFault (s : State) : Out :=
  let c := s.unit
  let k := s.core c
  match k.engineTraps with
  | [] => .next s
  | v :: r =>
    if s.mainOpen c then
      let s := (s.withdraw c 0).updCore c (fun k => { k with engineTraps := r })
      .next (s.raiseTrap c 0 .engineFault v (k.cx.get {} 0).pc.toNat)
    else .next s

end Sys2Proof.Machine
end

