-- ==== Sys2Proof/Machine/Fp.lean ====
section
/-! DEFINITION. Binary64 arithmetic and conversions (13 R269, R270). -/

namespace Sys2Proof.Machine

/-- A binary64 function of two registers under the word's mode. -/
def fpOp2 (d a b : Nat) (f : Nat → Nat → Nat → Nat × Nat) (s : State) : Out :=
  regOp [a, b] d (fun q vs => f (modeOf q) (vs.getD 0 0) (vs.getD 1 0)) s

/-- A binary64 function of one register under the word's mode and saturation. -/
def fpOp1 (d a : Nat) (f : Nat → Bool → Nat → Nat × Nat) (s : State) : Out :=
  regOp [a] d (fun q vs => f (modeOf q) (satOf q) (vs.getD 0 0)) s

/-- FADD (R269). -/
def execFadd (d a b : Nat) (s : State) : Out := fpOp2 d a b faddBits s

/-- FSUB (R269). -/
def execFsub (d a b : Nat) (s : State) : Out := fpOp2 d a b fsubBits s

/-- FMUL (R269). -/
def execFmul (d a b : Nat) (s : State) : Out := fpOp2 d a b fmulBits s

/-- FDIV (R269). -/
def execFdiv (d a b : Nat) (s : State) : Out := fpOp2 d a b fdivBits s

/-- FSQRT (R269). -/
def execFsqrt (d a : Nat) (s : State) : Out := fpOp1 d a (fun m _ x => fsqrtBits m x) s

/-- FMA (R269): sD is read as the addend, and a queue there is no source. -/
def execFma (d a b : Nat) (s : State) : Out := 
  regOp [a, b, d] d (fun q vs => fmaBits (modeOf q) (vs.getD 0 0) (vs.getD 1 0) (vs.getD 2 0)) s

/-- FMIN (R269). -/
def execFmin (d a b : Nat) (s : State) : Out := fpOp2 d a b (fun _ => fminmaxBits false) s

/-- FMAX (R269). -/
def execFmax (d a b : Nat) (s : State) : Out := fpOp2 d a b (fun _ => fminmaxBits true) s

/-- FABS (R269). -/
def execFabs (d a : Nat) (s : State) : Out := fpOp1 d a (fun _ _ => fabsBits) s

/-- FNEG (R269). -/
def execFneg (d a : Nat) (s : State) : Out := fpOp1 d a (fun _ _ => fnegBits) s

/-- CVTFI (R270). -/
def execCvtfi (d a fmt : Nat) (s : State) : Out := fpOp1 d a (cvtfiBits fmt) s

/-- CVTIF (R270). -/
def execCvtif (d a fmt : Nat) (s : State) : Out := fpOp1 d a (fun m _ => cvtifBits fmt m) s

/-- CVTFF (R270). -/
def execCvtff (d a fmt : Nat) (s : State) : Out := fpOp1 d a (cvtffBits fmt) s

/-- CVTFT (R270). -/
def execCvtft (d a fmt : Nat) (s : State) : Out := fpOp1 d a (fun _ _ => cvtftBits fmt) s

/-- FCMP_EQ (R269). -/
def execFcmpEq (c a b : Nat) (s : State) : Out := 
  condOp [a, b] c (fun _ vs => fcmpBits (· == some .eq) true (vs.getD 0 0) (vs.getD 1 0)) s

/-- FCMP_LT (R269). -/
def execFcmpLt (c a b : Nat) (s : State) : Out := 
  condOp [a, b] c (fun _ vs => fcmpBits (· == some .lt) false (vs.getD 0 0) (vs.getD 1 0)) s

/-- FCMP_LE (R269). -/
def execFcmpLe (c a b : Nat) (s : State) : Out := 
  condOp [a, b] c (fun _ vs => fcmpBits (fun o => o == some .lt || o == some .eq) false (vs.getD 0 0) (vs.getD 1 0)) s

/-- FCMP_UN (R269). -/
def execFcmpUn (c a b : Nat) (s : State) : Out := 
  condOp [a, b] c (fun _ vs => fcmpBits (·.isNone) true (vs.getD 0 0) (vs.getD 1 0)) s

/-- FCLASS (R269): no flag is set. -/
def execFclass (d a : Nat) (s : State) : Out := regOp1 d a fclassBits s

end Sys2Proof.Machine
end

