-- ==== Sys2Proof/Machine/Link.lean ====
section
/-! DEFINITION. Ranrum: flits received, peer commands performed and answered, responses, replay, training and time limits (01 R16 to R22; 08 R178). -/

namespace Sys2Proof.Machine

/-- Port p. -/
def State.port (s : State) (p : Nat) : Port := s.ports.get {} p
/-- Applies f to port p. -/
def State.updPort (s : State) (p : Nat) (f : Port → Port) : State := { s with ports := s.ports.upd {} p f }

/-- Adds 1 to a 32-bit counter that saturates. -/
def satInc (x : Nat) : Nat := min (x + 1) (2 ^ 32 - 1)

/-! ### Flits (R16, R17) -/

/-- Whether command slot i is valid. -/
def cmdValid (f : Flit) (i : Nat) : Bool := bitAt f.hdr (59 + i)

/-- The command in slot i with its data. A read response is taken to use the data slot whole, as a write does, and shorter data lies from byte 0 on (log 15). -/
def flitCmd (f : Flit) (i : Nat) : PeerCmd :=
  let w := f.slots.getD i 0
  let op := w % 2 ^ 8
  let len := 8 * (bitsOf w 83 80 + 1)
  { src := bitsOf f.hdr 31 20, op := op, ctx := bitsOf w 19 8, tag := bitsOf w 35 20, paddr := bitsOf w 79 36, len := len
    ord := bitsOf w 87 84, fn := bitsOf w 127 88
    data := if wholeData op then f.data % 2 ^ (8 * len) else if partData op then bitsOf f.data (128 * i + 127) (128 * i) else 0 }

/-- The valid commands of a flit. -/
def flitCmds (f : Flit) : List PeerCmd := ((List.range 6).filter (cmdValid f)).map (flitCmd f)

/-- The operations of R17. -/
def peerOps : List Nat := [0x01, 0x02, 0x03, 0x04, 0x05, 0x08, 0x09, 0x0A, 0x0F]

/-- Whether a traffic flit keeps the rules of R17. -/
def flitLegal (f : Flit) : Bool :=
  let cs := flitCmds f
  let whole := (cs.filter (fun c => wholeData c.op)).length
  cs.all (fun c => peerOps.contains c.op && decide (c.ord / 4 ≤ 1)
      && (c.op != 0x05 || (c.paddr / 2 ^ 12 == 0 && c.data / 2 ^ 64 == 0)))
    && decide (whole ≤ 1) && (whole == 0 || !cs.any (fun c => partData c.op))
    && (bitAt f.hdr 65 || !cs.any (fun c => wholeData c.op || partData c.op))

/-- Sends a response to a command's requester; without a route it is lost. -/
def State.respond (s : State) (c : PeerCmd) (op data : Nat) : State :=
  (s.sendCmds c.src [{ op := op, ctx := c.ctx, tag := c.tag, paddr := c.paddr, len := c.len, data := data }]).getD s

/-- A flit is discarded: the port counts it and each valid command is answered with an error response (R17, R18). -/
def State.discard (s : State) (p : Nat) (f : Flit) : State :=
  (flitCmds f).foldl (fun s c => s.respond c 0x0F 0) (s.updPort p (fun t => { t with perr := satInc t.perr }))

/-- A flit for another device goes on, with TTL one less, or is discarded (R18). -/
def State.forward (s : State) (p : Nat) (f : Flit) : State :=
  let ttl := bitsOf f.hdr 87 82
  match s.route.get 0 (bitsOf f.hdr 19 8) with
  | 0 => s.discard p f
  | q + 1 => if ttl ≤ 1 then s.discard p f else s.sendOn q { f with hdr := putBits f.hdr 87 82 (ttl - 1) }

/-- A good flit's ACK and CREDIT: what is acknowledged need not be kept, and credits come back (R16). -/
def Port.heard (p : Port) (f : Flit) : Port :=
  let ack := bitsOf f.hdr 55 44
  { p with
    unacked := match p.unacked.findIdx? (fun g => bitsOf g.hdr 43 32 == ack) with
      | some i => p.unacked.drop (i + 1)
      | none => p.unacked
    credits := (List.range 8).foldl (fun m v => m.upd 0 v (· + bitsOf f.hdr (67 + 2 * v) (66 + 2 * v))) p.credits }

/-- Where a flit with a good CRC goes (R18): its commands here or nothing more, on to another device, or nowhere. -/
def State.routeFlit (s : State) (p : Nat) (f : Flit) (here : State) : State :=
  let dst := bitsOf f.hdr 19 8
  if dst = 0xFFF then s.discard p f else if dst = s.devid then here else s.forward p f

/-- FLIT_RECEIVE (R16 to R18, R20, R23), after forward error correction, which corrected a number of symbols. Only traffic flits take a SEQ, and one out of order is dropped without a replay request; a replay request names the SEQ after the last received in order, goes to SRCDEV of the flit whose CRC failed, and is acted on by the device whose port keeps the flit of that SEQ, or by the one it names (log 29). -/
def execFlitReceive (port : Nat) (a : Arrival) (s : State) : Out :=
  let p := s.port port
  let f := a.flit
  let seq := bitsOf f.hdr 43 32
  if p.state ≠ 2 then .next s
  else
    let s := s.updPort port (fun t => { t with feccorr := min (t.feccorr + a.corrected) (2 ^ 32 - 1) })
    if f.crc ≠ Config.crc64 (flitBody f) then
      let g : Flit := { hdr := flitHeader 4 s.devid (bitsOf f.hdr 31 20) ((p.rxseq + 1) % 4096) 0 0 false }
      .next ((s.updPort port (fun t => { t with crcerr := satInc t.crcerr })).transmit port g)
    else
      let s := s.updPort port (·.heard f)
      match f.hdr % 2 ^ 8 with
      | 0x01 =>
        if seq ≠ (p.rxseq + 1) % 4096 then .next s
        else
          let s := s.updPort port (fun t => { t with rxseq := seq, owed := t.owed.upd 0 (bitsOf f.hdr 58 56) (· + 1) })
          .next (if flitLegal f then s.routeFlit port f { s with rx := s.rx ++ flitCmds f } else s.discard port f)
      | 0x02 => .next (s.routeFlit port f s)
      | 0x03 => .next (s.routeFlit port f s)
      | 0x04 =>
        let act := s.dueEvent .replayRequest port seq
        .next (if p.unacked.any (fun g => bitsOf g.hdr 43 32 == seq) then act else s.routeFlit port f act)
      | _ => .next (s.discard port f)

/-! ### Commands performed here (R17, R22) -/

/-- Whether a context lets peer commands reach n bytes at a local address: a live context that maps the page with PGRANT (R22). -/
def State.peerGrant (s : State) (ctx pa n : Nat) : Bool :=
  (s.ctx ctx).live && (sliceOfPa pa).isSome && (s.leaves ctx).any (fun l =>
    let base := bitsOf l.pte 43 12 * 4096
    bitsOf l.pte 3 2 == 1 && bitAt l.pte 11 && decide (base ≤ pa ∧ pa + n ≤ base + leafBytes l.size))

/-- Whether a command is an acquire, or a release, at system scope, which alone covers its sender (R17; 08 R171). -/
def cmdAcquires (c : PeerCmd) : Bool := bitAt c.ord 0 && c.ord / 4 == 1
/-- The same for a release. -/
def cmdReleases (c : PeerCmd) : Bool := bitAt c.ord 1 && c.ord / 4 == 1

/-- A command that is an acquire lets its sender know what the releases performed at the bytes it reads pass on (08 R177). -/
def State.peerAcquire (s : State) (c : PeerCmd) (n : Nat) : State := if cmdAcquires c then s.farAcquire c.paddr n else s

/-- Performs the oldest received command if it is of an operation. f answers the response's operation and data with the state. -/
def handle (op : Nat) (f : PeerCmd → State → Nat × Nat × State) (s : State) : Out :=
  match s.rx with
  | [] => .next s
  | c :: r =>
    if c.op = op then
      let (rop, data, t) := f c { s with rx := r }
      .next (t.respond c rop data)
    else .next s

/-- Whether a sector that n bytes touch is poisoned at home. -/
def State.homePoison (s : State) (pa n : Nat) : Bool := (List.range' (pa / 32) ((pa + n + 31) / 32 - pa / 32)).any (s.mpoison.get false)

/-- The read commands that follow a read in one run of addresses, as those of one object do (07 R165): they are performed together. -/
def readRun (c : PeerCmd) : List PeerCmd → List PeerCmd
  | [] => []
  | d :: r => if d.op = 0x01 ∧ d.src = c.src ∧ d.ctx = c.ctx ∧ d.paddr = c.paddr + c.len then d :: readRun d r else []

/-- Answers a read command; poison is answered as an error (R17, R22). -/
def State.serveRead (s : State) (c : PeerCmd) : State :=
  if s.peerGrant c.ctx c.paddr c.len && !s.homePoison c.paddr c.len then (s.peerAcquire c c.len).respond c 0x08 (s.mem.num c.paddr c.len) else s.respond c 0x0F 0

/-- READ (R17): the oldest command, with those that make one read with it. -/
def execPeerRead (s : State) : Out :=
  match s.rx with
  | [] => .next s
  | c :: r =>
    if c.op = 0x01 then
      let run := readRun c r
      .next (run.foldl State.serveRead (State.serveRead { s with rx := r.drop run.length } c))
    else .next s

/-- WRITE (R17). -/
def execPeerWrite (s : State) : Out :=
  handle 0x02 (fun c s =>
    if s.peerGrant c.ctx c.paddr c.len then (0x09, 0, s.peerWrite c.paddr (cmdReleases c) (toBytes c.len c.data)) else (0x0F, 0, s)) s

/-- ATOMIC (R17): bytes 0 to 7 of the data are the operand and bytes 8 to 15 the comparand; an operation that 13 R280 does not have, or an address that its width does not divide, is answered as an error (log 15). A peer's floating-point add is never held (13 R282). -/
def execPeerAtomic (s : State) : Out :=
  handle 0x03 (fun c s =>
    let n := if c.fn % 2 = 0 then 4 else 8
    if c.fn / 2 ≤ 10 && c.paddr % n == 0 && s.peerGrant c.ctx c.paddr n && !s.homePoison c.paddr n then
      let old := s.mem.num c.paddr n
      let (new, wr, _) := amoResult (c.fn / 2) (8 * n) old (c.data % 2 ^ 64) (c.data / 2 ^ 64)
      let s := s.peerAcquire c n
      (0x0A, old, if wr then s.peerWrite c.paddr (cmdReleases c) (toBytes n new) else s)
    else (0x0F, 0, s)) s

/-- EXACT_ACCUMULATE (R17; 07 R164): an object that is not valid is answered as an error. -/
def execExactAccumulate (s : State) : Out :=
  handle 0x04 (fun c s =>
    let hdr := s.mem.num c.paddr 16
    match c.paddr % 8 == 0 && decide (c.paddr % 4096 + 16 ≤ 4096), xobjBins hdr with
    | true, some b =>
      let n := 16 + 8 * b
      if decide (c.paddr % 4096 + n ≤ 4096) && s.peerGrant c.ctx c.paddr n && !s.homePoison c.paddr n then
        let (hdr, bins) := xobjAdd hdr (binsOf (s.mem.bytes (c.paddr + 16) (8 * b)) b) (d64 (c.data % 2 ^ 64))
        (0x09, 0, (s.peerAcquire c n).peerWrite c.paddr (cmdReleases c) (xobjBytes hdr bins))
      else (0x0F, 0, s)
    | _, _ => (0x0F, 0, s)) s

/-- EVENT_COUNTER_ADD (R17, R22; 08 R178). -/
def execEventCounterAdd (s : State) : Out :=
  handle 0x05 (fun c s =>
    let v := s.vi (s.ctx c.ctx).vi
    let i := c.paddr % 2 ^ 12
    if (s.ctx c.ctx).live && decide (i < v.evcount) then (0x09, 0, s.evFar (v.evbase + i) (c.data % 2 ^ 64)) else (0x0F, 0, s)) s

/-! ### Responses -/

/-- Completes the request that the oldest received command answers, if it is of an operation. -/
def complete (op : Nat) (f : PeerCmd → PeerEnd) (s : State) : Out :=
  match s.rx with
  | [] => .next s
  | c :: r =>
    if c.op = op then
      .next { s with
        rx := r
        peerReqs := s.peerReqs.map (fun q => if q.tag = c.tag ∧ q.dev = c.src ∧ q.res = .open then { q with res := f c } else q) }
    else .next s

/-- READ_RESPONSE. -/
def execReadResponse (s : State) : Out := complete 0x08 (fun c => .data c.data) s
/-- WRITE_ACKNOWLEDGE. -/
def execWriteAcknowledge (s : State) : Out := complete 0x09 (fun _ => .data 0) s
/-- ATOMIC_RESPONSE. -/
def execAtomicResponse (s : State) : Out := complete 0x0A (fun c => .data (c.data % 2 ^ 64)) s
/-- ERROR_RESPONSE (R22). -/
def execErrorResponse (s : State) : Out := complete 0x0F (fun _ => .err .peerDenied) s

/-! ### The port (R20, R23) -/

/-- A port goes DOWN. -/
def Port.down (p : Port) : Port := { p with state := 0, width := 0, downcnt := satInc p.downcnt, rpcount := 0 }

/-- REPLAY_REQUEST (R20): every flit kept from the named SEQ on is sent again; after 8 replays of one SEQ the port goes DOWN. -/
def execReplayRequest (s : State) : Out :=
  let n := s.unit
  let p := s.port n
  let seq := s.arg
  let count := if p.rpseq = seq then p.rpcount else 0
  if p.state ≠ 2 then .next s
  else if 8 ≤ count then .next (s.updPort n (·.down))
  else
    let again := p.unacked.dropWhile (fun f => bitsOf f.hdr 43 32 != seq)
    .next { (s.updPort n (fun p => { p with replay := satInc p.replay, rpseq := seq, rpcount := count + 1 })) with
      tx := s.tx ++ again.map (fun f => (n, f)) }

/-- A port comes UP: flits that have not been acknowledged are sent again, and what waited for it goes out (R20; log 29). -/
def State.portUp (s : State) (n lanes : Nat) : State :=
  let p := s.port n
  let s := s.updPort n (fun p =>
    { p with state := 2, width := if lanes = 4 then 4 else 8, retrains := 0, rpcount := 0, waiting := [] })
  p.waiting.foldl (State.transmit n) { s with tx := s.tx ++ p.unacked.map (fun f => (n, f)) }

/-- RETRAIN (R20, R23): a port that is DOWN starts to train; training ends with the port UP, DOWN again, or after the third retrain FAILED. -/
def execRetrain (port : Nat) (ok : Bool) (lanes : Nat) (s : State) : Out :=
  match (s.port port).state with
  | 0 => .next ((s.updPort port (fun p => { p with state := 1, retrains := p.retrains + 1 })).dueEvent (.retrain port ok lanes) 0 0)
  | 1 =>
    .next (if ok then s.portUp port lanes
      else s.updPort port (fun p => if 3 ≤ p.retrains then { p with state := 3, width := 0 } else p.down))
  | _ => .next s

/-- The tags of a flit's commands. -/
def flitTags (f : Flit) : List Nat := (flitCmds f).map (·.tag)

/-- Whether a flit carries requests. -/
def requestFlit (f : Flit) : Bool := !(flitCmds f).isEmpty && (flitCmds f).all (fun c => decide (c.op < 8))

/-- A flit whose commands have ended keeps its SEQ and carries none (log 29). -/
def emptied (f : Flit) : Flit :=
  let g : Flit := { f with hdr := putBits f.hdr 65 59 0 }
  { g with crc := Config.crc64 (flitBody g) }

/-- Flits of requests that have ended do not go out: one that waits is dropped, and one that has been sent and not acknowledged carries nothing when it is sent again. -/
def Port.without (p : Port) (which : Flit → Bool) : Port :=
  { p with waiting := p.waiting.filter (fun f => !which f), unacked := p.unacked.map (fun f => if which f then emptied f else f) }

/-- Whether a port is DOWN or FAILED. -/
def State.portDown (s : State) (p : Nat) : Bool := (s.port p).state == 0 || (s.port p).state == 3

/-- Whether a request has changed something at its peer. A compare-and-swap that did not find what it expected has not, nor has an add of 0. -/
def PeerReq.did (r : PeerReq) : Bool :=
  r.acts && (match r.res with
    | .data x => r.cmd.op != 3 || (if r.cmd.fn = 5 then x == r.cmd.data / 2 ^ 64 else !(r.cmd.fn == 1 && r.cmd.data == 0))
    | _ => false)

/-- One of this device's requests ends, with those that travel in one flit with it; not where its access has performed a part, since a faulting access has performed nothing (08 R184; log 16). -/
def State.endRequest (s : State) (tag : Nat) : State :=
  match s.peerReqs.find? (fun q => q.tag == tag && q.res == .open) with
  | none => s
  | some q =>
    match q.port with
    | 0 => s
    | p + 1 =>
      if s.portDown p && !s.peerReqs.any (fun r => r.core == q.core && r.agent == q.agent && r.did) then
        let mine (f : Flit) : Bool := bitsOf f.hdr 31 20 == s.devid && (flitTags f).contains tag && requestFlit f
        let tags := tag :: (((s.port p).waiting ++ (s.port p).unacked).filter mine).flatMap flitTags
        let ended (r : PeerReq) : PeerReq := if tags.contains r.tag ∧ r.res = .open then { r with res := .err .peerLinkDown } else r
        { s with peerReqs := s.peerReqs.map ended }.updPort p (·.without mine)
      else s

/-- The oldest flit of another device's requests that waits on a port ends: each of them is answered with an error response (log 29). -/
def State.endForwarded (s : State) (p : Nat) : State :=
  let theirs (f : Flit) : Bool := bitsOf f.hdr 31 20 != s.devid && requestFlit f
  match ((s.port p).unacked ++ (s.port p).waiting).find? theirs with
  | some f => if s.portDown p then (flitCmds f).foldl (fun s c => s.respond c 0x0F 0) (s.updPort p (·.without (· == f))) else s
  | none => s

/-- PEER_LINK_DOWN (R20): a request that waits on a port which is DOWN or FAILED has waited for its time: argument 0 says the own request with a tag, and argument p plus 1 the oldest that has been forwarded to port p. -/
def execPeerLinkDown (s : State) : Out :=
  .next (match s.arg with
    | 0 => s.endRequest s.unit
    | p + 1 => s.endForwarded p)

end Sys2Proof.Machine
end

