-- ==== Sys2Proof/Machine/Marionette.lean ====
section
/-! DEFINITION. Marionette's actions (06 R132 to R134). -/

namespace Sys2Proof.Machine

/-- Whether Marionette acts: its task is on the core. -/
def Core.mxRuns (k : Core) : Bool := k.phase == .running || k.phase == .draining

/-- One evaluation (R134): an action of a kind that acts, whose OR has turned true since the last one, becomes due. -/
def Core.mxEval (k : Core) : Core :=
  if k.mxRuns && !(k.mxact.isEmpty && k.mxprev.isEmpty) then
    (List.range 8).foldl (fun k n =>
      let now := k.mxOr n
      let act := k.mxact.get 0 n
      let rises := now && !k.mxprev.get false n && decide (1 ≤ bitsOf act 18 16 ∧ bitsOf act 18 16 ≤ 4)
      { k with mxprev := k.mxprev.put false n now, mxdue := if rises then k.mxdue ++ [(n, act)] else k.mxdue }) k
  else k

/-- The oldest firing of action n that is due, if it is of a kind: what its MXACT was at the change. -/
def Core.mxFires (k : Core) (n kind : Nat) : Option Nat :=
  match k.mxdue.find? (fun d => d.1 == n) with
  | some d => if k.mxRuns && bitsOf d.2 18 16 == kind then some d.2 else none
  | none => none
/-- The oldest due firing of action n has been made. -/
def Core.mxFired (k : Core) (n : Nat) : Core := { k with mxdue := k.mxdue.eraseP (fun d => d.1 == n) }

/-- MX_RAISE: an overflow traps in the main context (R113). -/
def execMxRaise (s : State) : Out :=
  let c := s.unit
  match (s.core c).mxFires s.arg 1 with
  | some act =>
    let sem := bitsOf act 24 20
    let s := s.updCore c (·.mxFired s.arg)
    .next (if (s.core c).semFull sem then s.mainTrap c .semOverflow sem else s.updCore c (·.semRaise sem))
  | none => .next s

/-- MX_EVENT_ADD (08 R178). -/
def execMxEventAdd (s : State) : Out :=
  let c := s.unit
  let k := s.core c
  match k.mxFires s.arg 2 with
  | some act => .next ((s.updCore c (·.mxFired s.arg)).evRelease c ((s.vi k.tk.vi).evbase + bitsOf act 31 20) 1)
  | none => .next s

/-- A start by Marionette of an idle channel, as the main context's store would make it. -/
def mxStart (s : State) (c ch tmpl : Nat) : State :=
  match startCopy s c 0 ch tmpl (s.cx c 0).window with
  | .ok t => t
  | .error (.trap cause tval) => s.mainTrap c cause tval
  | .error _ => s

/-- MX_COPY_START: the firing, which holds one start while the channel is busy; or that start, once the channel is idle. -/
def execMxCopyStart (s : State) : Out :=
  let c := s.unit
  let n := s.arg
  let k := s.core c
  let idle (ch : Nat) : Bool := (k.ch ch).phase == .idle
  let fired (s : State) : State := s.updCore c (·.mxFired n)
  match k.mxpend.get none n, k.mxFires n 3 with
  | some (ch, tmpl), f =>
    let s := if f.isSome then fired s else s
    .next (if k.mxRuns && idle ch then mxStart (s.updCore c (fun k => { k with mxpend := k.mxpend.put none n none })) c ch tmpl else s)
  | none, some act =>
    let ch := bitsOf act 23 20
    let tmpl := bitsOf act 39 24
    .next (if idle ch then mxStart (fired s) c ch tmpl
      else (fired s).updCore c (fun k => { k with mxpend := k.mxpend.put none n (some (ch, tmpl)) }))
  | none, none => .next s

/-- MX_COUNTER_RESET. -/
def execMxCounterReset (s : State) : Out :=
  let c := s.unit
  match (s.core c).mxFires s.arg 4 with
  | some act => .next (s.updCore c (fun k => { (k.mxFired s.arg) with mxcnt := k.mxcnt.put 0 (bitsOf act 22 20) 0 }))
  | none => .next s

end Sys2Proof.Machine
end

