-- ==== Sys2Proof/Machine/Row.lean ====
section
/-! DEFINITION. The row engine's operands and its frame for every opcode (12 R249 to R252, R260, R262; 14 R298 to R304). -/

namespace Sys2Proof.Machine

/-! ### Operands (12 R251) -/

/-- An operand descriptor. -/
inductive Opnd where
  | tile (ix row stride : Nat)
  | opf (ix row stride : Nat)
  | sp (row : Nat) (stride : Int)
  | latch
  | q0
  | pred (p : Nat)
  | none
  | bad
  deriving DecidableEq, Repr

/-- The operand that 18 bits describe; a reserved level or index, or a bit that must be zero, is bad. -/
def opndOf (d : Nat) : Opnd :=
  match d / 2 ^ 16 with
  | 0 => if d % 32 = 0 ∧ bitsOf d 15 11 ≤ 16 then .tile (bitsOf d 15 11) (bitsOf d 10 8) (bitsOf d 7 5) else .bad
  | 1 => if d % 32 = 0 ∧ bitsOf d 15 11 ≤ 3 then .opf (bitsOf d 15 11) (bitsOf d 10 8) (bitsOf d 7 5) else .bad
  | 2 => .sp (bitsOf d 15 7) (Sys2Proof.sext (d % 128) 7)
  | _ =>
    match bitsOf d 15 13 with
    | 0 => if d % 2 ^ 13 = 0 then .latch else .bad
    | 1 => if d % 2 ^ 13 = 0 then .q0 else .bad
    | 2 => if d % 2 ^ 11 = 0 then .pred (bitsOf d 12 11) else .bad
    | 7 => if d % 2 ^ 13 = 0 then .none else .bad
    | _ => .bad

end Sys2Proof.Machine

namespace Sys2Proof

/-- The fields of a word as operands. -/
def RowF.dOp (f : RowF) : Machine.Opnd := Machine.opndOf f.d
/-- The first source operand. -/
def RowF.aOp (f : RowF) : Machine.Opnd := Machine.opndOf f.a
/-- The second source operand. -/
def RowF.bOp (f : RowF) : Machine.Opnd := Machine.opndOf f.b
/-- The element width in bytes. -/
def RowF.w (f : RowF) : Nat := Machine.fmtBytes f.fmt
/-- The elements of a row. -/
def RowF.n (f : RowF) : Nat := 1024 / f.w

/-- Whether a word broadcasts a q0 entry. -/
def RowF.hasQ0 (f : RowF) : Bool := f.aOp == .q0 || f.bOp == .q0

end Sys2Proof

namespace Sys2Proof.Machine

/-- A row of 1 KiB: row 8t + r is row r of tile t, or of an operand tile; the q0 entry is broadcast. -/
inductive RowAt where
  | tile (r : Nat)
  | opf (r : Nat)
  | sp (r : Nat)
  | latch
  | q0
  deriving DecidableEq, Repr

/-- The last tile that may be named: t16 holds check storage unless it is claimed (06 R122). -/
def Core.lastTile (k : Core) : Nat := if bitAt k.cl.regs 16 then 16 else 15

/-- OperandRow (12 R262) with the claims; none where the word is ill-formed. -/
def operandRow (k : Core) (o : Opnd) (i : Nat) : Option RowAt :=
  match o with
  | .tile ix row st =>
    let r := row + i * st
    let t := ix + r / 8
    if t ≤ k.lastTile && k.cl.has (.tile t) then some (.tile (8 * t + r % 8)) else Option.none
  | .opf ix row st =>
    let r := row + i * st
    if ix + r / 8 ≤ 3 && k.cl.has .opfile then some (.opf (8 * (ix + r / 8) + r % 8)) else Option.none
  | .sp row st =>
    let r : Int := row + i * st
    if 0 ≤ r ∧ r ≤ 511 ∧ 1024 * (r + 1) ≤ k.spadLimit then some (.sp r.toNat) else Option.none
  | .latch => if k.cl.has .latch then some .latch else Option.none
  | .q0 => some .q0
  | _ => Option.none

/-- Whether OperandRow accepts an operand for indices 0 to n - 1. -/
def rowsOk (k : Core) (o : Opnd) (n : Nat) : Bool := (List.range n).all (fun i => (operandRow k o i).isSome)

/-! ### The opcode table (14 R303) -/

/-- What stands in an operand column: none, a field that must be zero (12 R253), a destination row, a source row, a row or a predicate, a predicate, an element or none, a scratchpad descriptor, a source format. -/
inductive Col where
  | none | zero | dst | src | dstVp | vp | elem | sp | fmt
  deriving DecidableEq, Repr

/-- Whether an operand stands in its column. -/
def Col.ok (c : Col) (o : Opnd) (raw : Nat) : Bool :=
  match c, o with
  | .none, .none => true
  | .zero, _ => raw == 0
  | .dst, .tile .. => true
  | .dst, .opf .. => true
  | .dst, .sp .. => true
  | .dst, .latch => true
  | .src, .tile .. => true
  | .src, .opf .. => true
  | .src, .sp .. => true
  | .src, .latch => true
  | .src, .q0 => true
  | .dstVp, .tile .. => true
  | .dstVp, .opf .. => true
  | .dstVp, .sp .. => true
  | .dstVp, .latch => true
  | .dstVp, .pred _ => true
  | .vp, .pred _ => true
  | .elem, .none => true
  | .elem, .tile .. => true
  | .elem, .opf .. => true
  | .elem, .sp .. => true
  | .elem, .latch => true
  | .sp, .sp .. => true
  | .fmt, _ => decide (raw < 64) && fmtOk raw
  | _, _ => false

/-- A row of the opcode table. rnd: 0 zero, 1 on floats, 2 used; psel: 0 zero, 1 mask, 2 needed. dRows and aRows give the indices at which D and A are used, from REP + 1. -/
structure RowSpec where
  op : Nat
  fmt : Nat → Bool
  d : Col
  a : Col
  b : Col
  rnd : Nat := 0
  sat : Bool := false
  psel : Nat := 1
  pops : Nat := 0
  pushes : Nat := 0
  maxRep : Nat := 63
  dRows : Nat → Nat := id
  aRows : Nat → Nat := id
  extra : Core → Bool := fun _ => true
  /-- D is a source too (14 R305). -/
  useD : Bool := false

/-- Whether an operand names a predicate. -/
def Opnd.isPred : Opnd → Bool
  | .pred _ => true
  | _ => false

/-- Whether a column's operand is legal for n indices: its kind, its rows and its claims. -/
def operandLegal (k : Core) (c : Col) (raw n : Nat) : Bool :=
  let o := opndOf raw
  c.ok o raw && (match c with
    | .none => true
    | .zero => true
    | .fmt => true
    | .vp => k.cl.has .opfile
    | .dstVp => if o.isPred then k.cl.has .opfile else rowsOk k o n
    | .elem => if o = .none then true else rowsOk k o 1
    | _ => rowsOk k o n)

/-- Whether a row word is well-formed for the task (12 R260; 14 R298). -/
def rowLegal (k : Core) (sp : RowSpec) (f : RowF) : Bool :=
  sp.fmt f.fmt
    && decide (f.rnd < 4) && (f.rnd == 0 || sp.rnd == 2 || (sp.rnd == 1 && isFloatFmt f.fmt))
    && (!f.sat || sp.sat)
    && (match sp.psel with | 0 => f.psel == 0 | 1 => f.psel == 0 || decide (4 ≤ f.psel) | _ => decide (4 ≤ f.psel))
    && (f.psel == 0 || k.cl.has .opfile)
    && decide (f.scope ≤ 4) && (f.acq || f.rel || f.scope == 0)
    && k.cl.has (.sem f.aw) && k.cl.has (.sem f.rs)
    && decide (f.rep ≤ sp.maxRep)
    && operandLegal k sp.d f.d (sp.dRows (f.rep + 1))
    && operandLegal k sp.a f.a (sp.aRows (f.rep + 1))
    && operandLegal k sp.b f.b (f.rep + 1)
    && sp.extra k

/-! ### Reading and writing rows -/

/-- The bytes of a row, whatever its full bits. The broadcast has none of its own. -/
def Core.rowRaw (k : Core) (r : RowAt) : List Byte :=
  match r with
  | .tile r => k.tiles.part (1024 * r) 1024
  | .opf r => k.opfile.part (1024 * r) 1024
  | .sp r => k.spad.part (1024 * r) 1024
  | .latch => k.latch.part 0 1024
  | .q0 => []

/-- The structure and the first word of a row in it (06 R140). -/
def RowAt.errs : RowAt → Option (Nat × Nat)
  | .tile r => some (0, 128 * r)
  | .opf r => some (1, 128 * r)
  | .latch => some (2, 0)
  | _ => Option.none

/-- A source row: an empty line stalls, poison and uncorrectable errors fault (06 R123, R126, R128). -/
def readRow (k : Core) (r : RowAt) : Ex (List Byte) :=
  match r with
  | .sp r => spadRead k (1024 * r) 1024
  | r =>
    match r.errs with
    | Option.none => .ok (k.rowRaw r)
    | some (st, w) =>
      match k.rerr.find? (fun p => decide (errKey st w ≤ p.1 ∧ p.1 < errKey st (w + 128))) with
      | some p => .error (.trap .registerData (errTval p.1))
      | Option.none => .ok (k.rowRaw r)

/-- Elements of w bytes. -/
def elemsOf (w : Nat) : Nat → List Byte → List Nat
  | 0, _ => []
  | n + 1, bs => ofBytes (bs.take w) :: elemsOf w n (bs.drop w)

/-- The bytes of elements. -/
def bytesOf (w : Nat) (es : List Nat) : List Byte := es.flatMap (toBytes w)

/-- The elements of width w of a source at index i; the broadcast gives the low bytes of its q0 entry (14 R301, R308). -/
def srcElems (k : Core) (o : Opnd) (w i entry : Nat) : Ex (List Nat) :=
  match operandRow k o i with
  | some .q0 => .ok (List.replicate (1024 / w) (entry % 2 ^ (8 * w)))
  | some r => do .ok (elemsOf w (1024 / w) (← readRow k r))
  | Option.none => .ok []

/-- Part of an 8-byte word of a register is written over the rest of it, which an uncorrectable error has lost (06 R123; 15 R335; log 42). -/
def Core.mergeable (k : Core) (struct : Nat) (parts : List Nat) : Ex Unit :=
  match parts.find? (fun w => k.rerr.get false (errKey struct w)) with
  | some w => .error (.trap .registerData (errTval (errKey struct w)))
  | Option.none => .ok ()

/-- The words that n bytes from an offset touch in part. -/
def partWords (off n : Nat) : List Nat :=
  (if off % 8 ≠ 0 then [off / 8] else []) ++ (if (off + n) % 8 ≠ 0 then [(off + n) / 8] else [])

/-- Writes bytes of a row from an offset, in place: scratchpad lines are logged in the windows whose regions hold them, within their limits (10 R207, R209). -/
def State.writeRow (s : State) (c : Nat) (r : RowAt) (off : Nat) (bs : List Byte) : Ex State :=
  match r with
  | .sp r => do
    s.logRoom c Option.none (linesOf (1024 * r + off) bs.length)
    .ok (s.updCore c (·.spadWrite (1024 * r + off) bs))
  | r =>
    match r.errs with
    | Option.none => .ok s
    | some (st, w) => do
      (s.core c).mergeable st ((partWords off bs.length).map (w + ·))
      .ok (s.updCore c (fun k =>
        (match r with
         | .tile r => { k with tiles := k.tiles.setPart (1024 * r + off) bs }
         | .opf r => { k with opfile := k.opfile.setPart (1024 * r + off) bs }
         | _ => { k with latch := k.latch.setPart off bs }).written st (w + off / 8) (w + (off + bs.length + 7) / 8)))

/-- The maximal runs of active bytes of a row: offset and bytes. -/
def activeRuns (act : Nat → Bool) : Nat → List Byte → List (Nat × List Byte)
  | _, [] => []
  | i, b :: bs =>
    let r := activeRuns act (i + 1) bs
    if act i then
      match r with
      | (j, cs) :: t => if j = i + 1 then (i, b :: cs) :: t else (i, [b]) :: r
      | [] => [(i, [b])]
    else r

/-- Writes elements at index i of a destination where act holds; nothing else is written (14 R301). -/
def State.putElems (s : State) (c : Nat) (o : Opnd) (w i : Nat) (act : Nat → Bool) (es : List Nat) : Ex State :=
  match operandRow (s.core c) o i with
  | Option.none => .ok s
  | some r => (activeRuns (fun b => act (b / w)) 0 (bytesOf w es)).foldlM (fun s p => s.writeRow c r p.1 p.2) s

/-! ### Predicates (14 R304) -/

/-- The 1 024 bits of a predicate: row 7 of its operand tile. -/
def Core.predBits (k : Core) (p : Nat) : Nat := ofBytes (k.opfile.part (8192 * p + 7168) 128)

/-- A predicate as a source. -/
def readPred (k : Core) (p : Nat) : Ex Nat :=
  match k.rerr.find? (fun e => decide (errKey 1 (1024 * p + 896) ≤ e.1 ∧ e.1 < errKey 1 (1024 * p + 912))) with
  | some e => .error (.trap .registerData (errTval e.1))
  | Option.none => .ok (k.predBits p)

/-- Writes the bits of a predicate that a mask names; x has the others as they are. -/
def State.setPred (s : State) (c p x mask : Nat) : Ex State := do
  let part (i : Nat) : Nat := mask / 2 ^ (64 * i) % 2 ^ 64
  let at_ := 1024 * p + 896
  (s.core c).mergeable 1 (((List.range 16).filter (fun i => part i != 0 && part i != 2 ^ 64 - 1)).map (at_ + ·))
  .ok (s.updCore c (fun k => ((List.range 16).filter (fun i => part i != 0)).foldl (fun k i => k.written 1 (at_ + i) (at_ + i + 1))
    { k with opfile := k.opfile.setPart (8192 * p + 7168) (toBytes 128 x) }))

/-! ### Running a row word -/

/-- What a row word's body works with: the fields, the q0 entries in the order of 14 R299, and the selected predicate's bits. -/
structure RowEnv where
  f : RowF
  c : Nat
  entries : List Nat
  p : Nat

/-- Whether element j of width w is active (12 R250). -/
def RowEnv.act (e : RowEnv) (w j : Nat) : Bool := e.f.psel == 0 || bitAt e.p (w * j)
/-- The broadcast's entry. -/
def RowEnv.bcast (e : RowEnv) : Nat := e.entries.headD 0
/-- Own entry i of the opcode, after the broadcast's (14 R299). -/
def RowEnv.own (e : RowEnv) (i : Nat) : Nat := e.entries.getD (i + e.f.hasQ0.toNat) 0

/-- The rows that an operand names at indices 0 to n - 1. -/
def opRows (k : Core) (o : Opnd) (n : Nat) : List RowAt := (List.range n).filterMap (operandRow k o)

/-- The rows that B names; a format code and a zero field name none. -/
def bRows (k : Core) (sp : RowSpec) (f : RowF) : List RowAt := if sp.b = .fmt || sp.b = .zero then [] else opRows k f.bOp (f.rep + 1)

/-- The banks of the tiles that a word names (06 R124). -/
def rowBanks (k : Core) (sp : RowSpec) (f : RowF) : List Nat :=
  let rows := opRows k f.dOp (sp.dRows (f.rep + 1)) ++ opRows k f.aOp (sp.aRows (f.rep + 1)) ++ bRows k sp f
  (rows.filterMap (fun r => match r with | .tile r => some (min 3 (r / 32)) | _ => Option.none)).dedup

/-- Bank power at a word's access: off faults, retention wakes (06 R125). -/
def Core.wakeBanks (k : Core) (bs : List Nat) : Ex Core :=
  bs.foldlM (fun k b =>
    match k.bankPower b with
    | 0 => .error (.trap .tileBankOff b)
    | 1 => .ok (k.setBankPower b 2)
    | _ => .ok k) k

/-- Counts the errors corrected in a word's source rows (06 R141). -/
def State.noteRows (s : State) (c : Nat) (rows : List RowAt) : State :=
  if (s.core c).corr.isEmpty then s
  else rows.foldl (fun s r =>
    match r with
    | .sp r => s.noteRead c 4 (128 * r) (128 * r + 128)
    | r => match r.errs with
      | some (st, w) => s.noteRead c st w (w + 128)
      | Option.none => s) s

/-- Counts the errors corrected in a predicate that is read (06 R141). -/
def State.notePred (s : State) (c p : Nat) : State := s.noteRead c 1 (1024 * p + 896) (1024 * p + 912)

/-- Runs a row word: its frame in the ring, then body over its environment. -/
def runRow (sp : RowSpec) (f : RowF) (body : RowEnv → State → Ex (State × Nat × List W64)) (s : State) : Out :=
  let word (k : Core) : Word :=
    { bits := encRow sp.op f, aw := f.aw, rs := f.rs, acq := f.acq, rel := f.rel, scope := f.scope, accs := [], banks := rowBanks k sp f
      legal := rowLegal k sp f, pops := sp.pops + f.hasQ0.toNat, pushes := sp.pushes, notify := sp.op == 1 }
  runEngine false word (fun s => do
    let c := s.c
    let k ← (s.core c).wakeBanks (rowBanks (s.core c) sp f)
    let s := s.updCore c (fun _ => k)
    let p ← if 4 ≤ f.psel then readPred k (f.psel - 4) else .ok 0
    let e : RowEnv := { f := f, c := c, entries := (k.queue 0).map (·.toNat), p := p }
    let s := s.noteRows c ((if sp.useD then opRows k f.dOp (f.rep + 1) else []) ++ opRows k f.aOp (sp.aRows (f.rep + 1)) ++ bRows k sp f)
    let s := if 4 ≤ f.psel then s.notePred c (f.psel - 4) else s
    body e s) s

/-- Folds a body over the repetitions, gathering flags (14 R300). -/
def reps (n : Nat) (g : Nat → State → Ex (State × Nat)) (s : State) : Ex (State × Nat × List W64) := do
  let (s, fl) ← (List.range n).foldlM (fun (p : State × Nat) i => do
    let (t, fl) ← g i p.1
    .ok (t, p.2 ||| fl)) (s, 0)
  .ok (s, fl, [])

/-- Positionwise application to three lists. -/
def zip3 (g : Nat → Nat → Nat → Nat → Nat × Nat) (j : Nat) : List Nat → List Nat → List Nat → List (Nat × Nat)
  | a :: as, b :: bs, d :: ds => g j a b d :: zip3 g (j + 1) as bs ds
  | _, _, _ => []

/-- An element-wise word: g gives an active element's new bits and flags from position, A, B and D; an absent B or A reads as zeros, and D is a source only where useD (14 R305). -/
def rowMap (useD : Bool) (g : RowEnv → Nat → Nat → Nat → Nat → Nat × Nat) (e : RowEnv) (s : State) :
    Ex (State × Nat × List W64) :=
  let f := e.f
  let w := f.w
  reps (f.rep + 1) (fun i s => do
    let k := s.core e.c
    let zeros := List.replicate f.n 0
    let src (o : Opnd) : Ex (List Nat) := if o = .none then .ok zeros else srcElems k o w i e.bcast
    let as ← src f.aOp
    let bs ← src f.bOp
    let ds ← if useD then srcElems k f.dOp w i 0 else .ok zeros
    let rs := zip3 (fun j a b d => if e.act w j then g e j a b d else (0, 0)) 0 as bs ds
    let t ← s.putElems e.c f.dOp w i (e.act w) (rs.map (·.1))
    .ok (t, rs.foldl (fun fl r => fl ||| r.2) 0)) s

end Sys2Proof.Machine
end

