-- ==== Sys2Proof/Machine/Matrix.lean ====
section
/-! DEFINITION. The matrix engine's words and the follow-on words of copies (12 R254 to R256, R260; 15 R324 to R335, R344, R366; 07 R158 to R162). -/

namespace Sys2Proof.Machine

/-! ### The word and its limits -/

/-- The matrix opcodes (12 R256). -/
inductive MatOp where
  | notify | mnop | mmul | mmv | mtr | mperm | mrred | mrd | mwr | mclr
  deriving DecidableEq, Repr

/-- The code of an opcode. -/
def MatOp.code : MatOp → Nat
  | .notify => 0x01 | .mnop => 0x02 | .mmul => 0x10 | .mmv => 0x11 | .mtr => 0x12 | .mperm => 0x13
  | .mrred => 0x14 | .mrd => 0x20 | .mwr => 0x21 | .mclr => 0x22

/-- The fields that an opcode uses, with zeros for the others (12 R256; 18 R366). -/
def MatOp.used (op : MatOp) (f : MatF) : MatF :=
  let sync : MatF := { aw := f.aw, rs := f.rs, acq := f.acq, rel := f.rel, scope := f.scope }
  match op with
  | .notify => sync
  | .mnop => sync
  | .mmul => { f with nvec := 0, resv := 0 }
  | .mmv => { f with exact := false, sc := 0, resv := 0 }
  | .mtr => { f with bfmt := 0, brow := 0, bstr := 0, km1 := 0, exact := false, sc := 0, sat := false, nvec := 0, resv := 0 }
  | .mrred => { f with bfmt := 0, brow := 0, bstr := 0, km1 := 0, exact := false, sc := 0, sat := false, nvec := 0, resv := 0 }
  | .mperm => { f with bfmt := 0, km1 := 0, exact := false, sc := 0, sat := false, nvec := 0, resv := 0 }
  | .mrd => { sync with cfmt := f.cfmt, acc := f.acc, mm1 := f.mm1, nm1 := f.nm1, exact := f.exact, sc := f.sc, rnd := f.rnd
                        sat := f.sat, outctl := f.outctl, ofmt := f.ofmt, orow := f.orow, ostr := f.ostr }
  | .mwr => { sync with cfmt := f.cfmt, acc := f.acc, arow := f.arow, astr := f.astr, mm1 := f.mm1, nm1 := f.nm1 }
  | .mclr => { sync with cfmt := f.cfmt, acc := f.acc, mm1 := f.mm1, nm1 := f.nm1, exact := f.exact }

/-- Whether the word has no accumulator. -/
def MatOp.sync (op : MatOp) : Bool := op == .notify || op == .mnop
/-- Whether the word multiplies A by B. -/
def MatOp.product (op : MatOp) : Bool := op == .mmul || op == .mmv
/-- Whether the word accumulates. -/
def MatOp.sums (op : MatOp) : Bool := op.product || op == .mtr || op == .mperm || op == .mrred
/-- Whether the word reads the accumulator's former contents (R328). -/
def MatOp.reads (op : MatOp) (f : MatF) : Bool := op == .mrd || (op.sums && !f.init)

/-- Bytes of an accumulator element; those of an exact one lie in two members. -/
def accBytes (f : MatF) : Nat := if f.cfmt = F64 then 8 else 4
/-- Rows and columns of the accumulator's result (R333). -/
def accShape (op : MatOp) (f : MatF) : Nat × Nat :=
  match op with
  | .mtr => (f.nm1 + 1, f.mm1 + 1)
  | .mrred => (f.mm1 + 1, 1)
  | _ => (f.mm1 + 1, f.nm1 + 1)
/-- Bytes that the result takes. -/
def accSize (op : MatOp) (f : MatF) : Nat := (accShape op f).1 * (accShape op f).2 * accBytes f
/-- Whether a pair is used (12 R255). -/
def accPair (op : MatOp) (f : MatF) : Bool := f.exact || decide (16384 < accSize op f)
/-- The accumulators that a word names. -/
def accsOf (op : MatOp) (f : MatF) : List Nat :=
  if op.sync then [] else if accPair op f then [f.acc, f.acc + 1].filter (decide <| · < 4) else [f.acc]

/-- The group size of R158. -/
def groupSize (a b : Nat) : Nat := match max (fmtBytes a) (fmtBytes b) with | 1 => 8 | 8 => 2 | _ => 4
/-- The R of 12 R255. -/
def tileEdge (a b : Nat) : Nat := if max (fmtBytes a) (fmtBytes b) ≤ 2 then 64 else 32

/-- The scratchpad rows of an operand of outer vectors of inner elements of e bytes (R325). -/
def matRows (base str outer inner e : Nat) : List Int :=
  (List.range (outer * ceilDiv inner (1024 / e))).map (fun i => (base : Int) + Sys2Proof.sext str 7 * (i : Nat))

/-- Whether rows lie in the scratchpad and the claim (R325). -/
def rowsInSpad (k : Core) (rs : List Int) : Bool := rs.all (fun r => decide (0 ≤ r ∧ r ≤ 511 ∧ 1024 * (r + 1) ≤ k.spadLimit))
/-- The bank groups of rows (R326). -/
def rowGroups (rs : List Int) : List Int := (rs.map (· / 128)).dedup

/-- The rows of A and of B that a word reads. -/
def aRowsOf (op : MatOp) (f : MatF) : List Int :=
  match op with
  | .mmul => matRows f.arow f.astr (f.mm1 + 1) (f.km1 + 1) (fmtBytes f.afmt)
  | .mmv => matRows f.arow f.astr (f.mm1 + 1) (f.km1 + 1) (fmtBytes f.afmt)
  | .mwr => matRows f.arow f.astr (f.mm1 + 1) (f.nm1 + 1) (fmtBytes f.cfmt)
  | _ => matRows f.arow f.astr (f.mm1 + 1) (f.nm1 + 1) (fmtBytes f.afmt)
def bRowsOf (op : MatOp) (f : MatF) : List Int :=
  if op = .mperm then [(f.brow : Int)] else matRows f.brow f.bstr (f.nm1 + 1) (f.km1 + 1) (fmtBytes f.bfmt)

/-- The bias plus P minus 2 of a binary8 format (07 R160). -/
def exactQ (f : Nat) : Int := (floatFmt f).bias + bitsOf f 4 2 - 2
/-- A binary8 format with P from 4 to 7. -/
def exactFmt (f : Nat) : Bool := isB8 f && decide (4 ≤ bitsOf f 4 2)

/-- Rows of the store-out. -/
def outRows (op : MatOp) (f : MatF) : Nat := (accShape op f).1 * ceilDiv (accShape op f).2 (1024 / fmtBytes f.ofmt)

/-- Whether the store-out is legal (R325, R331). -/
def outLegal (k : Core) (op : MatOp) (f : MatF) : Bool :=
  match f.outctl with
  | 0 => op != .mrd && fmtOk f.ofmt
  | 1 =>
    isFloatFmt f.ofmt && (!f.exact || isIeee f.ofmt)
      && rowsInSpad k ((List.range (outRows op f)).map (fun r => (f.orow : Int) + Sys2Proof.sext f.ostr 7 * (r : Nat)))
  | 2 =>
    isFloatFmt f.ofmt && (!f.exact || isIeee f.ofmt) && f.orow % 16 == 0 && f.ostr == 0
      && (List.range (outRows op f)).all (fun r =>
        let t := f.orow / 16 + r / 8
        decide (t ≤ k.lastTile) && k.cl.has (.tile t))
  | _ => false

/-- Whether the accumulators' tags admit a read (R328). -/
def tagsAdmit (k : Core) (op : MatOp) (f : MatF) : Bool :=
  let kind := if f.cfmt = F32 then 0 else if f.cfmt = F64 then 1 else 2
  let tags := (accsOf op f).map (k.acctag.get {})
  tags.all (fun t => t.valid && t.kind == kind && t == tags.headD {} && (!f.exact || t.scx.isNone || t.scx == some f.sc))

/-- Whether a matrix word is well-formed for the task (12 R254 to R256, R260; R324 to R334). -/
def matLegal (k : Core) (op : MatOp) (f : MatF) : Bool :=
  let m := f.mm1 + 1
  let n := f.nm1 + 1
  let kk := f.km1 + 1
  let edge := tileEdge f.afmt f.bfmt
  let g := groupSize f.afmt f.bfmt
  op.used f == f && decide (f.rnd < 4) && decide (f.scope ≤ 4) && (f.acq || f.rel || f.scope == 0)
    && k.cl.has (.sem f.aw) && k.cl.has (.sem f.rs)
    && (op.sync ||
      ((if f.exact then f.cfmt == 3 else f.cfmt == F32 || f.cfmt == F64) && (f.exact || f.sc == 0)
        && decide (accSize op f ≤ 32768) && (!accPair op f || f.acc % 2 == 0) && (accsOf op f).all (fun a => k.cl.has (.acc a))
        && (!op.product || (isFloatFmt f.afmt && isFloatFmt f.bfmt && decide (kk ≤ 8192)))
        && (op != .mmul || decide (ceilDiv m edge * ceilDiv n edge * ceilDiv kk g ≤ 1024))
        && (op != .mmv || (f.nm1 == f.nvec && decide (ceilDiv m edge * ceilDiv kk (8 * g) ≤ 1024)))
        && (op != .mmul || !f.exact || (exactFmt f.afmt && exactFmt f.bfmt && decide (exactQ f.afmt + exactQ f.bfmt ≤ f.sc)
          && (f.outctl != 0 || f.rnd == 0)))
        && (!(op == .mtr || op == .mperm || op == .mrred) || isFloatFmt f.afmt)
        && (!(op.sums || op == .mwr) || (rowsInSpad k (aRowsOf op f) && (rowGroups (aRowsOf op f)).length == 1))
        && (!(op.product || op == .mperm) || (rowsInSpad k (bRowsOf op f) && (rowGroups (bRowsOf op f)).length == 1
          && rowGroups (aRowsOf op f) != rowGroups (bRowsOf op f)))
        && (!op.reads f || tagsAdmit k op f)
        && (op == .mwr || op == .mclr || outLegal k op f)))

/-! ### Operands and accumulators -/

/-- Vector i of an operand: inner elements of e bytes (R325). -/
def readVec (c base str outer inner e i : Nat) (s : State) : Ex (List Nat × State) :=
  let w := 1024 / e
  (List.range (ceilDiv inner w)).foldlM (fun (p : List Nat × State) blk => do
    let n := min w (inner - blk * w)
    let r : Int := (base : Int) + Sys2Proof.sext str 7 * (i + outer * blk : Nat)
    let (bs, s) ← p.2.spadGet c (1024 * r.toNat) (n * e)
    .ok (p.1 ++ elemsOf e n bs, s)) ([], s)

/-- All the vectors of an operand. -/
def readMat (c base str outer inner e : Nat) (s : State) : Ex (List (List Nat) × State) :=
  (List.range outer).foldlM (fun (p : List (List Nat) × State) i => do
    let (v, s) ← readVec c base str outer inner e i p.2
    .ok (p.1 ++ [v], s)) ([], s)

/-- Whether a word of the accumulators' storage holds a part of the result. -/
def accUses (op : MatOp) (f : MatF) (w : Nat) : Bool :=
  let p := 2 * (w % 2048)
  if f.exact then (accsOf op f).contains (w / 2048) && decide (p / 64 ≤ f.mm1 ∧ p % 64 ≤ f.nm1)
  else decide (2048 * f.acc ≤ w ∧ 8 * (w - 2048 * f.acc) < accSize op f)

/-- An accumulator that is read must hold no uncorrectable error (06 R123); corrected ones count. -/
def accRead (c : Nat) (op : MatOp) (f : MatF) (s : State) : Ex State :=
  match (s.core c).rerr.find? (fun p => p.1 / 2 ^ 20 == 3 && accUses op f (p.1 % 2 ^ 20)) with
  | some p => .error (.trap .registerData (errTval p.1))
  | none => .ok (((s.core c).corr.filter (fun p => p.1 / 2 ^ 20 == 3 && accUses op f (p.1 % 2 ^ 20))).foldl
      (fun s p => s.noteError c p.1 false) s)

/-- The elements of the result, row by row, as bits or, in exact mode, as the i64 X modulo 2^64 (R327; 07 R160). -/
def accElems (k : Core) (op : MatOp) (f : MatF) : List Nat :=
  let (m, n) := accShape op f
  if f.exact then
    let lo := elemsOf 4 4096 (k.acc.part (16384 * f.acc) 16384)
    let hi := elemsOf 4 4096 (k.acc.part (16384 * (f.acc + 1)) 16384)
    (((lo.zip hi).zipIdx).filter (fun p => decide (p.2 / 64 < m ∧ p.2 % 64 < n))).map (fun p => p.1.1 + p.1.2 * 2 ^ 32)
  else elemsOf (accBytes f) (m * n) (k.acc.part (16384 * f.acc) (m * n * accBytes f))

/-- Puts the elements of the result in place of the old ones; all others keep their bytes. An 8-byte word that is written in part has been written, and its error ends (06 R123; log 42). -/
def Core.setAcc (k : Core) (op : MatOp) (f : MatF) (es : List Nat) : Core :=
  let (m, n) := accShape op f
  if f.exact then
    let place (g : Nat → Nat) (old : List Nat) : List Nat :=
      old.zipIdx.map (fun p => if p.2 / 64 < m ∧ p.2 % 64 < n then g (es.getD (n * (p.2 / 64) + p.2 % 64) 0) else p.1)
    let half (a : Nat) (g : Nat → Nat) (k : Core) : Core :=
      { k with acc := k.acc.setPart (16384 * a) (bytesOf 4 (place g (elemsOf 4 4096 (k.acc.part (16384 * a) 16384)))) }
    let k := half (f.acc + 1) (· / 2 ^ 32) (half f.acc (· % 2 ^ 32) k)
    ((List.range m).flatMap (fun i => [2048 * f.acc + 32 * i, 2048 * (f.acc + 1) + 32 * i])).foldl
      (fun k w => k.written 3 w (w + (n + 1) / 2)) k
  else
    { k with acc := k.acc.setPart (16384 * f.acc) (bytesOf (accBytes f) es) }.written 3 (2048 * f.acc)
      (2048 * f.acc + (m * n * accBytes f + 7) / 8)

/-- The tags that a word leaves (R328). -/
def Core.setTags (k : Core) (op : MatOp) (f : MatF) : Core :=
  let kind := if f.cfmt = F32 then 0 else if f.cfmt = F64 then 1 else 2
  let scx := if f.exact && op == .mmul then some f.sc else none
  { k with acctag := (accsOf op f).foldl (fun t a =>
      if f.init || op == .mwr || op == .mclr then t.put {} a { valid := true, kind := kind, scx := scx }
      else if f.exact then t.upd {} a (fun g => { g with scx := scx })
      else t) k.acctag }

/-! ### Sums (07 R158, R159, R161) -/

/-- Groups of g terms, each added to the accumulator with one rounding. -/
def accumulate (cf mode g : Nat) : Nat → List Val → Nat × Nat → Nat × Nat
  | 0, _, r => r
  | n + 1, ts, (acc, fl) =>
    let v := valueOf cf acc
    let (t, a) := sumVals fNV (ts.take g)
    let (r, b) := addVal mode v t
    let (x, c) := roundFloat cf mode false r
    accumulate cf mode g n (ts.drop g) (x, fl ||| a ||| b ||| c ||| v.snan)

/-- Products of two vectors. -/
def products (af bf : Nat) (a b : List Nat) : List Val := (a.zip b).map (fun p => (mulVal (valueOf af p.1) (valueOf bf p.2)).1)

/-- The exact update of one X in units of 2^-SC; none where an operand is not finite or X leaves i64. -/
def exactUpdate (af bf sc : Nat) : List (Nat × Nat) → Int → Option Int
  | [], x => some x
  | (a, b) :: r, x =>
    match valueOf af a, valueOf bf b with
    | .num _ _ _, .num _ _ _ =>
      let y := x + ((mulVal (valueOf af a) (valueOf bf b)).1).at (-(sc : Int))
      if -(2 ^ 63) ≤ y ∧ y < 2 ^ 63 then exactUpdate af bf sc r y else none
    | _, _ => none

/-! ### Store-out (R325, R331) -/

/-- The value of an element of the accumulator (R331; 07 R162). -/
def accValue (f : MatF) (x : Nat) : Val :=
  if f.exact then Val.scaled (Sys2Proof.sext x 64) (-(f.sc : Int)) false else valueOf f.cfmt x

/-- The tile banks that a store-out names (06 R124). -/
def outBanks (op : MatOp) (f : MatF) : List Nat :=
  if f.outctl = 2 then ((List.range (outRows op f)).map (fun r => min 3 ((f.orow / 16 + r / 8) / 4))).dedup else []

/-- The store-out of the result's elements: the state after it and its flags. -/
def storeOut (c : Nat) (op : MatOp) (f : MatF) (es : List Nat) (s : State) : Ex (State × Nat) :=
  if f.outctl = 0 then .ok (s, 0)
  else do
    let (m, n) := accShape op f
    let e := fmtBytes f.ofmt
    let w := 1024 / e
    let outs := es.map (fun x => roundFloat f.ofmt f.rnd f.sat (accValue f x))
    let k ← if f.outctl = 2 then
        (s.core c).wakeBanks (outBanks op f)
      else .ok (s.core c)
    let s := s.updCore c (fun _ => k)
    let s ← (List.range m).foldlM (fun s i =>
      (List.range (ceilDiv n w)).foldlM (fun (s : State) blk =>
        let r := i + m * blk
        let part := ((outs.drop (n * i + w * blk)).take (min w (n - w * blk))).map (·.1)
        s.writeRow c (if f.outctl = 2 then .tile (f.orow / 2 + r) else .sp ((f.orow : Int) + Sys2Proof.sext f.ostr 7 * (r : Nat)).toNat) 0
          (bytesOf e part)) s) s
    .ok (s, outs.foldl (fun fl o => fl ||| o.2) 0)

/-! ### Running a matrix word -/

/-- Whether the acting word is a follow-on word. -/
def State.isFollow (s : State) : Bool := match s.cur with | .event .followOnWord _ _ => true | _ => false

/-- Drops the oldest follow-on word. -/
def Core.dropFollow (k : Core) : Core := { k with follow := k.follow.tail, followGo := false }

/-- A follow-on word that is ill-formed or faults (R344). -/
def State.haltFollow (s : State) (c : Nat) (cause : Cause) (tval bits : Nat) (accs : List Nat) : State :=
  (s.haltWord c true cause tval bits accs).updCore c (·.dropFollow)

/-- Runs the oldest follow-on word at a word boundary: a ring word that leaves RD and REL (R344). -/
def runFollow (word : Core → Word) (body : State → Ex (State × Nat × List W64)) (s : State) : Out :=
  let c := s.c
  let k := s.core c
  let w := word k
  let free := (k.phase == .running || (k.phase == .draining && k.followGo)) && !k.mat.halted && k.mat.word.isNone
  let go (s : State) : Out :=
    match body s with
    | .error (.trap cause tval) => .next (s.haltFollow c cause tval w.bits w.accs)
    | .error e => .next (s.stopWord c true w e)
    | .ok (t, fl, _) =>
      if (t.core c).semFull w.rs then .next (s.haltFollow c .semOverflow w.rs w.bits w.accs)
      else
        let t := t.updCore c (fun k =>
          (k.orFlags fl).dropFollow.updRing true (fun r => { r with emptyAt := none, logWait := false }))
        .next ((t.wordWrote c true w).updCore c (·.semRaise w.rs))
  if !free then .next s
  else if k.followGo then go s
  else if !w.legal || w.notify then .next (s.haltFollow c .illFormed 0 w.bits w.accs)
  else if k.semReady w.aw then
    let s := s.updCore c (fun k => { (k.semTake w.aw).updRing true (fun r => { r with banks := w.banks }) with followGo := true })
    go (if w.acq then s.refresh c w.scope else s)
  else .next s

/-- Busy cycles of a word (12 R255; 15 R324, R332): the spec bounds those of the other words by 64 (log 3). -/
def matClocks (op : MatOp) (f : MatF) (tick : Nat) : Nat :=
  let edge := tileEdge f.afmt f.bfmt
  let g := groupSize f.afmt f.bfmt
  match op with
  | .notify => 1
  | .mnop => 1
  | .mmul => ceilDiv (f.mm1 + 1) edge * ceilDiv (f.nm1 + 1) edge * ceilDiv (f.km1 + 1) g
  | .mmv => ceilDiv (f.mm1 + 1) edge * ceilDiv (f.km1 + 1) (8 * g)
  | _ => Config.cycles (24 * tick) % 65

/-- Counts busy cycles of the matrix engine for the ramp limiter (05 R101). -/
def State.rampCount (s : State) (c n : Nat) : State :=
  s.updCluster (clusterOf c) (fun e => { e with rampNow := e.rampNow.upd 0 (s.core c).tk.vi (· + n) })

/-- Runs a matrix word, of the ring or handed over by a copy. body answers the state and the flags. -/
def runMat (op : MatOp) (f : MatF) (body : Nat → State → Ex (State × Nat)) (s : State) : Out :=
  let word (k : Core) : Word :=
    { bits := encMat op.code f, aw := f.aw, rs := f.rs, acq := f.acq, rel := f.rel, scope := f.scope, accs := accsOf op f, banks := outBanks op f
      legal := matLegal k op f, pops := 0, pushes := 0, notify := op == .notify }
  let b (s : State) : Ex (State × Nat × List W64) := do
    let (t, fl) ← body s.c s
    .ok (t.rampCount s.c (matClocks op f s.tick), fl, [])
  if s.isFollow then runFollow word b s else runEngine true word b s

/-- A word that accumulates (R324): g gives the new elements from the old ones and their flags; the tags and the store-out follow. -/
def runSum (op : MatOp) (f : MatF) (g : Nat → List Nat → State → Ex (List Nat × Nat × State)) (s : State) : Out :=
  runMat op f (fun c s => do
    let (m, n) := accShape op f
    let s ← if f.init then .ok s else accRead c op f s
    let old := if f.init then List.replicate (m * n) 0 else accElems (s.core c) op f
    let (es, fl, s) ← g c old s
    let s := s.updCore c (fun k => (k.setAcc op f es).setTags op f)
    let (s, fo) ← storeOut c op f es s
    .ok (s, fl ||| fo)) s

/-- Results and gathered flags. -/
def gather (l : List (Nat × Nat)) : List Nat × Nat := (l.map (·.1), l.foldl (fun fl p => fl ||| p.2) 0)

/-- A times B (R329, R330): groups with one rounding each, or exactly. -/
def productElems (f : MatF) (c : Nat) (old : List Nat) (s : State) : Ex (List Nat × Nat × State) := do
  let n := f.nm1 + 1
  let kk := f.km1 + 1
  let (as, s) ← readMat c f.arow f.astr (f.mm1 + 1) kk (fmtBytes f.afmt) s
  let (bs, s) ← readMat c f.brow f.bstr n kk (fmtBytes f.bfmt) s
  let cell (p : Nat × Nat) : List Nat × List Nat := (as.getD (p.2 / n) [], bs.getD (p.2 % n) [])
  if f.exact then
    let es ← old.zipIdx.mapM (fun p =>
      let (a, b) := cell p
      match exactUpdate f.afmt f.bfmt f.sc (a.zip b) (Sys2Proof.sext p.1 64) with
      | some x => (.ok (wrapNat x 64) : Ex Nat)
      | none => .error (.trap .exactRange 0))
    .ok (es, 0, s)
  else
    let g := groupSize f.afmt f.bfmt
    let (es, fl) := gather (old.zipIdx.map (fun p =>
      let (a, b) := cell p
      accumulate f.cfmt f.rnd g (ceilDiv kk g) (products f.afmt f.bfmt a b) (p.1, 0)))
    .ok (es, fl, s)

/-- MAT_NOTIFY (R324; 06 R112). -/
def execMatNotify (f : MatF) (s : State) : Out := runMat .notify f (fun _ s => .ok (s, 0)) s
/-- MNOP (R324). -/
def execMnop (f : MatF) (s : State) : Out := runMat .mnop f (fun _ s => .ok (s, 0)) s
/-- MMUL (R329, R330). -/
def execMmul (f : MatF) (s : State) : Out := runSum .mmul f (productElems f) s
/-- MMV (R332): mmul's results. -/
def execMmv (f : MatF) (s : State) : Out := runSum .mmv f (productElems f) s

/-- One term of A added to an element, as an mmul by a 0/1 matrix adds it (R333). -/
def addTerm (f : MatF) (acc a : Nat) : Nat × Nat := accumulate f.cfmt f.rnd 1 1 [valueOf f.afmt a] (acc, 0)

/-- MTR (R333). -/
def execMtr (f : MatF) (s : State) : Out :=
  runSum .mtr f (fun c old s => do
    let m := f.mm1 + 1
    let (as, s) ← readMat c f.arow f.astr m (f.nm1 + 1) (fmtBytes f.afmt) s
    let (es, fl) := gather (old.zipIdx.map (fun p => addTerm f p.1 ((as.getD (p.2 % m) []).getD (p.2 / m) 0)))
    .ok (es, fl, s)) s

/-- MPERM (R333): an index at or above M faults before any effect. -/
def execMperm (f : MatF) (s : State) : Out :=
  runSum .mperm f (fun c old s => do
    let m := f.mm1 + 1
    let n := f.nm1 + 1
    let (bs, s) ← s.spadGet c (1024 * f.brow) (2 * m)
    let ps := elemsOf 2 m bs
    need (ps.all (fun p => decide (p < m))) .controlValue ((ps.find? (fun p => decide (m ≤ p))).getD 0)
    let (as, s) ← readMat c f.arow f.astr m n (fmtBytes f.afmt) s
    let (es, fl) := gather (old.zipIdx.map (fun p => addTerm f p.1 ((as.getD (ps.getD (p.2 / n) 0) []).getD (p.2 % n) 0)))
    .ok (es, fl, s)) s

/-- MRRED (R333). -/
def execMrred (f : MatF) (s : State) : Out :=
  runSum .mrred f (fun c old s => do
    let n := f.nm1 + 1
    let (as, s) ← readMat c f.arow f.astr (f.mm1 + 1) n (fmtBytes f.afmt) s
    let g := groupSize f.afmt f.afmt
    let (es, fl) := gather (old.zipIdx.map (fun p =>
      accumulate f.cfmt f.rnd g (ceilDiv n g) ((as.getD p.2 []).map (valueOf f.afmt)) (p.1, 0)))
    .ok (es, fl, s)) s

/-- MRD (R331). -/
def execMrd (f : MatF) (s : State) : Out :=
  runMat .mrd f (fun c s => do
    let s ← accRead c .mrd f s
    storeOut c .mrd f (accElems (s.core c) .mrd f) s) s

/-- MWR (R334). -/
def execMwr (f : MatF) (s : State) : Out :=
  runMat .mwr f (fun c s => do
    let (as, s) ← readMat c f.arow f.astr (f.mm1 + 1) (f.nm1 + 1) (fmtBytes f.cfmt) s
    .ok (s.updCore c (fun k => (k.setAcc .mwr f as.flatten).setTags .mwr f), 0)) s

/-- MCLR (R334): every byte of the accumulator, or of the pair. -/
def execMclr (f : MatF) (s : State) : Out :=
  runMat .mclr f (fun c s =>
    .ok (s.updCore c (fun k =>
      ((accsOf .mclr f).foldl (fun k a =>
        { k with acc := k.acc.setPart (16384 * a) (List.replicate 16384 0) }.written 3 (2048 * a) (2048 * (a + 1))) k).setTags .mclr f), 0)) s

/-- FOLLOW_ON_WORD (R344): the oldest word that copies have handed over. -/
def execFollowOnWord (s : State) : Out :=
  let c := s.unit
  let k := s.core c
  let s := { s with cur := .event .followOnWord c 0 }
  let free := k.phase == .running && !k.mat.halted && k.mat.word.isNone
  match k.follow with
  | [] => .next s
  | w :: _ =>
    if 2 ^ 192 ≤ w then .next (if free then s.haltFollow c .poison (w / 2 ^ 193) (w % 2 ^ 192) [] else s)
    else match decodeMat w with
    | .ok (.matNotify f) => execMatNotify f s
    | .ok (.mnop f) => execMnop f s
    | .ok (.mmul f) => execMmul f s
    | .ok (.mmv f) => execMmv f s
    | .ok (.mtr f) => execMtr f s
    | .ok (.mperm f) => execMperm f s
    | .ok (.mrred f) => execMrred f s
    | .ok (.mrd f) => execMrd f s
    | .ok (.mwr f) => execMwr f s
    | .ok (.mclr f) => execMclr f s
    | _ =>
      .next (if free then s.haltFollow c .illFormed 0 w [] else s)

end Sys2Proof.Machine
end

