-- ==== Sys2Proof/Machine/Crypto.lean ====
section
/-! DEFINITION. SHA-512 and ECDSA verification over NIST P-521, which the spec names (02 R32, R33; 03 R50, R51, R56; 05 R105) and FIPS 180-4 and FIPS 186-4 define (log 18). -/

namespace Sys2Proof.Machine

/-! ### SHA-512 -/

/-- Round constants 0 to 9. -/
def shaK0 : List W64 :=
  [0x428a2f98d728ae22, 0x7137449123ef65cd, 0xb5c0fbcfec4d3b2f, 0xe9b5dba58189dbbc, 0x3956c25bf348b538,
   0x59f111f1b605d019, 0x923f82a4af194f9b, 0xab1c5ed5da6d8118, 0xd807aa98a3030242, 0x12835b0145706fbe]
/-- Round constants 10 to 19. -/
def shaK1 : List W64 :=
  [0x243185be4ee4b28c, 0x550c7dc3d5ffb4e2, 0x72be5d74f27b896f, 0x80deb1fe3b1696b1, 0x9bdc06a725c71235,
   0xc19bf174cf692694, 0xe49b69c19ef14ad2, 0xefbe4786384f25e3, 0x0fc19dc68b8cd5b5, 0x240ca1cc77ac9c65]
/-- Round constants 20 to 29. -/
def shaK2 : List W64 :=
  [0x2de92c6f592b0275, 0x4a7484aa6ea6e483, 0x5cb0a9dcbd41fbd4, 0x76f988da831153b5, 0x983e5152ee66dfab,
   0xa831c66d2db43210, 0xb00327c898fb213f, 0xbf597fc7beef0ee4, 0xc6e00bf33da88fc2, 0xd5a79147930aa725]
/-- Round constants 30 to 39. -/
def shaK3 : List W64 :=
  [0x06ca6351e003826f, 0x142929670a0e6e70, 0x27b70a8546d22ffc, 0x2e1b21385c26c926, 0x4d2c6dfc5ac42aed,
   0x53380d139d95b3df, 0x650a73548baf63de, 0x766a0abb3c77b2a8, 0x81c2c92e47edaee6, 0x92722c851482353b]
/-- Round constants 40 to 49. -/
def shaK4 : List W64 :=
  [0xa2bfe8a14cf10364, 0xa81a664bbc423001, 0xc24b8b70d0f89791, 0xc76c51a30654be30, 0xd192e819d6ef5218,
   0xd69906245565a910, 0xf40e35855771202a, 0x106aa07032bbd1b8, 0x19a4c116b8d2d0c8, 0x1e376c085141ab53]
/-- Round constants 50 to 59. -/
def shaK5 : List W64 :=
  [0x2748774cdf8eeb99, 0x34b0bcb5e19b48a8, 0x391c0cb3c5c95a63, 0x4ed8aa4ae3418acb, 0x5b9cca4f7763e373,
   0x682e6ff3d6b2b8a3, 0x748f82ee5defb2fc, 0x78a5636f43172f60, 0x84c87814a1f0ab72, 0x8cc702081a6439ec]
/-- Round constants 60 to 69. -/
def shaK6 : List W64 :=
  [0x90befffa23631e28, 0xa4506cebde82bde9, 0xbef9a3f7b2c67915, 0xc67178f2e372532b, 0xca273eceea26619c,
   0xd186b8c721c0c207, 0xeada7dd6cde0eb1e, 0xf57d4f7fee6ed178, 0x06f067aa72176fba, 0x0a637dc5a2c898a6]
/-- Round constants 70 to 79. -/
def shaK7 : List W64 :=
  [0x113f9804bef90dae, 0x1b710b35131c471b, 0x28db77f523047d84, 0x32caab7b40c72493, 0x3c9ebe0a15c9bebc,
   0x431d67c49c100d4c, 0x4cc5d4becb3e42b6, 0x597f299cfc657e2a, 0x5fcb6fab3ad6faec, 0x6c44198c4a475817]

/-- The round constants of SHA-512. -/
def shaK : List W64 := shaK0 ++ shaK1 ++ shaK2 ++ shaK3 ++ shaK4 ++ shaK5 ++ shaK6 ++ shaK7

/-- The hash value: eight words. -/
structure Hash where
  a : W64 := 0x6a09e667f3bcc908
  b : W64 := 0xbb67ae8584caa73b
  c : W64 := 0x3c6ef372fe94f82b
  d : W64 := 0xa54ff53a5f1d36f1
  e : W64 := 0x510e527fade682d1
  f : W64 := 0x9b05688c2b3e6c1f
  g : W64 := 0x1f83d9abfb41bd6b
  h : W64 := 0x5be0cd19137e2179
  deriving DecidableEq, Repr

/-- One round with a constant and a word of the message schedule. -/
def shaRound (s : Hash) (k w : W64) : Hash :=
  let s1 := s.e.rotateRight 14 ^^^ s.e.rotateRight 18 ^^^ s.e.rotateRight 41
  let ch := (s.e &&& s.f) ^^^ (~~~s.e &&& s.g)
  let t1 := s.h + s1 + ch + k + w
  let s0 := s.a.rotateRight 28 ^^^ s.a.rotateRight 34 ^^^ s.a.rotateRight 39
  let maj := (s.a &&& s.b) ^^^ (s.a &&& s.c) ^^^ (s.b &&& s.c)
  { a := t1 + (s0 + maj), b := s.a, c := s.b, d := s.c, e := s.d + t1, f := s.e, g := s.f, h := s.g }

/-- The next word of the schedule from the last sixteen, oldest first. -/
def shaNext (w : List W64) : W64 :=
  let x := w.getD 14 0
  let y := w.getD 1 0
  (x.rotateRight 19 ^^^ x.rotateRight 61 ^^^ (x >>> 6)) + w.getD 9 0 + (y.rotateRight 1 ^^^ y.rotateRight 8 ^^^ (y >>> 7)) + w.headD 0

/-- The rounds over the remaining constants; w holds this round's word and the fifteen after it. -/
def shaRounds : List W64 → List W64 → Hash → Hash
  | [], _, s => s
  | k :: ks, w, s => shaRounds ks (w.tail ++ [shaNext w]) (shaRound s k (w.headD 0))

/-- One block of sixteen words. -/
def shaBlock (s : Hash) (w : List W64) : Hash :=
  let t := shaRounds shaK w s
  { a := s.a + t.a, b := s.b + t.b, c := s.c + t.c, d := s.d + t.d, e := s.e + t.e, f := s.f + t.f, g := s.g + t.g, h := s.h + t.h }

/-- The number that bytes hold, most significant first. -/
def ofBytesBE (l : List Byte) : Nat := l.foldl (fun n b => n * 256 + b.toNat) 0

/-- The n low bytes of a number, most significant first. -/
def toBytesBE (n x : Nat) : List Byte := (toBytes n x).reverse

/-- The blocks of a padded message, at most n of them. -/
def shaBlocks : Nat → List Byte → Hash → Hash
  | 0, _, s => s
  | n + 1, l, s =>
    shaBlocks n (l.drop 128) (shaBlock s ((List.range 16).map (fun i => w64 (ofBytesBE ((l.drop (8 * i)).take 8)))))

/-- The message with its padding and its length in bits. -/
def shaPad (m : List Byte) : List Byte :=
  m ++ [0x80] ++ List.replicate ((239 - m.length % 128) % 128) 0 ++ toBytesBE 16 (8 * m.length)

/-- SHA-512, 64 bytes. -/
def sha512 (m : List Byte) : List Byte :=
  let p := shaPad m
  let h := shaBlocks (p.length / 128) p {}
  [h.a, h.b, h.c, h.d, h.e, h.f, h.g, h.h].flatMap (fun x => toBytesBE 8 x.toNat)

/-! ### P-521 -/

/-- The field's prime. -/
def p521 : Nat := 2 ^ 521 - 1
/-- The order of the base point. -/
def n521 : Nat := 0x1fffffffffffffffffffffffffffffffffffffffffffffffffffffffffffffffffa51868783bf2f966b7fcc0148f709a5d03bb5c9b8899c47aebb6fb71e91386409
/-- The constant term of the curve y^2 = x^3 - 3x + b. -/
def b521 : Nat := 0x51953eb9618e1c9a1f929a21a0b68540eea2da725b99b315f3b8b489918ef109e156193951ec7e937b1652c0bd3bb1bf073573df883d2c34f1ef451fd46b503f00
/-- The base point. -/
def g521 : Nat × Nat :=
  (0xc6858e06b70404e9cd9e3ecb662395b4429c648139053fb521f828af606b4d3dbaa14b5e77efe75928fe1dc127a2ffa8de3348b3c1856a429bf97e7e31c2e5bd66,
   0x11839296a789a3bc0045c8a5fb42c7d1bd998f54449579b446817afbd17273e662c97ee72995ef42640c550b9013fad0761353c7086a272c24088be94769fd16650)

/-- x^k mod m over the low f bits of k. -/
def powMod (m : Nat) : Nat → Nat → Nat → Nat
  | 0, _, _ => 1
  | f + 1, x, k => (if k % 2 = 1 then x else 1) * powMod m f (x * x % m) (k / 2) % m

/-- The inverse modulo a prime below 2^521 (or a prime of 521 bits). -/
def invMod (m x : Nat) : Nat := powMod m 521 (x % m) (m - 2)

/-- Whether a pair is a point of the curve, other than the one at infinity. -/
def onCurve (q : Nat × Nat) : Bool :=
  decide (q.1 < p521) && decide (q.2 < p521) && q.2 * q.2 % p521 == (q.1 * q.1 * q.1 + 3 * (p521 - q.1) + b521) % p521

/-- The sum of two points; none is the point at infinity. -/
def addPt : Option (Nat × Nat) → Option (Nat × Nat) → Option (Nat × Nat)
  | none, q => q
  | some a, none => some a
  | some (x1, y1), some (x2, y2) =>
    if x1 = x2 ∧ (y1 + y2) % p521 = 0 then none
    else
      let l :=
        if x1 = x2 then (3 * x1 * x1 + p521 - 3) * invMod p521 (2 * y1) % p521
        else (y2 + p521 - y1) * invMod p521 (x2 + p521 - x1) % p521
      let x3 := (l * l + 2 * p521 - x1 - x2) % p521
      some (x3, (l * (x1 + p521 - x3) + p521 - y1) % p521)

/-- k times a point, over the low f bits of k. -/
def mulPt : Nat → Nat → Option (Nat × Nat) → Option (Nat × Nat)
  | 0, _, _ => none
  | f + 1, k, q => let r := mulPt f (k / 2) (addPt q q); if k % 2 = 1 then addPt q r else r

/-- ECDSA verification of a signature over a message under a public key (03 R50). -/
def ecdsaOk (key : Nat × Nat) (m : List Byte) (r s : Nat) : Bool :=
  decide (0 < r ∧ r < n521 ∧ 0 < s ∧ s < n521) &&
    (let w := invMod n521 s
     let z := ofBytesBE (sha512 m)
     match addPt (mulPt 521 (z * w % n521) (some g521)) (mulPt 521 (r * w % n521) (some key)) with
     | some (x, _) => x % n521 == r
     | none => false)

/-- The public part of a secret key. -/
def publicKey (d : Nat) : Nat × Nat := (mulPt 521 d (some g521)).getD (0, 0)

/-- The ECDSA signature (r, s) of a message under a secret key, with the secret number k of the signature. -/
def ecdsaSign (d k : Nat) (m : List Byte) : Nat × Nat :=
  let r := (publicKey k).1 % n521
  (r, invMod n521 k * (ofBytesBE (sha512 m) + r * d) % n521)

end Sys2Proof.Machine
end

