-- ==== Sys2Proof/Machine/Sampler.lean ====
section
/-! DEFINITION. Tumbler, the sampler processor: starts, words, replies (09 R198 to R203; 16 R360 to R363; 12 R258, R261). -/

namespace Sys2Proof.Machine

/-! ### Replies (16 R361) -/

/-- A reply entry. -/
def replyEntry (seq status token : Nat) : Nat := token % 2 ^ 32 + status * 2 ^ 32 + seq * 2 ^ 40

/-- The local number of a sequence context (09 R198). -/
def Seq.localNo (q : Seq) : Nat := match q.owner with | some (_, _, n) => n | none => 0

/-- Whether a sequence context's program belongs to the item that its core runs now (09 R203). -/
def seqRuns (s : State) (q : Seq) : Bool :=
  let k := s.core q.core
  q.st == 1 && k.phase == .running && k.tk.launch == q.launch && k.tk.item == q.item

/-- Pushes an entry to q7 of a core and counts it (06 R133). -/
def pushReply (s : State) (c e : Nat) : State :=
  s.updCore c (fun k => (k.setQueue 7 (k.queue 7 ++ [w64 e])).mxCount 7 1)

/-! ### Starts (09 R200) -/

/-- SAMPLER_START: the head entry of q6 starts a program, waits, or is refused with a reply. -/
def execSamplerStart (s : State) : Out :=
  let c := s.unit
  let k := s.core c
  match k.phase == .running, k.queue 6 with
  | true, e :: r =>
    let e := e.toNat
    let sq := bitsOf e 37 32
    let pc := bitsOf e 18 0
    let pop (s : State) : State := s.updCore c (·.setQueue 6 r)
    let refuse (status : Nat) : Out :=
      .next (if k.room 7 1 then pushReply (pop s) c (replyEntry sq status 0) else s)
    if !k.cl.has (.seq sq) || pc % 4 != 0 || decide (k.spadLimit < pc + 4) then refuse 3
    else
      let n := localSeq s c sq
      match (s.seq n).st with
      | 1 => .next s
      | 2 => refuse 4
      | _ =>
        .next ((pop s).updSeq n (fun q =>
          { q with st := 1, pc := pc, k := q.k.put 0 0 (bitsOf e 63 48), core := c, launch := k.tk.launch, item := k.tk.item }))
  | _, _ => .next s

/-- Whether no reply of another program of the core has waited longer (09 R202). -/
def nextReply (s : State) (q : Seq) : Bool :=
  s.seqs.all (fun p => !(p.2.core == q.core && seqRuns s p.2 && p.2.reply.isSome && decide (p.2.replyAt < q.replyAt)))

/-- SAMPLER_REPLY (R361): a pending reply enters q7; after OK and NOCAND the program goes on past its emit, after any other status it halts. -/
def execSamplerReply (s : State) : Out :=
  let n := s.unit
  let q := s.seq n
  match q.reply with
  | none => .next s
  | some e =>
    if seqRuns s q && nextReply s q && (s.core q.core).room 7 1 then
      .next ((pushReply s q.core e).updSeq n (fun q =>
        if bitsOf e 35 32 < 2 then { q with reply := none, pc := q.pc + 4 } else { q with reply := none, st := 2 }))
    else .next s

/-- A running context halts with a reply that waits for room (R361). -/
def Seq.stop (q : Seq) (status token at_ : Nat) : Seq :=
  { q with reply := some (replyEntry q.localNo status token), replyAt := at_, emptyAt := none }

/-- SAMPLER_STALL_TIMEOUT (09 R200): the stalled word has no effect. -/
def execSamplerStallTimeout (s : State) : Out :=
  let q := s.seq s.unit
  match q.emptyAt with
  | none => .next s
  | some line => .next (if seqRuns s q then s.updSeq s.unit (·.stop 7 line s.tick) else s)

/-! ### Running a word -/

/-- How a sampler word ends. -/
inductive WordEnd where
  /-- The context goes on at the next word. -/
  | go (q : Seq)
  | idle
  /-- A reply with a status and a token; the context stays as it was before the word. -/
  | reply (status token : Nat)
  | empty (line : Nat)
  deriving DecidableEq, Repr

/-- The acting sequence context. -/
def State.seqNo (s : State) : Nat := match s.cur with | .sampler n => n | _ => s.unit

/-- Runs one word of the acting sequence context, where it is running and no reply of it is pending. -/
def runWord (f : Core → Seq → WordEnd) (s : State) : Out :=
  let n := s.seqNo
  let q := s.seq n
  if !seqRuns s q || q.reply.isSome then .next s
  else
    match f (s.core q.core) q with
    | .go r => .next (s.updSeq n (fun _ => { r with pc := q.pc + 4, emptyAt := none }))
    | .idle => .next (s.updSeq n (fun q => { q with st := 0, emptyAt := none }))
    | .reply st token => .next (s.updSeq n (·.stop st token s.tick))
    | .empty line => .next (s.updSeq n (fun q => { q with emptyAt := some line }))

/-- ILLFORMED_SAMPLER_WORD (12 R261): the token is the word's address. -/
def execIllformedSamplerWord (_w : Nat) (s : State) : Out := runWord (fun _ q => .reply 5 q.pc) s

/-- Errors among the words that n bytes of scratchpad touch count as they are read: the corrected ones, and those that are poisoned (06 R141). -/
def State.noteLoad (s : State) (c a n : Nat) : State :=
  let hi := (a + n + 7) / 8
  ((List.range' (a / 8) (hi - a / 8)).filter ((s.core c).spoison.get false)).foldl (fun s w => s.noteError c (errKey 4 w) true)
    (s.noteRead c 4 (a / 8) hi)

/-- The bytes that the sampler reads: a poisoned word gives free values (log 3). -/
def Core.sampled (k : Core) (a n : Nat) : List Byte :=
  (List.range' a n).map (fun i =>
    let b := k.spad.read i
    if k.spoison.get false (i / 8) then Config.poisonByte i b.toNat else b)

/-- A word that loads n bytes of scratchpad (09 R200): beyond the SPAD claim it is ill-formed, and an empty line stalls it. -/
def runLoad (a n : Nat) (f : Seq → List Byte → Seq) (s : State) : Out :=
  let q := s.seq s.seqNo
  let k := s.core q.core
  let good := seqRuns s q && q.reply.isNone && decide (a + n ≤ k.spadLimit) && (linesOf a n).all (fun l => !k.isEmpty l)
  runWord (fun k q =>
    if k.spadLimit < a + n then .reply 5 q.pc
    else
      match (linesOf a n).find? k.isEmpty with
      | some l => .empty (128 * l)
      | none => .go (f q (k.sampled a n))) (if good then s.noteLoad q.core a n else s)

/-! ### Candidates (16 R360) -/

/-- The value of a candidate or register. -/
abbrev f32 (x : Nat) : Val := valueOf F32 x

/-- −∞ as binary32. -/
abbrev negInf : Nat := 0xFF800000

/-- Whether slot a ranks before slot b: greater value, or an equal value and a lower index. -/
def ranksBefore (a b : Nat × Nat) : Bool :=
  match cmpVal (f32 a.1) (f32 b.1) with
  | some .gt => true
  | some .eq => decide (a.2 < b.2)
  | _ => false

/-- Inserts a slot after those that it does not rank before. -/
def rankIn (p : Nat × Nat) : List (Nat × Nat) → List (Nat × Nat)
  | [] => [p]
  | q :: r => if ranksBefore p q then p :: q :: r else q :: rankIn p r

/-- Slots in ranking order. -/
def ranked (l : List (Nat × Nat)) : List (Nat × Nat) := l.foldl (fun a p => rankIn p a) []

/-- Where no slot holds a NaN, g; else a NAN reply that names the lowest such slot (R362). -/
def noNan (q : Seq) (g : WordEnd) : WordEnd :=
  match q.cand.find? (fun p => (f32 p.1).isNan) with
  | some p => .reply 2 p.2
  | none => g

/-- Binary32 register x of a context. -/
def Seq.xr (q : Seq) (n : Nat) : Nat := (q.x.get 0 n).toNat
/-- Index register k of a context. -/
def Seq.kr (q : Seq) (n : Nat) : Nat := q.k.get 0 n
/-- Writes an x register. -/
def Seq.setX (q : Seq) (n v : Nat) : Seq := { q with x := q.x.put 0 n (BitVec.ofNat 32 v) }
/-- Writes a k register. -/
def Seq.setK (q : Seq) (n v : Nat) : Seq := { q with k := q.k.put 0 n (v % 2 ^ 32) }

/-- Rounds to binary32 with rne. -/
def rne32 (v : Val) : Nat := (roundFloat F32 0 false v).1

/-- Finite and above zero. -/
def positive : Val → Bool
  | .num n m _ => !n && m != 0
  | _ => false

/-! ### Words (16 R363) -/

/-- END. -/
def execSmpEndp (s : State) : Out := runWord (fun _ _ => .idle) s

/-- LDC. -/
def execSmpLdc (row n : Nat) (s : State) : Out :=
  runLoad (1024 * row) (8 * n) (fun q bs =>
    { q with cand := (List.range n).map (fun i =>
      (ofBytes ((bs.drop (8 * i)).take 4), ofBytes ((bs.drop (8 * i + 4)).take 4))) }) s

/-- MASK. -/
def execSmpMask (a b : Nat) (s : State) : Out :=
  runWord (fun _ q => .go { q with cand := q.cand.map (fun p => if p.2 < q.kr a ∨ q.kr b ≤ p.2 then (negInf, p.2) else p) }) s

/-- TEMP. -/
def execSmpTemp (a : Nat) (s : State) : Out :=
  runWord (fun _ q => noNan q (
    let t := f32 (q.xr a)
    if positive t then .go { q with cand := q.cand.map (fun p => (rne32 (divVal (f32 p.1) t).1, p.2)) }
    else .reply 6 q.pc)) s

/-- TOPK. -/
def execSmpTopk (a : Nat) (s : State) : Out :=
  runWord (fun _ q => noNan q (.go { q with cand := (ranked q.cand).take (q.kr a) })) s

/-- The weight of a candidate in topp. -/
def weight (v : Val) : Val := if positive v then v else .num false 0 0

/-- The least m of 1 or more whose first m weights reach p times their total, by exact comparison. -/
def reach (p total : Val) : List Val → Val → Nat → Nat
  | [], _, m => m
  | w :: r, acc, m =>
    let acc := (addVal 0 acc w).1
    if cmpVal acc (mulVal p total).1 = some .lt then reach p total r acc (m + 1) else m + 1

/-- TOPP. -/
def execSmpTopp (a : Nat) (s : State) : Out :=
  runWord (fun _ q => noNan q (
    let p := f32 (q.xr a)
    if positive p && cmpVal p (.num false 1 0) != some .gt && !q.cand.any (fun c => f32 c.1 == .inf false) then
      let l := ranked q.cand
      let ws := l.map (fun c => weight (f32 c.1))
      let total := (sumVals 0 ws).1
      .go { q with cand := if total.isZero then l else l.take (reach p total ws (.num false 0 0) 0) }
    else .reply 6 q.pc)) s

/-- The largest of values without NaN. -/
def maxVal (l : List Val) : Val := l.foldl (fun m v => if cmpVal m v = some .lt then v else m) (.inf true)

/-- NORM. -/
def execSmpNorm (s : State) : Out :=
  runWord (fun _ q => noNan q (
    if q.cand.any (fun c => f32 c.1 == .inf false) then .reply 6 q.pc
    else
      let m := maxVal (q.cand.map (fun c => f32 c.1))
      if m == .inf true then .go q
      else
        let es := q.cand.map (fun c => (transc .exp F32 0 false c.1 (addVal 0 (f32 c.1) m.neg).1).1)
        let t := (sumVals 0 (es.map f32)).1
        .go { q with cand := (q.cand.zip es).map (fun p => (rne32 (divVal (f32 p.2) t).1, p.1.2)) })) s

/-- GUMB. -/
def execSmpGumb (s : State) : Out :=
  runWord (fun _ q => noNan q (.go { q with cand := q.cand.map (fun p =>
    if f32 p.1 == .inf true then p else (rne32 (addVal 0 (f32 p.1) (f32 (gumbel q.seed q.pos p.2))).1, p.2)) })) s

/-- ARGMAX. -/
def execSmpArgmax (d : Nat) (s : State) : Out :=
  runWord (fun _ q => noNan q (
    match (ranked q.cand).head? with
    | some (v, x) => if f32 v == .inf true then .go ((q.setX d negInf).setK d (2 ^ 32 - 1)) else .go ((q.setX d v).setK d x)
    | none => .go ((q.setX d negInf).setK d (2 ^ 32 - 1)))) s

/-- ACCEPT. -/
def execSmpAccept (d a b : Nat) (s : State) : Out :=
  runWord (fun _ q => noNan q (
    let x := f32 (q.xr a)
    if positive x then
      let p := match q.cand.find? (fun c => c.2 == q.kr b) with
        | some c => if f32 c.1 == .inf true then .num false 0 0 else f32 c.1
        | none => .num false 0 0
      let le := match cmpVal (mulVal (gumbelU q.seed q.pos (q.kr b)) x).1 p with
        | some .gt => false
        | some _ => true
        | none => false
      .go (q.setK d le.toNat)
    else .reply 6 q.pc)) s

/-- EMIT: the reply waits for room in q7. -/
def execSmpEmit (a : Nat) (s : State) : Out :=
  runWord (fun _ q => .reply (if q.kr a = 2 ^ 32 - 1 then 1 else 0) (q.kr a)) s

/-- STAT. -/
def execSmpStat (d : Nat) (s : State) : Out := runWord (fun _ q => .go (q.setK d q.cand.length)) s
/-- MOVX. -/
def execSmpMovx (d a : Nat) (s : State) : Out := runWord (fun _ q => .go (q.setX d (q.xr a))) s
/-- MOVK. -/
def execSmpMovk (d a : Nat) (s : State) : Out := runWord (fun _ q => .go (q.setK d (q.kr a))) s
/-- LDX. -/
def execSmpLdx (d addr : Nat) (s : State) : Out :=
  runLoad addr 4 (fun q bs => q.setX d (ofBytes bs)) s
/-- LDK. -/
def execSmpLdk (d imm : Nat) (s : State) : Out := runWord (fun _ q => .go (q.setK d imm)) s
/-- SEED. -/
def execSmpSeed (addr : Nat) (s : State) : Out :=
  runLoad addr 16 (fun q bs => { q with seed := ofBytes (bs.take 8), pos := ofBytes (bs.drop 8) }) s
/-- POSADD. -/
def execSmpPosadd (imm : Nat) (s : State) : Out := runWord (fun _ q => .go { q with pos := (q.pos + imm) % 2 ^ 64 }) s

end Sys2Proof.Machine
end

