-- ==== Sys2Proof/Machine/Pages.lean ====
section
/-! DEFINITION. Page frames, the tables and leaves of a context, and the windows' own pages (01 R11; 04 R64 to R66; 10 R210; 13 R293). -/

namespace Sys2Proof.Machine

/-! ### Frames of 64 KiB -/

/-- The first frame and the number of frames of a stack of HBM4E, or of a die's LPDDR6 (01 R11). -/
def tierFrames (tier unit : Nat) : Nat × Nat :=
  if tier = 0 then (unit * 2 ^ 20, 2 ^ 20) else (2 ^ 24 + unit * 2 ^ 22, 2 ^ 22)

/-- Frames allocated in a range. -/
def State.framesUsed (s : State) (base n : Nat) : Nat := (s.frames.filter (fun p => decide (base ≤ p.1 ∧ p.1 < base + n))).length

/-- A free frame of a range; the search starts where the hint says (log 12). One of as many candidates as there are allocated frames, and one more, is free. -/
def State.freeIn (s : State) (base n : Nat) : Option Nat :=
  ((List.range (min n (s.frames.length + 1))).map (fun i => base + (s.allocHint + i) % n)).find? (fun f => s.frames.get (0, 0) f == (0, 0))

/-- Takes a zeroed frame of a range for a context of an interface. -/
def State.takeFrame (s : State) (base n vi ctx : Nat) : Option (Nat × State) :=
  (s.freeIn base n).map (fun f => (f, { (s.zero (f * 65536) 65536) with frames := s.frames.put (0, 0) f (vi + 1, ctx + 1) }))

/-! ### Page tables (04 R63 to R66) -/

/-- The leaves of a context that meet a range of virtual addresses. -/
def State.meets (s : State) (ctx va n : Nat) : List Leaf :=
  (s.leaves ctx).filter (fun l => decide (l.va < va + n ∧ va < l.va + leafBytes l.size))

/-- The entry of a 64 KiB page of a frame with READ and WRITE (04 R64). -/
def pte64 (frame : Nat) (pgrant : Bool) : Nat := 0xB5 + frame * 65536 + (if pgrant then 2 ^ 11 else 0)

/-- The frames of a table of a level and of those below it. -/
def State.tablesUnder (s : State) : Nat → Nat → List Nat
  | 0, f => [f]
  | l + 1, f => f :: (s.tables.get [] f).flatMap (fun q => if pteValid q.2 && pteType q.2 == 0 then s.tablesUnder l (pteFrame q.2) else [])

/-- The 4 KiB frames of a context's tables. -/
def State.tableFrames (s : State) (ctx : Nat) : List Nat := if (s.ctx ctx).live then s.tablesUnder 3 (s.ctx ctx).root else []

/-- The 64 KiB frames that hold tables of a context: no interface owns them (log 12). -/
def State.tableBlocks (s : State) (ctx : Nat) : List Nat := (s.frames.filter (fun p => p.2 == (0, ctx + 1))).map (·.1)

/-- A 4 KiB frame for a table of a context, in the stack of its home slice; none where the stack is full (R63; log 12). used has the frames that its tables have. -/
def State.newTable (s : State) (ctx : Nat) (used : List Nat) : Option (Nat × State) :=
  match ((s.tableBlocks ctx).flatMap (fun b => (List.range 16).map (16 * b + ·))).find? (fun f => !used.contains f) with
  | some f => some (f, s)
  | none =>
    let (base, n) := tierFrames 0 (homeSlice ctx)
    (s.freeIn base n).map (fun b => (16 * b, { s with frames := s.frames.put (0, 0) b (0, ctx + 1) }))

/-- Gives back the tables of a context that no entry points to. -/
def State.trimTables (s : State) (ctx : Nat) : State :=
  let used := s.tableFrames ctx
  let blocks := s.tableBlocks ctx
  { s with
    tables := s.tables.filter (fun p => !blocks.contains (p.1 / 16) || used.contains p.1)
    frames := s.frames.filter (fun p => !blocks.contains p.1 || used.any (fun f => f / 16 == p.1)) }

/-- Writes an entry of a table. -/
def State.setEntry (s : State) (frame i e : Nat) : State := { s with tables := s.tables.upd [] frame (fun t => Store.put 0 t i e) }

/-- The level of a leaf of a size (R63). -/
def sizeLevel (size : Nat) : Nat :=
  match size with
  | 0 => 0
  | 1 => 0
  | 2 => 1
  | _ => 2

/-- The table of a level on the path to an address, from a table of a level above it; what the path lacks is built (R66). -/
def State.tableFor (ctx va target : Nat) : Nat → Nat → State → Option (Nat × State)
  | 0, f, s => some (f, s)
  | l + 1, f, s =>
    if target = l + 1 then some (f, s)
    else
      let i := levelIndex (l + 1) va
      let e := s.tableEntry f i
      if pteValid e then if pteType e = 0 then State.tableFor ctx va target l (pteFrame e) s else none
      else
        match s.newTable ctx (s.tableFrames ctx) with
        | none => none
        | some (g, s) => State.tableFor ctx va target l g (s.setEntry f i (1 + g * 4096))

/-- Writes the entries of a leaf at its level, all 16 of a 64 KiB page, of which each FRAME or PGOFF is one greater than the one before (R65). -/
def State.setLeaf (s : State) (f : Nat) (l : Leaf) : State :=
  let i := levelIndex (sizeLevel l.size) l.va
  let unit := match pteType l.pte with | 1 => 2 ^ 12 | 2 => 2 ^ 20 | _ => 0
  if l.size = 1 then
    (List.range 16).foldl (fun s k => s.setEntry f (i + k) (if pteValid l.pte then l.pte + k * unit else 0)) s
  else s.setEntry f i (if pteValid l.pte then l.pte else 0)

/-- Adds a leaf to a context's table; an empty table in its place is released (R66). None where the path needs a table and there is no frame for one. -/
def State.addLeaf (s : State) (ctx : Nat) (l : Leaf) : Option State :=
  (State.tableFor ctx l.va (sizeLevel l.size) 3 (s.ctx ctx).root s).map (fun q => (q.2.setLeaf q.1 l).trimTables ctx)

/-- Removes a leaf that a context's table has. -/
def State.dropLeaf (s : State) (ctx : Nat) (l : Leaf) : State :=
  match State.tableFor ctx l.va (sizeLevel l.size) 3 (s.ctx ctx).root s with
  | some (f, t) => t.setLeaf f { l with pte := 0 }
  | none => s

/-! ### The end of a translation (04 R69, R73, R74) -/

/-- The words that an engine runs have had some leaves walked no longer. -/
def Core.unwalked (k : Core) (gone : Nat → Bool) : Core :=
  let keep (r : Ring) : Ring := { r with walked := r.walked.filter (fun a => !gone a) }
  { k with row := keep k.row, mat := keep k.mat }

/-- Removes a context's translations of a page from every instruction, data and copy cache, with the walks that read it (04 R69, R70). -/
def State.dropCached (s : State) (ctx va : Nat) : State :=
  let keep (l : List Tlb) : List Tlb := l.filter (fun e => !(e.id == ctx && e.va == va))
  { s with
    cores := s.cores.mapVals {} (fun _ p =>
      { p with k := if p.k.tk.ctx = ctx then p.k.unwalked (· == va) else p.k, itlb := keep p.itlb, dtlb := keep p.dtlb })
    ctlb := s.ctlb.mapVals [] (fun _ l => keep l)
    walks := s.walks.filter (fun w => !(w.ctx == ctx && w.leaf.va == va)) }

/-- Marks the lines of a copy that have been translated through addresses that are no longer so, in flight or kept for the check (R73, R74). -/
def Chan.retire (mark va n : Nat) (h : Chan) : Chan :=
  let hit (p : Target × Nat × Nat) : Bool := decide (p.2.1 < va + n ∧ va < p.2.1 + p.2.2)
  let line (l : Line) : Line := if (l.dst.getD []).any hit then { l with marks := l.marks ++ [mark] } else l
  { h with flight := h.flight.map line, kept := h.kept.map line }

/-- The agents of the contexts that mine chooses, of cores and walkers, with an access under way that has sent a command to a peer: core and agent. -/
def State.underWay (s : State) (mine : Nat → Bool) (which : PeerReq → Bool) : List (Nat × Nat) :=
  ((s.peerReqs.filter (fun r => which r && mine (s.ctxOf r.core r.agent))).map (fun r => (r.core, r.agent))).dedup

/-- Marks the lines of copies of the contexts that mine chooses that have been translated through addresses that are no longer so (R73, R74). -/
def State.retire (s : State) (mark : Nat) (mine : Nat → Bool) (va n : Nat) : State :=
  { s with
    cores := s.cores.mapVals {} (fun _ p =>
      if p.k.task.isSome && mine p.k.tk.ctx then { p with k := { p.k with chan := p.k.chan.mapVals {} (fun _ h => h.retire mark va n) } } else p) }

/-- A leaf of a context is gone, but for the accesses under way, which go on with it (R74). -/
def State.retireLeaf (s : State) (mark ctx : Nat) (l : Leaf) : State :=
  { s with oldLeaves := s.oldLeaves ++ (s.underWay (· == ctx) (fun _ => true)).map (fun a => { core := a.1, agent := a.2, leaf := l, mark := mark }) }

/-- Entries are gone from the ATC, but for the accesses under way that have changed something, which go on with them (R73, R76). -/
def State.retireAtc (s : State) (mark : Option Nat) (gone : List Tlb) : State :=
  { s with oldAtc := s.oldAtc ++ gone.flatMap (fun e =>
      (s.underWay (fun x => (s.ctx x).pasid == e.id) (·.acts)).map (fun a => { core := a.1, agent := a.2, ent := e, mark := mark })) }

/-- Whether something that carries a mark is still under way. -/
def State.marked (s : State) (mark : Nat) : Bool :=
  s.oldLeaves.any (·.mark == mark) || s.oldAtc.any (·.mark == some mark)
    || s.cores.any (fun p => p.2.k.chan.any (fun h => (h.2.flight ++ h.2.kept).any (·.marks.contains mark)))

/-! ### Pages of windows (10 R210) -/

/-- The task states of a context, resident and saved. -/
def State.tasksOf (s : State) (ctx : Nat) : List Core :=
  (s.cores.flatMap (·.2.tasks)).filter (fun k => k.task.isSome && k.tk.ctx == ctx)

/-- Whether an open window of the context holds an address of a range (04 R66; 10 R210; 13 R293). -/
def State.windowHolds (s : State) (ctx va n : Nat) : Bool :=
  (s.tasksOf ctx).any (fun k => k.liveWins.any (fun i =>
    let w := k.window i
    w.pages.any (fun p => decide (w.allocVa + 65536 * p.1 < va + n ∧ va < w.allocVa + 65536 * (p.1 + 1)))))

/-- Pages that the MEMORY claim of a task's image has left (03 R52). -/
def State.pagesLeft (s : State) (t : Task) : Nat :=
  t.claims.memory - ((s.vi t.vi).slots.get {} t.slot).pages

/-- Charges pages to a task's image. -/
def State.chargePages (s : State) (t : Task) (n : Nat) : State :=
  s.updVi t.vi (fun e => { e with slots := e.slots.upd {} t.slot (fun im => { im with pages := im.pages + n }) })

/-- An open window that holds logged stores in a physical range becomes failed (10 R213). -/
def Core.failWindows (base n : Nat) (k : Core) : Core :=
  k.liveWins.foldl (fun k i =>
    let w := k.window i
    if w.st = 1 ∧ w.dlog.any (fun e => decide (base ≤ e.2.1 ∧ e.2.1 < base + n)) then k.updWin i (fun w => { w with st := 2, why := 1 }) else k) k

/-- Applies f to the task states of a core that p admits, resident and saved. -/
def Phys.mapTasks (p : Phys) (which : Core → Bool) (f : Core → Core) : Phys :=
  let g (k : Core) : Core := if k.task.isSome && which k then f k else k
  { p with k := g p.k, saved := p.saved.mapVals none (fun _ o => o.map g) }

/-- The windows of a context's tasks, resident and saved, that hold stores in a range fail (10 R213). -/
def State.failWindows (s : State) (ctx base n : Nat) : State :=
  { s with cores := s.cores.mapVals {} (fun _ p => p.mapTasks (fun k => k.tk.ctx == ctx) (·.failWindows base n)) }

end Sys2Proof.Machine
end

