-- ==== Sys2Proof/Machine/Traps.lean ====
section
/-! DEFINITION. Steps that end a wait: trap delivery (13 R294), time limits (06 R128; 10 R209), the resumption of a fault (04 R75 to R80), and the answers of page walks and of the host (04 R69 to R73). -/

namespace Sys2Proof.Machine

/-- TRAP_DELIVERY (13 R294, step 5). -/
def execTrapDelivery (s : State) : Out := .next (s.updCore s.unit (·.deliver))

/-- The accumulators that a word of a ring names. -/
def ringAccs (m : Bool) (w : Nat) : List Nat :=
  if m then
    match decodeMat w with
    | .ok (.mmul f) => accsOf .mmul f
    | .ok (.mmv f) => accsOf .mmv f
    | .ok (.mtr f) => accsOf .mtr f
    | .ok (.mperm f) => accsOf .mperm f
    | .ok (.mrred f) => accsOf .mrred f
    | .ok (.mrd f) => accsOf .mrd f
    | .ok (.mwr f) => accsOf .mwr f
    | .ok (.mclr f) => accsOf .mclr f
    | _ => []
  else []

/-- A fault ends the word that an engine runs: its ring's, or the oldest follow-on word. -/
def State.failWord (s : State) (c : Nat) (m : Bool) (cause : Cause) (tval : Nat) : State :=
  let k := s.core c
  match (k.ring m).word with
  | some w => s.haltWord c m cause tval w (ringAccs m w)
  | none =>
    match m && k.followGo, k.follow with
    | true, w :: _ => s.haltFollow c cause tval w (ringAccs true w)
    | _, _ => s

/-- STALLED_ON_EMPTY (06 R128): the access has had no effect. -/
def execStalledOnEmpty (s : State) : Out :=
  let c := s.unit
  let n := s.arg
  let k := s.core c
  if n < 3 then
    match (s.cx c n).emptyAt with
    | some l => .next (s.raiseTrap c n .stalledOnEmpty ((s.cx c n).emptyFor.getD l) (s.cx c n).pc.toNat)
    | none => .next s
  else if n < 5 then
    match (k.ring (n == 4)).emptyAt with
    | some l => .next (s.failWord c (n == 4) .stalledOnEmpty l)
    | none => .next s
  else
    match (k.ch (n - 16)).emptyAt with
    | some l => .next (stopCopy s c (n - 16) (.trap .stalledOnEmpty l))
    | none => .next s

/-- WINDOW_LOG_WAIT_TIMEOUT (10 R209). The trap names the window that the access belongs to, or the first open one. -/
def execWindowLogWaitTimeout (s : State) : Out :=
  let c := s.unit
  let n := s.arg
  let k := s.core c
  let w (t : Option Nat) : Nat := t.getD (k.liveWins.headD 0)
  if n < 3 then
    if (s.cx c n).logWait then .next (s.raiseTrap c n .windowLimit (w (s.cx c n).window) (s.cx c n).pc.toNat) else .next s
  else if n < 5 then
    let r := k.ring (n == 4)
    if r.logWait then .next (s.failWord c (n == 4) .windowLimit (w (r.tag.map (·.1)))) else .next s
  else if (k.ch (n - 16)).logWait then .next (stopCopy s c (n - 16) (.trap .windowLimit (w none)))
  else .next s

/-- A copy that a resumable fault stopped goes on at its line (04 R78). A checking copy, of which nothing has landed, goes on at the line after those that it keeps (log 45). -/
def Chan.goOn (h : Chan) : Chan := { h with stopped := none, recorded := false }

/-- FAULT_RESUME (04 R75 to R78): a resolved fault lets its agent make the access again; one that is not is handled as a cause that is not resumable. Its record was posted when it was raised. -/
def execFaultResume (core agent : Nat) (resolved : Bool) (s : State) : Out :=
  let k := s.core core
  if agent < 3 then
    match (s.cx core agent).wait with
    | .fault cause tval epc _ =>
      if resolved then .next (s.updCore core (·.resumeCx agent))
      else
        let s := (s.dropReqs core agent).updCx core agent (fun q => { q with slot := false })
        let s := if k.trapEnds agent cause then s.abortWindows core else s
        .next (s.handleTrap core agent cause tval epc)
    | _ => .next s
  else if agent < 5 then
    let m := agent == 4
    match (k.ring m).held with
    | some (cause, tval) =>
      if resolved then .next (s.updRing core m (fun r => { r with held := none }))
      else .next { s.failWord core m cause tval with faults := s.faults }
    | none => .next s
  else
    let h := k.ch (agent - 16)
    match h.recorded, h.stopped with
    | true, some (cause, _) =>
      if resolved then .next (s.updCh core (agent - 16) (·.goOn))
      else .next ((s.dropReqs core agent).updCh core (agent - 16) (fun h => { h with stopped := none, failed := some cause, slot := false }))
    | _, _ => .next s

/-! ### Page walks (R69) -/

/-- Adds an entry to a translation cache of a size, whose oldest entry makes room. -/
def cacheIn (n : Nat) (e : Tlb) (l : List Tlb) : List Tlb :=
  let l := l ++ [e]
  l.drop (l.length - n)

/-- TABLE_WALK (R69): a walk whose entry a MAP has removed is gone from the list. -/
def execTableWalk (s : State) : Out :=
  match s.walks[s.unit]? with
  | none => .next s
  | some w =>
    let e : Tlb := { id := w.ctx, va := w.leaf.va, size := leafBytes w.leaf.size, ent := w.leaf.pte }
    let s := { s with walks := s.walks.eraseIdx s.unit }
    match w.cache with
    | 0 => .next (s.updPhys w.core (fun p => { p with itlb := cacheIn 16 e p.itlb }))
    | 1 => .next (s.updPhys w.core (fun p => { p with dtlb := cacheIn 128 e p.dtlb }))
    | _ => .next { s with ctlb := s.ctlb.upd [] (w.core / 4) (cacheIn 256 e) }

/-! ### The host's answers (R71 to R73) -/

/-- Whether a page fault of a PASID fails at once, since its interface has had a Response Failure (R72). -/
def State.failsAtOnce (s : State) (pasid : Nat) : Bool :=
  s.ctxs.any (fun p => p.2.live && p.2.pasid == pasid && (s.vi p.2.vi).priFail)

/-- The interface whose function uses a PASID. -/
def State.viOf (s : State) (pasid : Nat) : Nat := ((s.ctxs.find? (fun p => p.2.live && p.2.pasid == pasid)).map (·.2.vi)).getD 0

/-- Page requests that wait are sent, oldest first, as far as the host lets their function have them outstanding; one page request serves every access that waits for its page (R72; log 44). -/
def State.sendPages (s : State) : State :=
  let pages (v : Nat) (l : List AtsReq) : List (Nat × Nat) :=
    ((l.filter (fun q => q.st == 2 && s.viOf q.pasid == v)).map (fun q => (q.pasid, q.page))).dedup
  let send (l : List AtsReq) (i : Nat) : List AtsReq :=
    let q := l.getD i {}
    let v := s.viOf q.pasid
    let out := pages v l
    if q.st = 5 ∧ (out.contains (q.pasid, q.page) ∨ out.length < (s.vi v).priAlloc) then l.set i { q with st := 2 } else l
  { s with atsReqs := (List.range s.atsReqs.length).foldl send s.atsReqs }

/-- A translation enters the ATC; the one that makes room for it stays for the accesses under way that have changed something (R69, R76). -/
def State.atcIn (s : State) (e : Tlb) : State :=
  let l := cacheIn 16384 e s.atc
  { (s.retireAtc none (s.atc.filter (fun g => !l.contains g))) with atc := l }

/-- TRANSLATION_COMPLETION (R71, R72): it answers every Translation Request for the page. -/
def execTranslationCompletion (pasid page size haddr : Nat) (r w : Bool) (s : State) : Out :=
  let size := Nat.max size 4096
  let s :=
    if r || w then
      s.atcIn { id := pasid, va := page / size * size, size := size, ent := r.toNat + 2 * w.toNat + haddr / 4096 * 4096 }
    else s
  let after (q : AtsReq) : Option AtsReq :=
    if q.pasid == pasid && q.page == page && (q.st == 0 || q.st == 4) then
      if if q.write then w else r then none
      else some { q with st := if q.st = 4 ∨ s.failsAtOnce pasid then 3 else 5 }
    else some q
  .next ({ s with atsReqs := s.atsReqs.filterMap after }).sendPages

/-- Agents of a task that wait on a host page go on: they make the access again (R72). -/
def Core.resumeHost (page : Nat) (k : Core) : Core :=
  let here (a : Nat) : Bool := a / 4096 * 4096 == page
  let ring (r : Ring) : Ring :=
    match r.held with
    | some (.hostNotPresent, a) => if here a then { r with held := none } else r
    | _ => r
  let waits (q : Ctx) : Bool := match q.wait with | .fault .hostNotPresent _ _ va => here va | _ => false
  { (k.cx.filter (fun q => waits q.2)).foldl (fun k q => k.resumeCx q.1) k with
    row := ring k.row, mat := ring k.mat
    chan := k.chan.mapVals {} (fun _ h =>
      match h.recorded, h.stopped with
      | true, some (.hostNotPresent, a) => if here a then h.goOn else h
      | _, _ => h) }

/-- Applies f to the resident and the saved tasks of a PASID. -/
def State.mapTasks (s : State) (pasid : Nat) (f : Core → Core) : State :=
  { s with cores := s.cores.mapVals {} (fun _ p => p.mapTasks (fun k => (s.ctx k.tk.ctx).pasid == pasid) f) }

/-- The response to a page request (R72): ok lets each access that waits for it be tried once more, else it faults host page unavailable. -/
def State.pageResponse (s : State) (pasid page : Nat) (ok : Bool) : State :=
  let mine (q : AtsReq) : Bool := q.pasid == pasid && q.page == page && q.st == 2
  if s.atsReqs.any mine then
    let reqs : List AtsReq := (s.atsReqs.filter (fun q => !(mine q && q.core == noCore))).map (fun q =>
      if mine q then { q with st := if ok then 4 else 3 } else q)
    ({ s with atsReqs := reqs }.mapTasks pasid (·.resumeHost page)).sendPages
  else s

/-- PAGE_REQUEST_GROUP_RESPONSE (R72): code 0 Success, 1 Invalid Request, any other Response Failure. -/
def execPageRequestGroupResponse (pasid page code : Nat) (s : State) : Out :=
  let s := s.pageResponse pasid page (code == 0)
  .next (if code < 2 then s
    else (s.ctxs.filter (fun p => p.2.live && p.2.pasid == pasid)).foldl (fun s p => s.updVi p.2.vi (fun v => { v with priFail := true })) s)

/-- PRI_TIMEOUT (R72). -/
def execPriTimeout (s : State) : Out := .next (s.pageResponse s.unit s.arg false)

/-- ATS_PRI_CAPABILITY_WRITE (R71, R72): whether ATS and PRI are enabled, and how many page requests the function may have outstanding. -/
def execAtsPriCapabilityWrite (vi : Nat) (ats : Bool) (pri : PriSetting) (s : State) : Out :=
  .next (s.updVi vi (fun v => { v with atsOff := !(ats && pri.on), priFail := v.priFail && !pri.on, priAlloc := pri.alloc })).sendPages

/-- INVALIDATE_REQUEST (R73): every matching entry goes at once, and what was translated through it is marked. -/
def execInvalidateRequest (pasid base size : Nat) (s : State) : Out :=
  let hit (e : Tlb) : Bool := e.id == pasid && decide (e.va < base + size ∧ base < e.va + e.size)
  let s := (s.retire s.tick (fun x => (s.ctx x).pasid == pasid) base size).retireAtc (some s.tick) (s.atc.filter hit)
  .next { s with
    atc := s.atc.filter (fun e => !hit e)
    oldAtc := s.oldAtc.map (fun o => if hit o.ent ∧ o.mark = none then { o with mark := some s.tick } else o)
    invals := s.invals ++ [(pasid, s.tick)] }

/-- The ordinary and strong writes to host memory that are on their way are sent (R73). -/
def State.sendHost (s : State) : State := s.cores.foldl (fun s p => s.performIf p.1 (fun _ x => decide (hostWords ≤ x.word))) s

/-- INVALIDATION_COMPLETION (R73): an invalidation of whose entries nothing is under way completes, after the writes to the host that precede it. -/
def execInvalidationCompletion (s : State) : Out :=
  match s.invals.find? (fun q => !s.marked q.2) with
  | none => .next s
  | some q => .next { s.sendHost with invals := s.invals.erase q }

end Sys2Proof.Machine
end

