-- ==== Sys2Proof/Machine/Service.lean ====
section
/-! DEFINITION. syscall and the requests that the service kernel answers (13 R293; 06 R138, R139). -/

namespace Sys2Proof.Machine

/-- SYSCALL (R293): the post, which is a release at device scope; the wait; and the reply, an acquire at device scope. -/
def execSyscall (d a : Nat) (s : State) : Out :=
  let c := s.c
  let x := s.x
  match (s.cx c x).wait with
  | .service _ => .next s
  | .reply st =>
    runScalar .control (wordOf (.syscall d a)) (withRegs [a] (some d) (fun _ => .ok ()) (fun _ t =>
      .ok ((t.orderHost c).updCx c x (fun q => { q with wait := .none }), some st, .seq))) s
  | _ =>
    let post : Ex State := do
      let k := s.core c
      regCheck k [a] (some d)
      await (regReady k x [a] (some d))
      let ea := (readReg k (s.cx c x) a).toNat
      need (ea % 64 == 0) .controlValue ea
      need (decide (ea + 64 ≤ k.spadLimit)) .unclaimed ea
      noWindow s
      let s := s.drainCx c x
      let r : Request := { core := c, x := x, blk := ea, launch := k.tk.launch, item := k.tk.item }
      .ok (({ s with requests := s.requests ++ [r] } : State).updCx c x
        (fun q => { q with wait := .service ea, pfx := none, takes := queuesOf [a] }))
    let q := s.cx c x
    if (placeTrap .control 0 q).isSome || q.rep == .skip then
      runScalar .control (wordOf (.syscall d a)) (fun t => .ok (t, .seq)) s
    else
      match post with
      | .error e => .next (s.stopCx c x e)
      | .ok t => .next t

/-- The statuses of R293. -/
abbrev svcOk : Nat := 0
abbrev svcBadcode : Nat := 1
abbrev svcBadarg : Nat := 2
abbrev svcQuota : Nat := 3
abbrev svcNotmapped : Nat := 4
abbrev svcNomem : Nat := 5

/-- The task state that a request belongs to, resident or saved. -/
def State.asker (s : State) (r : Request) : Option Core := (s.phys r.core).tasks.find? (·.isTask r.launch r.item)

/-- Applies f to the task state that a request belongs to. -/
def State.updAsker (s : State) (r : Request) (f : Core → Core) : State :=
  s.updPhys r.core (·.mapTasks (·.isTask r.launch r.item) f)

/-- Handles a posted request, if its CODE is the given one and no earlier request of its context waits (03 R59); a code that names no request gets BADCODE. f answers the status with the state, from the task and the 64 bytes of the block, or none while the request must wait. -/
def serve (code : Nat) (f : Request → Core → Nat → State → Option (Nat × State)) (s : State) : Out :=
  match s.requests[s.unit]? with
  | none => .next s
  | some r =>
    match s.asker r with
    | none => .next s
    | some k =>
      let before (q : Request) : Bool := ((s.asker q).map (·.tk.ctx)) == some k.tk.ctx
      let b := ofBytes (k.spad.part r.blk 64)
      let has := b % 2 ^ 16
      let reply (st : Nat) (s : State) : Out :=
        .next ({ s with requests := s.requests.erase r }.updAsker r (fun k => { k with cx := k.cx.upd {} r.x (fun q => { q with wait := .reply st }) }))
      if (s.requests.take s.unit).any before then .next s
      else if has = code then
        if bitsOf b 63 16 ≠ 0 then reply svcBadarg s
        else
          match f r k b s with
          | some (st, t) => reply st t
          | none => .next s
      else if has = 0 ∨ 4 < has then reply svcBadcode s
      else .next s

/-- Writes a 32-bit result at byte 32 of a request's block. -/
def State.svcResult (s : State) (r : Request) (v : Nat) : State := s.updAsker r (·.spadWrite (r.blk + 32) (toBytes 4 v))

/-- Maps zeroed pages of a range of frames from a virtual address, one after another; none where a frame is lacking, for a page or for a table that it needs. -/
def State.mapPages (s : State) (base n vi slot ctx : Nat) (pgrant : Bool) : Nat → Nat → Option State
  | 0, _ => some s
  | i + 1, va =>
    match s.takeFrame base n vi ctx with
    | none => none
    | some (f, t) =>
      match t.addLeaf ctx { va := va, size := 1, pte := pte64 f pgrant } with
      | none => none
      | some t =>
        State.mapPages (t.updCtx ctx (fun r => { r with alloced := r.alloced ++ [(va, vi, slot)] })) base n vi slot ctx pgrant i (va + 65536)

/-- PAGEALLOC (R293). -/
def execPagealloc (s : State) : Out :=
  serve 1 (fun r k b s =>
    let t := k.tk
    let va := bitsOf b 127 64
    let tier := bitsOf b 135 128
    let unit := bitsOf b 143 136
    let n := bitsOf b 151 144
    if va % 65536 ≠ 0 ∨ 2 ^ 48 < va + 65536 * n ∨ 1 < tier ∨ (if tier = 0 then 11 else 3) < unit ∨ n = 0 ∨ 16 < n
        ∨ bitsOf b 159 153 ≠ 0 ∨ bitsOf b 255 160 ≠ 0 ∨ s.windowHolds t.ctx va (65536 * n)
        ∨ !(s.meets t.ctx va (65536 * n)).isEmpty then some (svcBadarg, s)
    else if s.pagesLeft t < n then some (svcQuota, s)
    else
      let (base, m) := tierFrames tier unit
      if m < s.framesUsed base m + n then some (svcNomem, s)
      else
        match s.mapPages base m t.vi t.slot t.ctx (bitAt b 152) n va with
        | none => some (svcNomem, s)
        | some u => some (svcOk, (u.chargePages t n).svcResult r n)) s

/-- The frame that a leaf of 64 KiB maps. -/
def leafFrame (l : Leaf) : Nat := bitsOf l.pte 43 16

/-- Frees one page that PAGEALLOC mapped: its translations, its frame and its charge. Windows that hold stores to it fail, as at a MAP that removes it (10 R213; log 31). -/
def State.freePage (s : State) (ctx va : Nat) : State :=
  match s.leafAt ctx va, (s.ctx ctx).alloced.find? (·.1 == va) with
  | some l, some (_, vi, slot) =>
    let s := ((s.failWindows ctx (leafFrame l * 65536) 65536).dropLeaf ctx l).dropCached ctx va
    let s := (s.freeFrame (leafFrame l)).updCtx ctx (fun r => { r with alloced := r.alloced.filter (·.1 != va) })
    s.updVi vi (fun e => { e with slots := e.slots.upd {} slot (fun im => { im with pages := im.pages - 1 }) })
  | _, _ => s

/-- Whether a line of the context's copies that has been translated to a range of addresses has still to land: in flight, or kept for the check. -/
def State.linesInto (s : State) (ctx va n : Nat) : Bool :=
  s.cores.any (fun p => p.2.k.task.isSome && p.2.k.tk.ctx == ctx && p.2.k.chan.any (fun h => (h.2.flight ++ h.2.kept).any (fun l =>
    (l.dst.getD []).any (fun q => decide (q.2.1 < va + n ∧ va < q.2.1 + q.2.2)))))

/-- PAGEFREE (R293): what was translated to the pages before completes first. -/
def execPagefree (s : State) : Out :=
  serve 2 (fun r k b s =>
    let ctx := k.tk.ctx
    let va := bitsOf b 127 64
    let n := bitsOf b 151 144
    let vas := (List.range n).map (fun i => va + 65536 * i)
    if va % 65536 ≠ 0 ∨ 2 ^ 48 < va + 65536 * n ∨ n = 0 ∨ 16 < n ∨ bitsOf b 143 128 ≠ 0 ∨ bitsOf b 255 152 ≠ 0 then some (svcBadarg, s)
    else if !vas.all (fun a => (s.ctx ctx).alloced.any (·.1 == a)) then some (svcNotmapped, s)
    else if s.linesInto ctx va (65536 * n) then none
    else some (svcOk, (vas.foldl (fun s a => s.freePage ctx a) s).svcResult r n)) s

/-- A layout entry as it is kept: its reserved bits are ignored and read 0 (06 R138; 00 R6). -/
def layoutEntry (e : Nat) : Nat := e / 2 ^ 21 % 2 ^ 235 * 2 ^ 21

/-- LAYOUTSET (R293; 06 R138, R139). -/
def execLayoutset (s : State) : Out :=
  serve 3 (fun _ k b s =>
    let h := bitsOf b 127 64
    let a := bitsOf b 159 128
    let e := ofBytes (k.spad.part a 32)
    if 65536 ≤ h ∨ k.spadLimit < a + 32 ∨ bitsOf b 255 160 ≠ 0 ∨ !bitAt e 21 ∨ bitsOf e 35 24 ≠ k.tk.ctx then some (svcBadarg, s)
    else if k.cl.layout ≤ h then some (svcQuota, s)
    else some (svcOk, s.updCtx k.tk.ctx (fun r => { r with layouts := r.layouts.put 0 h (layoutEntry e) }))) s

/-- LOGREC (R293): an entry of the error log of the context's home slice with the user's 24 bytes. -/
def execLogrec (s : State) : Out :=
  serve 4 (fun _ k b s =>
    some (svcOk, s.updSlice (homeSlice k.tk.ctx) (fun e => { e with errlog := e.errlog ++ [toBytes 24 (b / 2 ^ 64)] }))) s

end Sys2Proof.Machine
end

