-- ==== Sys2Proof/Machine/Sched.lean ====
section
/-! DEFINITION. The scheduler: loop nests and their items, the walkers, the start and the end of an item, pre-emption and resumption, gangs, ramps, batch tables, traces, ordered adds and the end of a launch (05 R81 to R106; 03 R54, R55; 06 R114; 13 R282; 02 R35 to R38). -/

namespace Sys2Proof.Machine

/-! ### Loop nests (R84, R87, R88) -/

/-- Whether a level is spatial. -/
def Level.spatial (l : Level) : Bool := l.kind == 1 || l.kind == 2

/-- The outer temporal, the spatial and the inner temporal levels of a record (R84). -/
def LoopRec.groups (r : LoopRec) : List Level × List Level × List Level :=
  if r.levels.any Level.spatial then
    let rest := r.levels.dropWhile (!·.spatial)
    (r.levels.takeWhile (!·.spatial), rest.takeWhile Level.spatial, rest.dropWhile Level.spatial)
  else
    let inner := (r.levels.reverse.takeWhile (·.kind == 0)).length
    if r.levels.any (·.kind == 3) then (r.levels.take (r.levels.length - inner), [], r.levels.drop (r.levels.length - inner))
    else ([], [], r.levels)

/-- The trip count of a level; a batch-sized one takes the snapshot's. -/
def Level.trips (l : Level) (batch : Nat) : Nat := if l.tripsrc = 2 then batch else l.trip
/-- The product of trip counts. -/
def tripsOf (ls : List Level) (batch : Nat) : Nat := ls.foldl (fun n l => n * l.trips batch) 1
/-- The indices of an ordinal over levels, outermost first. -/
def indicesOf (batch : Nat) : List Level → Nat → List Nat
  | [], _ => []
  | l :: r, x => x / tripsOf r batch % l.trips batch :: indicesOf batch r x

/-- The record that a launch walks. -/
def Launch.nest (l : Launch) : LoopRec := l.recs.getD l.ri {}
/-- Its snapshot's count. -/
def Launch.bt (l : Launch) : Nat := l.batch.getD 0
/-- Chains of an outer iteration. -/
def Launch.spatialN (l : Launch) : Nat := tripsOf l.nest.groups.2.1 l.bt
/-- Items of a chain. -/
def Launch.innerN (l : Launch) : Nat := tripsOf l.nest.groups.2.2 l.bt
/-- Outer iterations. -/
def Launch.outerN (l : Launch) : Nat := tripsOf l.nest.groups.1 0
/-- Outer iterations that one snapshot serves: those of the levels inside the KIND 3 level. -/
def Launch.perSnap (l : Launch) : Nat := tripsOf ((l.nest.groups.1.dropWhile (·.kind != 3)).drop 1) 0
/-- Whether the record has a batch table. -/
def LoopRec.batched (r : LoopRec) : Bool := r.levels.any (·.kind == 3)
/-- Whether a level gives the record no iterations (R85). -/
def LoopRec.isEmpty (r : LoopRec) : Bool := r.levels.any (fun l => l.tripsrc != 2 && l.trip == 0)
/-- Whether every item has ended or been skipped. -/
def Launch.finished (l : Launch) : Bool := decide (l.recs.length ≤ l.ri)
/-- The walk goes to outer iteration o of the record. -/
def Launch.goOuter (l : Launch) (o : Nat) : Launch :=
  { l with outer := o, sent := [], endedChains := 0, batch := if o % l.perSnap = 0 then none else l.batch }
/-- The walk goes to the next record (R81). -/
def Launch.goRecord (l : Launch) : Launch := { l with ri := l.ri + 1, outer := 0, sent := [], endedChains := 0, batch := none, committed := [] }
/-- The first outer iteration of the next iteration of the KIND 3 level. -/
def Launch.nextSnap (l : Launch) : Nat := (l.outer / l.perSnap + 1) * l.perSnap

/-- Passes over what is complete: empty records, outer iterations whose chains have ended, iterations of an empty batch (R81, R85, R92, R104). -/
def Launch.settle : Nat → Launch → Launch
  | 0, l => l
  | n + 1, l =>
    if l.finished then l
    else if l.nest.isEmpty || decide (l.outerN ≤ l.outer) then Launch.settle n l.goRecord
    else if l.nest.batched && l.batch.isNone then l
    else if l.spatialN = 0 then Launch.settle n (l.goOuter l.nextSnap)
    else if l.endedChains = l.spatialN then
      Launch.settle n { l.goOuter (l.outer + 1) with base := l.base + l.spatialN * l.innerN }
    else l

/-- The walk of a launch after its items' ends are noted. -/
def Launch.settled (l : Launch) : Launch := l.settle (2 * l.recs.length + 4)

/-- Whether the walk waits for a snapshot. -/
def Launch.wantsSnap (l : Launch) : Bool := !l.finished && l.nest.batched && l.batch.isNone

/-- The index of an item over the launch (R87). -/
def Launch.itemIndex (l : Launch) (j inner : Nat) : Nat := l.base + j * l.innerN + inner

/-! ### Images and slots -/

/-- The image of a launch. -/
def State.imageOf (s : State) (l : Launch) : Image := (s.vi l.vi).slots.get {} l.slot
/-- The dies that hold cores of a set, in increasing order. -/
def diesOf (set : List Nat) : List Nat := (List.range 4).filter (fun d => set.any (fun c => dieOf c == d))

/-- The die whose walker dispatches chain j (R91). -/
def Launch.dieFor (l : Launch) (set : List Nat) (j : Nat) : Nat :=
  let sp := l.nest.groups.2.1
  let dies := diesOf set
  if sp.any (·.kind == 2) then dies.getD (j / tripsOf (sp.filter (·.kind == 1)) l.bt % dies.length) 0 else dies.headD 0

/-- The cores that chain j may go to. -/
def Launch.coresFor (l : Launch) (set : List Nat) (j : Nat) : List Nat :=
  if l.nest.groups.2.1.any (·.kind == 2) then set.filter (fun c => dieOf c == l.dieFor set j) else set

/-- The trip count of the gang's level and the weight of its index in j (R100). -/
def Launch.gangLevel (l : Launch) : Nat × Nat :=
  let (o, sp, _) := l.nest.groups
  let i := l.nest.ganglvl - 1 - o.length
  ((sp.getD i {}).trips l.bt, tripsOf (sp.drop (i + 1)) l.bt)
/-- The index j with the gang's level at 0. -/
def Launch.gangKey (l : Launch) (j : Nat) : Nat := let (n, w) := l.gangLevel; j - j / w % n * w
/-- The chains that are dispatched with chain j: its gang, or itself. -/
def Launch.mates (l : Launch) (j : Nat) : List Nat :=
  if l.nest.ganglvl = 0 then [j]
  else
    let (n, w) := l.gangLevel
    (List.range n).map (fun i => l.gangKey j + i * w)

/-- Frees an image slot (03 R54): every page charged to it goes back, and its sequence contexts. -/
def State.freeSlot (s : State) (v slot : Nat) : State :=
  let im := (s.vi v).slots.get {} slot
  let s := im.bound.foldl (fun s p =>
    (match s.leafAt im.ctx p.1 with
     | some l => if leafFrame l = p.2 then (s.dropLeaf im.ctx l).dropCached im.ctx p.1 else s
     | none => s).freeFrame p.2) s
  let s := ((s.ctx im.ctx).alloced.filter (fun a => a.2.1 == v && a.2.2 == slot)).foldl (fun s a => s.freePage im.ctx a.1) s
  let s := { s with seqs := s.seqs.mapVals {} (fun _ q =>
      match q.owner with
      | some (w, sl, _) => if w = v ∧ sl = slot then {} else q
      | none => q) }
  s.updVi v (fun e => { e with slots := e.slots.put {} slot {} })

/-! ### Energy records (02 R35 to R38) -/

/-- The distinct contexts resident on the other cores of a core's cluster. -/
def State.others (s : State) (c : Nat) : List Nat :=
  ((List.range' (8 * clusterOf c) 8).filterMap (fun d => if d = c ∨ (s.core d).phase = .free then none else (s.core d).task.map (·.ctx))).dedup

/-- Notes who is resident in a cluster for the interval under way on each of its cores (R37). -/
def State.noteResidents (s : State) (cl : Nat) : State :=
  (List.range' (8 * cl) 8).foldl (fun s c =>
    let now := s.others c
    s.updPhys c (fun p => if p.sets.contains now then p else { p with sets := p.sets ++ [now] })) s

/-- An energy record of an interval on a core: the interface that gets it, the context it is charged to, its kind and energy, the start and end of the interval, the contexts of the core's own tasks in it, and the sets of contexts that ran beside them. -/
structure Interval where
  vi : Nat
  ctx : Nat
  kind : Nat
  uj : Nat
  t0 : Nat
  t1 : Nat
  own : List Nat
  sets : List (List Nat)

/-- Emits the record of an interval to the home slice of the context it is charged to (R36 to R38). NRES counts the contexts that were resident together, of which the house account is none, and is 1 where there were none (log 25). -/
def State.emitEnergy (s : State) (c : Nat) (i : Interval) : State :=
  let there := i.sets.map (fun l => (i.own ++ l).dedup)
  let r : EnergyRec :=
    { vi := i.vi, microj := i.uj, tend := i.t1, tstart := i.t0, nres := there.foldl (fun n l => max n l.length) 1
      shared := there.any (fun l => l.any (· != i.ctx)), kind := i.kind, cluster := clusterOf c, ctx := i.ctx }
  s.updSlice (homeSlice i.ctx) (fun e => { e with erecs := e.erecs ++ [r] })

/-- The context of the task on a core, if there is one. -/
def State.resident (s : State) (c : Nat) : List Nat := if (s.core c).phase = .free then [] else [(s.core c).tk.ctx]

/-- A HOUSE record of what the core's cluster spends in this move; no task's RUN record has it too (R34, R36; 06 R142). -/
def State.houseMove (s : State) (c : Nat) : State :=
  let cl := clusterOf c
  let d := s.energyAt cl (s.tick + 1) - s.energyAt cl s.tick
  (s.emitEnergy c { vi := 0, ctx := 0, kind := 4, uj := d, t0 := s.cycle cl, t1 := s.cycleAt cl (s.tick + 1), own := s.resident c
                    sets := [s.others c] }).updPhys c (fun p => { p with lastE := p.lastE + d })

/-- RUN of a context, and BALLAST for each interface that required it, since the previous switch on a core; vi says which interface gets the records of a context (R36; 03 R57, R61). -/
def State.emitRun (s : State) (c out : Nat) (vi : Nat → Nat) : State :=
  let cl := clusterOf c
  let p := s.phys c
  let e1 := s.energyAt cl s.tick
  let grown := ((s.cluster cl).ballast.map (fun q => ((s.cluster cl).lastCtx.get 0 q.1, q.2 - p.lastB.get 0 q.1))).filter (·.2 != 0)
  let emit (s : State) (ctx kind uj : Nat) : State :=
    s.emitEnergy c { vi := vi ctx, ctx := ctx, kind := kind, uj := uj, t0 := p.lastT, t1 := s.cycle cl, own := [out], sets := p.sets }
  (if grown.isEmpty then [(out, 0)] else grown).foldl (fun s q => emit s q.1 3 q.2) (emit s out 0 (e1 - p.lastE - (grown.map (·.2)).sum))

/-- Samples 1 and 2 of a switch on a core from a context: RUN, BALLAST for each interface that required it, and SAVE, or HOUSE where the save is for a test; save says whether this move saves. A context that has been freed since has no interface, and its records go to interface 0 (03 R57; log 25). -/
def State.switchOut (s : State) (c out : Nat) (freed save house : Bool) : State :=
  let cl := clusterOf c
  let owner (x : Nat) : Nat := if freed && x == out then 0 else (s.ctx x).vi
  let e1 := s.energyAt cl s.tick
  let e2 := if save then s.energyAt cl (s.tick + 1) else e1
  let t1 := s.cycle cl
  let t2 := if save then s.cycleAt cl (s.tick + 1) else t1
  let s := s.emitRun c out owner
  let now := [s.others c]
  let s := s.emitEnergy c { vi := if house then 0 else owner out, ctx := if house then 0 else out, kind := if house then 4 else 1, uj := e2 - e1
                            t0 := t1, t1 := t2, own := [out], sets := now }
  s.updPhys c (fun p => { p with sample2 := some (e2, t2), sets := now, acct := none })

/-- Sample 3 of a switch to a context: RESTORE, or HOUSE after a test, and the interval that starts; restore says whether this move restores. -/
def State.switchIn (s : State) (c new : Nat) (restore house : Bool) : State :=
  let cl := clusterOf c
  let t := if restore then s.tick + 1 else s.tick
  let (e2, t2) := (s.phys c).sample2.getD (s.energyAt cl s.tick, s.cycle cl)
  let e3 := s.energyAt cl t
  let now := s.others c
  let s := s.emitEnergy c { vi := if house then 0 else (s.ctx new).vi, ctx := if house then 0 else new, kind := if house then 4 else 2
                            uj := e3 - e2, t0 := t2, t1 := s.cycleAt cl t, own := [new], sets := (s.phys c).sets ++ [now] }
  s.updPhys c (fun p =>
    { p with lastE := e3, lastB := (s.cluster cl).ballast, lastT := s.cycleAt cl t, sample2 := none, sets := [now], acct := some (new, false) })

/-- The records of a switch that brings a context to a core. Within one context there is no switch; what a return from a test costs is then charged by itself (R34). -/
def State.energySwitch (s : State) (c new : Nat) (restore house : Bool) : State :=
  match (s.phys c).sample2, (s.phys c).acct with
  | some _, _ => s.switchIn c new restore house
  | none, some (old, freed) =>
    if old = new ∧ freed = false then (if house then s.houseMove c else s)
    else (s.switchOut c old freed false false).switchIn c new restore house
  | none, none => s.switchIn c new restore house

/-- The account of a core is closed with no switch: RUN and BALLAST of what its context has spent, to interface 0 where the interface is v (03 R61). -/
def State.closeAccount (s : State) (c v : Nat) : State :=
  let cl := clusterOf c
  match (s.phys c).acct with
  | none => s
  | some (out, freed) =>
    let owner (x : Nat) : Nat := if (s.ctx x).vi = v ∨ (freed ∧ x = out) then 0 else (s.ctx x).vi
    (s.emitRun c out owner).updPhys c (fun p =>
      { p with lastE := s.energyAt cl s.tick, lastB := (s.cluster cl).ballast, lastT := s.cycle cl, acct := none, sample2 := none
               sets := [s.others c] })

/-- A task of a context has come to a core: the cluster notes it for R37 and R101. -/
def State.arrived (s : State) (c : Nat) : State :=
  let t := (s.core c).tk
  (s.updCluster (clusterOf c) (fun e => { e with lastCtx := e.lastCtx.put 0 t.vi t.ctx })).noteResidents (clusterOf c)

/-! ### The end of items (R90, R92) -/

/-- The chain of a launch whose current item a task is. -/
def chainIs (l : Launch) (t : Task) (ch : Chain) : Bool := l.itemIndex ch.j ch.inner == t.item

/-- A launch takes note of the end of an item: its chain goes on, has ended, or is skipped from there, and then no listed item of it is left to replay (R92, R106). -/
def Launch.noteEnd (l : Launch) (t : Task) (fault : Bool) : Launch :=
  match l.running.find? (chainIs l t) with
  | none => l
  | some ch =>
    let others := l.running.filter (fun x => x.j != ch.j)
    if !fault && decide (ch.inner + 1 < l.innerN) then
      { l with running := others ++ [{ ch with inner := ch.inner + 1, live := false }] }
    else
      let skipped := (List.range' (ch.inner + 1) (l.innerN - (ch.inner + 1))).map (l.itemIndex ch.j)
      { l with running := others, endedChains := l.endedChains + 1, faulted := l.faulted || fault
               replay := l.replay.filter (fun r => !skipped.contains r.item) }.settled

/-- Applies f to a launch. -/
def State.updLaunch (s : State) (id : Nat) (f : Launch → Launch) : State :=
  { s with launches := s.launches.map (fun l => if l.id = id then f l else l) }

/-- A core runs no task. One that a test was to save, and that has ended before, is saved for none (02 R34). -/
def Phys.freed (p : Phys) : Phys :=
  { p with k := { p.k with phase := .free, task := none }, tested := p.tested.filter (fun i => (p.saved.get none i).isSome) }

/-- Takes note of every item that has ended; its core is free. -/
def State.noteEnds (s : State) : State :=
  s.cores.foldl (fun s p =>
    match p.2.k.phase with
    | .ended fault => (s.updLaunch p.2.k.tk.launch (fun l => l.noteEnd p.2.k.tk fault)).updPhys p.1 (·.freed)
    | _ => s) s

/-! ### Placing items (R91, R92, R100, R106) -/

/-- A chain's item that may be dispatched, with the core that it must go to, if any. -/
structure Cand where
  j : Nat
  inner : Nat
  core : Option Nat
  deriving DecidableEq, Repr

/-- Chains not yet begun in this outer iteration, of which gangs give their first member. -/
def Launch.newChains (l : Launch) : List Nat :=
  ((List.range l.spatialN).filter (fun j => !l.sent.contains j && (l.nest.ganglvl == 0 || l.gangKey j == j)))

/-- The records of a replay that each core takes next (R106). -/
def Launch.heads (l : Launch) : List TraceRec :=
  l.replay.filter (fun r => (l.replay.find? (fun q => q.pcore == r.pcore)).map (·.item) == some r.item)

/-- Whether a member of the gang that holds chain j is being saved or has been: the gang goes on whole (R100). -/
def State.gangAway (s : State) (l : Launch) (j : Nat) : Bool :=
  let mate (k : Core) : Bool := k.task.isSome && k.tk.launch == l.id && k.tk.gang && k.tk.gangKey == l.gangKey j
  l.nest.ganglvl != 0 && s.cores.any (fun p => (p.2.k.phase == .draining && mate p.2.k) || p.2.saved.any (fun e => e.2.any mate))

/-- What the walker of a die may dispatch for a launch, in canonical order; each entry is dispatched together. -/
def State.cands (s : State) (l : Launch) (set : List Nat) (die : Nat) : List (List Cand) :=
  let here (j : Nat) : Bool := l.dieFor set j == die && !s.gangAway l j
  if l.finished || l.wantsSnap then []
  else if bitAt l.flags 1 then
    let listed (j inner : Nat) : Option Nat := (l.heads.find? (fun r => r.item == l.itemIndex j inner)).map (·.pcore)
    let go := (l.running.filter (fun ch => !ch.live && here ch.j)).filterMap (fun ch =>
      (listed ch.j ch.inner).map (fun c => [({ j := ch.j, inner := ch.inner, core := some c } : Cand)]))
    let new := (l.newChains.filter here).filterMap (fun j =>
      (l.mates j).mapM (fun m => (listed m 0).map (fun c => ({ j := m, inner := 0, core := some c } : Cand))))
    go ++ new
  else
    let go := (l.running.filter (fun ch => !ch.live && here ch.j)).map (fun ch =>
      [({ j := ch.j, inner := ch.inner, core := some ch.core } : Cand)])
    let new := (l.newChains.filter here).map (fun j => (l.mates j).map (fun m => ({ j := m, inner := 0, core := none } : Cand)))
    go ++ new

/-- Whether a chain other than the given one keeps a core for items of priority p or more (R92). -/
def State.reserved (s : State) (c p id j : Nat) : Bool :=
  s.launches.any (fun l => decide (p ≤ l.prio) && l.running.any (fun ch => ch.core == c && !(l.id == id && ch.j == j)))

/-- Whether a core is free for an item of priority p (R92, R98; 02 R34): it runs no task and no test is due, and no task saved on it and no chain kept on it has the priority p or more. -/
def State.coreFree (s : State) (c p id j : Nat) : Bool :=
  (s.core c).phase == .free && !(s.phys c).testDue && (s.phys c).saved.all (fun e => e.2.isNone || decide (e.1 < p)) && !s.reserved c p id j

/-- Whether an item of priority p may pre-empt what runs on a core. -/
def State.corePreempts (s : State) (c p : Nat) : Bool := (s.core c).phase == .running && decide ((s.core c).tk.prio < p)

/-- Chooses a core for each member in turn. -/
def pickCores (free : Nat → Nat → Bool) (allowed : Nat → List Nat) : List Cand → List Nat → Option (List (Cand × Nat))
  | [], _ => some []
  | m :: r, taken =>
    let opts := match m.core with | some c => [c] | none => allowed m.j
    match opts.find? (fun c => free m.j c && !taken.contains c) with
    | none => none
    | some c => (pickCores free allowed r (c :: taken)).map ((m, c) :: ·)

/-- What a walker does next. -/
inductive Walked where
  | place (id : Nat) (l : List (Cand × Nat))
  | preempt (core : Nat)
  | none
  deriving DecidableEq, Repr

/-- The core to pre-empt for members that find too few free cores: of the lowest priority, then the lowest number (R92). -/
def State.victim (s : State) (p id : Nat) (allowed : Nat → List Nat) (ms : List Cand) : Option Nat :=
  let opts := (ms.flatMap (fun m => match m.core with | some c => [c] | Option.none => allowed m.j)).dedup
  let able := opts.filter (fun c => s.corePreempts c p)
  let free := opts.filter (fun c => ms.any (fun m => s.coreFree c p id m.j))
  if opts.any (fun c => (s.core c).phase == .draining) || decide (able.length + free.length < ms.length) then Option.none
  else
    able.foldl (fun (b : Option Nat) c =>
      match b with
      | some d => if (s.core c).tk.prio < (s.core d).tk.prio then some c else some d
      | Option.none => some c) Option.none

/-- What is done next for a launch's items: the first group that finds its cores, else the first for which a task can be pre-empted. -/
def State.actFor (s : State) (l : Launch) (allowed : Nat → List Nat) (cs : List (List Cand)) : Walked :=
  match cs.findSome? (fun ms => pickCores (fun j c => s.coreFree c l.prio l.id j) allowed ms []) with
  | some ps => .place l.id ps
  | Option.none =>
    match cs.findSome? (s.victim l.prio l.id allowed) with
    | some c => .preempt c
    | Option.none => .none

/-- The walk over launches in their order. kept has the cores that a launch's next items wait for, with its priority: later launches of that priority leave them alone (R92; log 28). A chain's later item waits for its own core only. Where an item that another die's walker holds can be dispatched, later launches of its priority are shut out until it is, and those of any priority leave its cores alone (R92, R98). -/
def State.walkOver (s : State) (die : Nat) : List Launch → List (Nat × Nat) → List Nat → List Nat → Walked
  | [], _, _, _ => .none
  | l :: r, kept, shut, busy =>
    if shut.contains l.prio then s.walkOver die r kept shut busy
    else
      let set := (s.imageOf l).coreSet
      let open_ (c : Nat) : Bool := !kept.contains (l.prio, c) && !busy.contains c
      let allowed (j : Nat) : List Nat := (l.coresFor set j).filter open_
      let fit (cs : List (List Cand)) : List (List Cand) :=
        cs.filter (fun ms => ms.all (fun m => match m.core with | some c => open_ c | Option.none => true))
      let mine := fit (s.cands l set die)
      match s.actFor l allowed mine with
      | .none =>
        let theirs := fit (((diesOf set).filter (· != die)).flatMap (s.cands l set))
        let waits (cs : List (List Cand)) : List Nat := (cs.flatMap (fun ms => ms.flatMap (fun m =>
          if m.inner ≠ 0 then [] else match m.core with | some c => [c] | Option.none => allowed m.j))).dedup
        let kept := kept ++ (waits (mine ++ theirs)).map (fun c => (l.prio, c))
        if s.actFor l allowed theirs = .none then s.walkOver die r kept shut busy
        else s.walkOver die r kept (l.prio :: shut) (busy ++ waits theirs)
      | a => a

/-- Launches by priority, and by acceptance within one. -/
def State.byPriority (s : State) : List Launch :=
  [3, 2, 1, 0].flatMap (fun p => s.launches.filter (·.prio == p))

/-- What the walker of a die does next. -/
def State.walk (s : State) (die : Nat) : Walked := s.walkOver die s.byPriority [] [] []

/-- The virtual address of a launch's parameter copy (R86). -/
def State.paramAddr (s : State) (l : Launch) : Nat := (s.imageOf l).paramVa + 4096 * l.paramCopy

/-- The task of an item (R88, R89). -/
def State.taskOf (s : State) (l : Launch) (j inner : Nat) : Task :=
  let im := s.imageOf l
  let (o, sp, i) := l.nest.groups
  { launch := l.id, item := l.itemIndex j inner, vcore := j % 1024, vi := l.vi, slot := l.slot, ctx := l.ctx, prio := l.prio
    ordered := bitAt l.flags 3, claims := im.claims, templates := im.templates, paramVa := s.paramAddr l
    entry := l.nest.entry, rowpc := l.nest.rowpc, matpc := l.nest.matpc
    lvl := indicesOf l.bt o l.outer ++ indicesOf l.bt sp j ++ indicesOf l.bt i inner
    gang := l.nest.ganglvl != 0, gangKey := if l.nest.ganglvl = 0 then j else l.gangKey j }

/-- The next record of a launch's trace, taken in dispatch order; beyond CAP the overflow bit is set (R105). -/
def State.traceSlot (s : State) (l : Launch) : State × Option Nat :=
  if !bitAt l.flags 0 then (s, none)
  else if s.hostMem.num l.traceAddr 8 ≤ l.traced then
    ((s.hostWrite (l.traceAddr + 16) (toBytes 8 (s.hostMem.num (l.traceAddr + 16) 8 / 2 * 2 + 1))), none)
  else (s.updLaunch l.id (fun l => { l with traced := l.traced + 1 }), some l.traced)

/-- Places one item. -/
def State.placeItem (s : State) (id : Nat) (m : Cand) (c : Nat) : State :=
  match s.launches.find? (·.id == id) with
  | none => s
  | some l =>
    let (s, at_) := s.traceSlot l
    let t := { s.taskOf l m.j m.inner with traceAt := at_ }
    (s.updLaunch id (fun l =>
      { l with
        sent := if l.sent.contains m.j then l.sent else l.sent ++ [m.j]
        running := l.running.filter (fun x => x.j != m.j) ++ [{ core := c, j := m.j, inner := m.inner }]
        replay := l.replay.filter (fun r => !(r.item == t.item)) })).updCore c (fun k => { k with task := some t, phase := .dispatched })

/-- DISPATCH (R92): the walker of a die places one item, or one gang whole, or asks for a pre-emption. -/
def execDispatch (s : State) : Out :=
  let s := s.noteEnds
  match s.walk s.unit with
  | .place id l => .next (l.foldl (fun s p => s.placeItem id p.1 p.2) s)
  | .preempt c => .next (if s.agenda.contains (.event .preemption c 0) then s else s.dueEvent .preemption c 0)
  | .none => .next s

/-! ### The start of an item (R89; 03 R55) -/

/-- The slots that a ring gets at item start (06 R110). -/
def ringSlots (spad base slot most : Nat) : Nat := min most ((spad - base) / slot)

/-- The banks as an item finds them: on where they hold a claimed tile, else off (06 R124). -/
def Core.startBanks (k : Core) : Core :=
  (List.range 4).foldl (fun k b => k.setBankPower b (if (bankTiles b).any (fun n => k.cl.has (.tile n)) then 2 else 0)) k

/-- What the core holds at an item's first instruction: what an item of the same context left, or cleared state. -/
def Core.startItem (k : Core) : Core :=
  let t := k.tk
  let kept : Core :=
    if k.holder = some t.ctx then
      { spad := k.spad, empty := k.empty, spoison := k.spoison, tiles := k.tiles, opfile := k.opfile, latch := k.latch, acc := k.acc
        acctag := k.acctag, rerr := k.rerr, corr := k.corr, cb := k.cb, st := k.st, cd := k.cd, win := k.win, tbpwr := k.tbpwr }
    else {}
  let regs := (List.range 6).map (fun i => (i + 1, t.lvl.getD i 0)) ++ [(7, t.vcore), (8, t.paramVa), (9, t.item)]
  { kept with
    holder := some t.ctx, task := some t, phase := .running, einj := k.einj
    cx := [(0, { live := true, pc := w64 t.entry, s := regs.foldl (fun (m : Store W64) (r : Nat × Nat) => Store.put 0 m r.1 (w64 r.2)) [] })]
    row := { base := t.rowpc, size := ringSlots t.claims.spad t.rowpc 12 43690 }
    mat := { base := t.matpc, size := ringSlots t.claims.spad t.matpc 24 21845 } }.startBanks

/-- Writes the record of the item that starts, at its place in the launch's trace (R105). -/
def State.traceItem (s : State) (c : Nat) : State :=
  let t := (s.core c).tk
  match t.traceAt, s.launches.find? (·.id == t.launch) with
  | some n, some l =>
    let r := t.vcore + c * 2 ^ 24 + t.item * 2 ^ 32 + s.cycle (clusterOf c) * 2 ^ 64
    s.hostWrite (l.traceAddr + 1152 + 16 * n) (toBytes 16 r)
  | _, _ => s

/-- The item that has been dispatched to a core starts: an acquire at device scope (R89, R90). -/
def State.begin (s : State) (c : Nat) : State :=
  let s := s.energySwitch c (s.core c).tk.ctx false false
  let s := (s.updCore c (·.startItem)).learn c s.itemKnow
  ((s.refresh c 3).traceItem c).arrived c

/-- ITEM_START (R89): the first instruction is about to run. -/
def execItemStart (s : State) : Out := .next (if (s.core s.unit).phase = .dispatched then s.begin s.unit else s)

/-! ### The end of an item (06 R114) -/

/-- Whether every condition of R114 holds. -/
def Core.complete (k : Core) : Bool :=
  k.phase == .running && k.row.notified && k.row.word.isNone && k.mat.notified && k.mat.word.isNone && k.follow.isEmpty
    && k.cx.all (fun p => !p.2.live) && k.chan.all (fun p => p.2.phase == .idle)

/-- COMPLETION_EVENT (06 R114; R90). -/
def execCompletionEvent (s : State) : Out := .next (if (s.core s.unit).complete then s.endItem s.unit false else s)

/-! ### Pre-emption (R95, R96) -/

/-- The cores that hold the gang of a task, or the core alone. -/
def State.gangCores (s : State) (c : Nat) : List Nat :=
  let t := (s.core c).tk
  if t.gang then
    (s.cores.filter (fun p => (p.2.k.phase == .running || p.2.k.phase == .dispatched) && p.2.k.tk.launch == t.launch && p.2.k.tk.gang
      && p.2.k.tk.gangKey == t.gangKey)).map (·.1)
  else [c]

/-- The drain of a core, and of its gang, begins; a member that has not started stops at its first instruction (R98, R100). -/
def State.startDrain (s : State) (c : Nat) : State :=
  (s.gangCores c).foldl (fun s d =>
    let s := if (s.core d).phase = .dispatched then s.begin d else s
    s.updCore d (fun k => if k.phase = .running then { k with phase := .draining } else k)) s

/-- PREEMPTION (R95): of the core that some walker would pre-empt. -/
def execPreemption (s : State) : Out :=
  let s := s.noteEnds
  if (List.range 4).any (fun d => s.walk d == .preempt s.unit) then .next (s.startDrain s.unit) else .next s

/-- Whether the drain of a ring has ended: no word runs, or one that is held, or one to abandon, which meets an empty line and has no request out. -/
def drained (s : State) (c : Nat) (m : Bool) : Bool :=
  let k := s.core c
  let r := k.ring m
  let started := r.word.isSome || (m && k.followGo)
  !started || r.held.isSome || (r.emptyAt.isSome && !s.peerReqs.any (fun q => q.core == c && q.agent == engineAgent m))

/-- Whether the lines that a copy has issued have completed (R95). A tagged copy's lines wait for its bank; lines that a full buffer or a fault at their destination holds up are saved with the copy (04 R80). -/
def Core.chanDrained (k : Core) (h : Chan) : Bool :=
  h.tag != 0 || h.flight.all (fun l =>
    (h.t.dkind == 1 && l.dst.isNone && h.stopped.isSome) || (h.t.dkind == 3 && decide ((k.buf h.dst).sizem1 + 1 ≤ (k.buf h.dst).fill)))

/-- Whether the drain of a core has ended (R95): no scalar access has a request out that changes something, both rings are at a word boundary and the copies' lines are complete. -/
def State.drainDone (s : State) (c : Nat) : Bool :=
  let k := s.core c
  k.phase == .draining && !s.peerReqs.any (fun q => q.core == c && q.acts) && drained s c false && drained s c true
    && k.chan.all (fun p => k.chanDrained p.2)

/-- A word that the drain abandons: its await is undone and RD steps back (R95); Marionette has counted its dequeue (21 R371). A follow-on word is as not yet begun. -/
def Core.abandon (k : Core) (m : Bool) : Core :=
  let r := k.ring m
  let back (w : Nat) (k : Core) : Core :=
    let aw := if m then (matFields w).aw else (rowFields w).aw
    if aw = 31 then k else { k with sem := k.sem.upd 0 aw (· + 1) }
  match r.word with
  | some w =>
    if r.held.isSome then k
    else (back w k).updRing m (fun r => { r with word := none, rd := r.rd - 1, emptyAt := none, logWait := false, walked := [], counted := r.rd })
  | none =>
    if m && k.followGo then
      (back (k.follow.headD 0) { k with followGo := false }).updRing m (fun r => { r with emptyAt := none, logWait := false })
    else k.updRing m (fun r => { r with emptyAt := none, logWait := false })

/-- Whether an agent that waits on a cause keeps its request slot: it waits for a page request (04 R70). -/
def keepsSlot (c : Option Cause) : Bool := c == some .hostNotPresent

/-- A copy as it is saved (06 R120; 15 R345): a tagged one restarts from its first line; the lines that a checking copy keeps are translated afresh. -/
def Chan.toSave (h : Chan) : Chan :=
  let h : Chan := { h with emptyAt := none, slot := h.slot && keepsSlot (h.stopped.map Prod.fst) }
  if h.tag = 0 then { h with kept := h.kept.map (fun l => { l with dst := none, marks := [] }) } else { h with issued := 0, flight := [] }

/-- A context as it is saved: what its access waited for is forgotten. That it stalls is what Marionette's input 58 shows, and stays (06 R132; 21 R371). -/
def Ctx.toSave (q : Ctx) : Ctx :=
  { q with
    emptyAt := none, logWait := false, pfx := none
    slot := q.slot && keepsSlot (match q.wait with | .fault c _ _ _ => some c | _ => none) }

/-- The saved task (R96). -/
def Core.toSave (k : Core) : Core :=
  let k := (k.abandon false).abandon true
  { k with
    phase := .running
    cx := k.cx.mapVals {} (fun _ q => q.toSave)
    chan := k.chan.mapVals {} (fun _ h => h.toSave) }

/-- What a save leaves in the core: the task's memories, and no task. -/
def Core.afterSave (k : Core) : Core :=
  { k with task := none, phase := .free, cx := [], chan := [], deliveries := [], engineTraps := [], copyTraps := [], follow := [], win := []
           mxdue := [], mxpend := [] }

/-- PREEMPTION_SAVE (R95 step 5, R96): a publication; the task goes to the save area of its priority. A task of an interface that restarts is not saved (03 R61). -/
def execPreemptionSave (s : State) : Out :=
  let c := s.unit
  let k := s.core c
  if s.drainDone c && !(s.vi k.tk.vi).restart then
    let s := ((s.drainCore c).publish c 3 (fun _ _ => true)).switchOut c k.tk.ctx false true ((s.phys c).tested == some k.tk.prio)
    let s := { s with
      peerReqs := s.peerReqs.filter (·.core != c), oldLeaves := s.oldLeaves.filter (·.core != c), oldAtc := s.oldAtc.filter (·.core != c) }
    .next (s.updPhys c (fun p => { p with saved := p.saved.put none k.tk.prio (some k.toSave), k := k.afterSave }))
  else .next s

/-! ### Resumption (R98, R100) -/

/-- The priority of the highest task saved on a core, with the task. -/
def Phys.topSaved (p : Phys) : Option (Nat × Core) :=
  [3, 2, 1, 0].findSome? (fun i => (p.saved.get none i).map (fun k => (i, k)))

/-- Whether a new item of a priority above i waits for a core (R98, step 1). -/
def State.newWaits (s : State) (c i : Nat) : Bool :=
  s.launches.any (fun l => decide (i < l.prio) &&
    (let set := (s.imageOf l).coreSet
     set.contains c && (diesOf set).any (fun d => (s.cands l set d).any (fun ms => ms.any (fun m =>
       match m.core with | some d => d == c | none => (l.coresFor set m.j).contains c)))))

/-- Whether a core would take its highest saved task now (R98): no new item of a higher priority waits for it, and no chain of one keeps it (R92). -/
def State.wouldResume (s : State) (c : Nat) : Bool :=
  match (s.phys c).topSaved with
  | some (i, _) => (s.core c).phase == .free && !(s.phys c).testDue && !s.newWaits c i
      && !s.launches.any (fun l => decide (i < l.prio) && l.running.any (·.core == c))
  | none => false

/-- The saved bytes of n claimed units of a memory over what the core holds. -/
def mergeMem (cur old : Memory) (size : Nat) (claimed : List Nat) : Memory :=
  claimed.foldl (fun (m : Memory) i => m.setPart (size * i) (old.part (size * i) size)) cur

/-- Whether a claim covers the word that an error's key names (R96; 06 R140). -/
def Claims.hasWord (cl : Claims) (key : Nat) : Bool :=
  let w := key % 2 ^ 20
  match key / 2 ^ 20 with
  | 0 => cl.has (.tile (w / 1024))
  | 1 => cl.has .opfile
  | 2 => cl.has .latch
  | 3 => cl.has (.acc (w / 2048))
  | 4 => decide (8 * w < cl.spad)
  | _ => false

/-- The saved task over the state of the core (R96, R98): what it does not claim is as an earlier task of its context left it, or cleared. -/
def Core.restoreOver (cur saved : Core) : Core :=
  let cl := saved.cl
  let base : Core := if cur.holder = some saved.tk.ctx then cur else {}
  let lines := cl.spad / 128
  let has (r : Nat → Res) (n : Nat) : List Nat := (List.range n).filter (fun i => cl.has (r i))
  let put {α : Type} [DecidableEq α] (d : α) (b o : Store α) (ks : List Nat) : Store α := ks.foldl (fun m i => Store.put d m i (Store.get d o i)) b
  let outside (lo hi : Nat) (m : Store Bool) : Store Bool := m.filter (fun p => decide (p.1 < lo ∨ hi ≤ p.1))
  let inside (lo hi : Nat) (m : Store Bool) : Store Bool := m.filter (fun p => decide (lo ≤ p.1 ∧ p.1 < hi))
  let marks (b o : Store Bool) : Store Bool :=
    (o.filter (fun p => cl.hasWord p.1)).foldl (fun (m : Store Bool) p => m.put false p.1 p.2) (b.filter (fun p => !cl.hasWord p.1))
  { saved with
    spad := base.spad.setPart 0 (saved.spad.part 0 cl.spad)
    empty := inside 0 lines saved.empty ++ outside 0 lines base.empty
    spoison := inside 0 (cl.spad / 8) saved.spoison ++ outside 0 (cl.spad / 8) base.spoison
    tiles := mergeMem base.tiles saved.tiles 8192 (has .tile 17)
    opfile := if cl.has .opfile then saved.opfile else base.opfile
    latch := if cl.has .latch then saved.latch else base.latch
    acc := mergeMem base.acc saved.acc 16384 (has .acc 4)
    acctag := put {} base.acctag saved.acctag (has .acc 4)
    cb := put {} base.cb saved.cb (has .cb 8)
    st := put {} base.st saved.st (has .st 64)
    cd := put {} base.cd saved.cd (has .cd 16)
    rerr := marks base.rerr saved.rerr
    corr := marks base.corr saved.corr
    einj := cur.einj }

/-- Restores the highest saved task of a core; a refresh. -/
def State.resume (s : State) (c : Nat) : State :=
  match (s.phys c).topSaved with
  | none => s
  | some (i, k) =>
    let house := (s.phys c).tested == some i
    let s := s.energySwitch c k.tk.ctx true house
    let s := s.updPhys c (fun p => { p with saved := p.saved.put none i none, k := p.k.restoreOver k, tested := if house then none else p.tested })
    let s := s.updCore c (fun k => { k with holder := k.task.map (·.ctx) })
    (s.refresh c 3).arrived c

/-- TASK_RESUME (R98). -/
def execTaskResume (s : State) : Out :=
  let s := s.noteEnds
  match (s.phys s.unit).topSaved with
  | some (_, k) => .next (if s.wouldResume s.unit && !k.tk.gang then s.resume s.unit else s)
  | none => .next s

/-- The cores that hold saved members of the gang that a saved task belongs to. -/
def State.savedGang (s : State) (t : Task) : List Nat :=
  (s.cores.filter (fun p => p.2.saved.any (fun e =>
    match e.2 with
    | some k => k.tk.launch == t.launch && k.tk.gang && k.tk.gangKey == t.gangKey
    | none => false))).map (·.1)

/-- The chain of a launch that keeps a core. -/
def State.chainOn (s : State) (id c : Nat) : Nat :=
  ((s.launches.flatMap (fun l => if l.id = id then (l.running.filter (·.core == c)).map (·.j) else [])).headD 0)

/-- GANG_RESUME (R100): once the core of every saved member is held for the gang, and that of a member which is between two items, all restores begin together. -/
def execGangResume (s : State) : Out :=
  let s := s.noteEnds
  match (s.phys s.unit).topSaved with
  | some (_, k) =>
    if k.tk.gang then
      let cs := s.savedGang k.tk
      let between := s.launches.flatMap (fun l => if l.id = k.tk.launch then
        (l.running.filter (fun ch => !ch.live && l.gangKey ch.j == k.tk.gangKey)).map (·.core) else [])
      let ready (c : Nat) : Bool :=
        s.wouldResume c && (match (s.phys c).topSaved with
          | some (_, q) => q.tk.launch == k.tk.launch && q.tk.gangKey == k.tk.gangKey
          | none => false)
      .next (if cs.all ready && between.all (fun c => s.coreFree c k.tk.prio k.tk.launch (s.chainOn k.tk.launch c)) then cs.foldl (fun s c => s.resume c) s else s)
    else .next s
  | none => .next s

/-- The test on a free core: what was spent since the save for it, and the test, go to the house account (02 R34, R36). -/
def State.runTest (s : State) (c : Nat) : State :=
  let cl := clusterOf c
  let e := s.energyAt cl (s.tick + 1)
  let t := s.cycleAt cl (s.tick + 1)
  match (s.phys c).sample2 with
  | some (e2, t2) =>
    (s.emitEnergy c { vi := 0, ctx := 0, kind := 4, uj := e - e2, t0 := t2, t1 := t, own := []
                      sets := (s.phys c).sets ++ [s.others c] }).updPhys c (fun p => { p with sample2 := some (e, t), sets := [s.others c], testDue := false })
  | none => (s.houseMove c).updPhys c (fun p => { p with testDue := false })

/-- INFIELD_TEST (02 R34): on an active core that runs no task the test runs; else it is due, and the task drains whatever its priority. -/
def execInfieldTest (s : State) : Out :=
  let c := s.unit
  let s := s.noteEnds
  if !s.active c then .next s
  else
    match (s.core c).phase with
    | .free => .next (s.runTest c)
    | .running =>
      let s := (s.gangCores c).foldl (fun s d => s.updPhys d (fun p => { p with tested := some p.k.tk.prio })) s
      .next ((s.startDrain c).updPhys c (fun p => { p with testDue := true }))
    | _ => .next (s.updPhys c (fun p => { p with testDue := true }))

/-! ### Ramps (R101) -/

/-- RAMP_WINDOW (R101): the floor of each interface is met by ballast of its own; the window rolls. Holding back dequeues is timing. -/
def execRampWindow (s : State) : Out :=
  let cl := s.unit
  .next (s.updCluster cl (fun e =>
    let short := (e.rampLast.filter (fun p => decide (e.rampNow.get 0 p.1 + 2048 < p.2))).map (·.1)
    let spent (v : Nat) : Nat := Config.ballastEnergy (256 * s.tick + v)
    { e with
      rampLast := short.foldl (fun m v => m.put 0 v (e.rampLast.get 0 v - 2048)) e.rampNow
      rampNow := []
      eballast := e.eballast + (short.map spent).sum
      ballast := short.foldl (fun m v => m.upd 0 v (· + spent v)) e.ballast }))

/-! ### Batch tables (R103, R104) -/

/-- The walkers as they access a launch's memory. -/
def Launch.party (l : Launch) : Party := { core := walkerCore, agent := l.id, ctx := l.ctx }

/-- Reads 32 bytes, which lie within one page, with acquire at system scope: the bytes, and what the acquire brings. -/
def State.walkerRead (s : State) (p : Party) (va : Nat) : Ex (Nat × Store Nat) := do
  match ← s.partyTarget p va .read with
  | .dev pa => .ok (s.mem.num pa 32, s.passedOn 0 pa 32)
  | .host ha => .ok (s.hostMem.num ha 32, s.passedOn hostWords ha 32)
  | .peer w o => do
    let bs ← s.peerReadLine p.core p.agent w o 32 va (ordOf 4 true false)
    .ok (ofBytes bs, s.farKnow)

/-- Writes 32 bytes, which lie within one page. -/
def State.walkerWrite (s : State) (p : Party) (va x : Nat) : Ex State := do
  match ← s.partyTarget p va .write with
  | .dev pa => .ok (s.homeWrite pa (toBytes 32 x))
  | .host ha => .ok (s.hostWrite ha (toBytes 32 x))
  | .peer w o => s.peerWriteAt p.core p.agent w o va 0 (toBytes 32 x)

/-- An access of a party outside the cores goes no further now: it asks, and leaves off what it cannot have, to try again (04 R71, R72). -/
def State.stopParty (s : State) (p : Party) (e : Stop) : State :=
  match e with
  | .ask a _ => s.post p.core p.agent a
  | .trap cause _ => s.stopReqs p.core p.agent cause
  | _ => s

/-- The entries of a table as a snapshot takes them: an even version as read, an odd one as last committed; with what their acquires bring. -/
def State.snapEntries (s : State) (l : Launch) (table : Nat) : Nat → Nat → Ex (List (Nat × Nat) × Store Nat)
  | _, 0 => .ok ([], [])
  | i, n + 1 => do
    let (x, know) ← s.walkerRead l.party (table + 32 * (i + 1))
    let (r, m) ← s.snapEntries l table (i + 1) n
    .ok ((i, if x % 2 = 0 then x else l.committed.get 0 i) :: r, joinKnow m know)

/-- Writes a snapshot's header and active entries, 32 bytes each. -/
def State.snapWrite (p : Party) (va : Nat) (xs : List Nat) (s : State) : Ex State :=
  xs.zipIdx.foldlM (fun (s : State) q => s.walkerWrite p (va + 32 * q.2) q.1) s

/-- The snapshot of a launch's batch table (R104): the launch's walk goes on with it, and the items that start later come after what the table's versions have passed on (08 R177). -/
def State.snapshot (s : State) (l : Launch) (lv : Level) : Ex State := do
  let (hdr, know) ← s.walkerRead l.party lv.table
  let n := hdr % 2 ^ 16
  let done (s : State) (m : Store Nat) : State :=
    { (s.dropReqs walkerCore l.id) with itemKnow := joinKnow s.itemKnow (joinKnow know m) }
  if n = 0 then
    -- the level ends at once: on to the next iteration of the levels outside it
    let per := l.perSnap * lv.trip
    .ok ((done s []).updLaunch l.id (fun l => (l.goOuter ((l.outer / per + 1) * per)).settled))
  else do
    let (es, m) ← s.snapEntries l lv.table 0 n
    let act := (es.map (·.2)).filter (fun x => bitAt x 64)
    let s ← State.snapWrite l.party lv.snap (act.length :: act) s
    .ok ((done s m).updLaunch l.id (fun l =>
      { l with batch := some act.length, committed := es.foldl (fun (m : Store Nat) (e : Nat × Nat) => Store.put 0 m e.1 e.2) l.committed }.settled))

/-- BATCH_SNAPSHOT (R104). A table or a buffer that cannot be reached now leaves the walk waiting. -/
def execBatchSnapshot (s : State) : Out :=
  let s := s.noteEnds
  match s.launches.find? (·.id == s.unit) with
  | none => .next s
  | some l =>
    match l.wantsSnap, l.nest.groups.1.find? (·.kind == 3) with
    | true, some lv =>
      match s.snapshot l lv with
      | .ok t => .next t
      | .error e => .next (s.stopParty l.party e)
    | _, _ => .next s

/-! ### The end of a launch (R93; 13 R282) -/

/-- The order in which held adds apply (13 R282). -/
def heldBefore (a b : HeldFadd) : Bool :=
  let key (h : HeldFadd) : List Nat := [h.addr, h.vcore, h.item, h.cx, h.cnt]
  decide (key a ≤ key b)

/-- Inserts a held add after those that come before it. -/
def insertHeld (h : HeldFadd) : List HeldFadd → List HeldFadd
  | [] => [h]
  | g :: r => if heldBefore g h then g :: insertHeld h r else h :: g :: r

/-- Applies a held add at its location with rne, setting no flag. -/
def State.applyHeld (s : State) (h : HeldFadd) : State :=
  let (x, _, _) := amoResult 10 (8 * h.n) (s.mem.num h.addr h.n) h.x 0
  s.homeWrite h.addr (toBytes h.n x)

/-- ORDERED_FADD_APPLY (13 R282). -/
def execOrderedFaddApply (s : State) : Out :=
  let s := s.noteEnds
  match s.launches.find? (·.id == s.unit) with
  | some l =>
    if l.finished then
      let held := s.slices.flatMap (fun p => p.2.heldAdds.filter (·.launch == l.id))
      let s := { s with slices := s.slices.mapVals {} (fun _ e => { e with heldAdds := e.heldAdds.filter (·.launch != l.id) }) }
      .next ((held.foldl (fun a h => insertHeld h a) []).foldl (fun s h => s.applyHeld h) s)
    else .next s
  | none => .next s

/-- Whether a launch holds floating-point adds. -/
def State.holdsAdds (s : State) (id : Nat) : Bool := s.slices.any (fun p => p.2.heldAdds.any (·.launch == id))

/-- An ADD by the walkers, a release at system scope of what the items that have ended stored (R93; 08 R178). -/
def State.evItems (s : State) (n x : Nat) : State := s.evPass n x s.itemKnow

/-- LAUNCH_END (R93, R105): the error counter, then DONEEV; a draining slot whose last launch this was becomes free. -/
def execLaunchEnd (s : State) : Out :=
  let s := s.noteEnds
  match s.launches.find? (·.id == s.unit) with
  | none => .next s
  | some l =>
    if l.finished && !s.holdsAdds l.id then
      let s := if bitAt l.flags 0 then s.hostWrite (l.traceAddr + 8) (toBytes 8 l.traced) else s
      let ev := (s.vi l.vi).evbase
      let s := if l.faulted then s.evItems (ev + 1) 1 else s
      let s := s.evItems (ev + l.doneev) l.doneval
      let s := { s with launches := s.launches.filter (·.id != l.id) }
      .next (if ((s.vi l.vi).slots.get {} l.slot).st = 2 ∧ !s.launches.any (fun m => m.vi == l.vi && m.slot == l.slot) then
          s.freeSlot l.vi l.slot
        else s)
    else .next s

end Sys2Proof.Machine
end

