-- ==== Sys2Proof/Machine/Image.lean ====
section
/-! DEFINITION. Image containers: their layout, the checks on it, the claims and the loop nests (11 R233 to R236; 03 R50, R52; 05 R82 to R85; 06 R110, R138; 15 R336). -/

namespace Sys2Proof.Machine

/-- A segment of an image (11 R234). -/
structure Segment where
  va : Nat
  off : Nat
  fsize : Nat
  msize : Nat
  flags : Nat
  deriving DecidableEq, Repr

/-- What a container holds (11 R233, R234). -/
structure Container where
  claims : List (Nat × Nat)
  recs : List LoopRec
  segs : List Segment
  layouts : List (Nat × Nat)
  templates : List Template
  inputs : List (Nat × Nat)
  paramVa : Nat
  keySlot : Nat
  r : Nat
  sig : Nat
  deriving DecidableEq, Repr

/-- n bytes of a container at an offset, as a number. -/
def field (bs : List Byte) (off n : Nat) : Nat := ofBytes ((bs.drop off).take n)

/-- The records of one size in a table. -/
def table (bs : List Byte) (count off size : Nat) : List (List Byte) :=
  (List.range count).map (fun i => (bs.drop (off + size * i)).take size)

/-- Whether a table of n bytes lies inside the container at a legal offset (R233). -/
def placed (bs : List Byte) (off n : Nat) : Bool := off % 8 == 0 && decide (off + n ≤ bs.length)

/-! ### Loop nests (05 R82 to R84) -/

/-- A level's descriptor (05 R83). -/
def levelOf (x : Nat) : Level :=
  { kind := x % 8, tripsrc := bitsOf x 5 4, trip := bitsOf x 63 32, table := bitsOf x 159 112, snap := bitsOf x 207 160 }

/-- A record with its length, from its first byte; none where it passes the container's end or NLEV is illegal. -/
def loopRecOf (bs : List Byte) : Option (LoopRec × Nat) :=
  let h := field bs 0 32
  let n := bitsOf h 107 104
  if n = 0 ∨ 6 < n ∨ bs.length < 32 + 32 * n then none
  else
    some ({ entry := bitsOf h 255 192, matpc := bitsOf h 159 141, rowpc := bitsOf h 140 122, ganglvl := bitsOf h 111 108
            levels := (List.range n).map (fun i => levelOf (field bs (32 + 32 * i) 32)) }, 32 + 32 * n)

/-- The records of the table, one after another. -/
def loopRecsOf : Nat → List Byte → Option (List LoopRec)
  | 0, _ => some []
  | n + 1, bs =>
    match loopRecOf bs with
    | none => none
    | some (r, len) => (loopRecsOf n (bs.drop len)).map (r :: ·)

/-- The fields of a level that R83 fixes. -/
def Level.legal (l : Level) : Bool :=
  decide (l.kind < 4) && decide (l.tripsrc < 3) && (l.kind != 3 || (l.table % 32 == 0 && l.snap % 32 == 0))
    && (l.tripsrc != 2 || l.trip == 0)

/-- The fields of a record that R82 fixes. -/
def LoopRec.legal (r : LoopRec) : Bool :=
  r.entry % 64 == 0 && r.matpc % 8 == 0 && r.rowpc % 4 == 0 && decide (r.ganglvl ≤ r.levels.length)
    && r.levels.all Level.legal

/-- The order of the groups (R84). -/
def groupsOrdered (ls : List Level) : Bool :=
  let a := ls.dropWhile (fun l => l.kind == 0 || l.kind == 3)
  let b := a.dropWhile (·.kind == 2)
  let c := b.dropWhile (·.kind == 1)
  c.all (·.kind == 0) && decide ((ls.filter (·.kind == 3)).length ≤ 1)

/-- A batch-sized level is of KIND 1 and comes directly after the KIND 3 level (R84); that the first level is not one stands in LoopRec.shaped. -/
def batchPlaced : List Level → Bool
  | [] => true
  | [_] => true
  | l :: m :: r => (m.tripsrc != 2 || (l.kind == 3 && m.kind == 1)) && batchPlaced (m :: r)

/-- R84 but for what needs the core set. -/
def LoopRec.shaped (r : LoopRec) : Bool :=
  groupsOrdered r.levels && batchPlaced r.levels && (r.levels.head?.map (·.tripsrc)) != some 2
    && (r.ganglvl == 0 || (r.levels.getD (r.ganglvl - 1) {}).kind == 1)

/-- Whether a gang is too large for the cores that R91 sends it to, where every trip count that decides it is immediate (R84). -/
def LoopRec.gangTooBig (r : LoopRec) (set : List Nat) : Bool :=
  let g := r.levels.getD (r.ganglvl - 1) {}
  let outer := r.levels.filter (·.kind == 2)
  if r.ganglvl = 0 ∨ g.tripsrc ≠ 0 ∨ outer.any (·.tripsrc != 0) then false
  else if outer.isEmpty then decide (set.length < g.trip)
  else
    let dies := diesOf set
    let n := outer.foldl (fun n l => n * l.trip) 1
    (List.range (min n dies.length)).any (fun d => decide ((set.filter (fun c => dieOf c == dies.getD d 0)).length < g.trip))
      || (decide (0 < n) && dies.isEmpty && decide (0 < g.trip))

/-- The ring origins of a record against the SPAD claim (06 R110). -/
def LoopRec.ringsFit (r : LoopRec) (spad : Nat) : Bool := decide (r.rowpc + 12 ≤ spad) && decide (r.matpc + 24 ≤ spad)

/-! ### Templates (15 R336) -/

/-- A template's fields. -/
def templateOf (x : Nat) : Template :=
  { skind := x % 8, check := bitAt x 3, dkind := bitsOf x 10 8, acq := bitAt x 16, rel := bitAt x 17, scope := bitsOf x 20 18
    bb := bitsOf x 27 24, bbv := bitAt x 28, qidx := bitAt x 29, fov := bitAt x 30, aw := bitsOf x 36 32, rs := bitsOf x 44 40
    evkind := bitsOf x 49 48, evwin := bitsOf x 55 50, evidx := bitsOf x 75 64, evamt := bitsOf x 95 80, foaddr := bitsOf x 114 96
    seglines := bitsOf x 159 128, nseg := bitsOf x 191 160, sstride := sext (bitsOf x 255 192) 64, dstride := sext (bitsOf x 319 256) 64
    sdim := bitsOf x 321 320, cfmt := bitsOf x 333 328 }

/-- The reserved bits of a template, which must be zero. -/
def templateReserved : List (Nat × Nat) :=
  [(7, 4), (15, 11), (23, 21), (31, 31), (39, 37), (47, 45), (63, 56), (79, 76), (127, 115), (327, 322), (335, 334), (511, 336)]

/-- The conditions on a template (R336). -/
def templateLegal (x : Nat) : Bool :=
  let t := templateOf x
  templateReserved.all (fun p => bitsOf x p.1 p.2 == 0)
    && decide (t.skind < 4) && decide (t.dkind < 4) && t.dkind != 2 && decide (t.scope < 5) && t.evkind != 3 && t.foaddr % 8 == 0
    && decide (0 < t.seglines) && decide (0 < t.nseg) && decide (t.seglines * t.nseg ≤ 2 ^ 24)
    && t.sstride % 128 == 0 && t.dstride % 128 == 0 && (t.evkind == 0 || t.evamt != 0) && (!t.qidx || t.skind == 2)
    && (t.skind == 2) == (t.sdim != 0)
    && (!t.check || (t.nseg == 1 && t.seglines % 8 == 1 && decide (9 ≤ t.seglines ∧ t.seglines ≤ 65) && t.dkind != 3))
    && ((t.skind != 3 && t.dkind != 3) || t.seglines == 8) && fmtOk t.cfmt

/-! ### The container (11 R233, R234) -/

/-- A segment's record. -/
def segmentOf (b : List Byte) : Segment :=
  { va := field b 0 8, off := field b 8 4, fsize := field b 12 4, msize := field b 16 8, flags := field b 24 4 }

/-- The conditions on a segment's record in a container of len bytes. -/
def segmentLegal (len : Nat) (b : List Byte) : Bool :=
  let g := segmentOf b
  g.va % 65536 == 0 && decide (g.va + g.msize ≤ 2 ^ 48) && decide (g.fsize ≤ g.msize) && decide (g.off + g.fsize ≤ len)
    && decide (g.flags < 8) && field b 28 4 == 0

/-- The magic of a container. -/
def containerMagic : Nat := ofBytes [0x4C, 0x59, 0x53, 0x49, 0x4D, 0x47, 0x01, 0x00]

/-- Parses a container and checks it against R233 and R234; none where it breaks them. -/
def parseContainer (bs : List Byte) : Option Container :=
  let len := bs.length
  let n (i : Nat) : Nat := field bs (16 + 8 * i) 4
  let o (i : Nat) : Nat := field bs (20 + 8 * i) 4
  let sb := len - 192
  let head :=
    decide (320 ≤ len) && field bs 0 8 == containerMagic && field bs 8 4 == len && field bs 12 4 == 1
      && decide (1 ≤ n 1 ∧ n 1 ≤ 16) && decide (n 5 ≤ 16) && placed bs (o 0) (24 * n 0) && placed bs (o 1) 0
      && placed bs (o 2) (32 * n 2) && placed bs (o 3) (40 * n 3) && placed bs (o 4) (64 * n 4) && placed bs (o 5) (16 * n 5)
      && field bs 64 8 % 65536 == 0 && decide (field bs 64 8 < 2 ^ 48) && field bs 72 8 == 0
      && field bs 80 4 == sb && sb % 8 == 0 && field bs 84 44 == 0
  if !head then none
  else
    match loopRecsOf (n 1) (bs.drop (o 1)) with
    | none => none
    | some recs =>
      let claims := table bs (n 0) (o 0) 24
      let segs := table bs (n 2) (o 2) 32
      let lays := table bs (n 3) (o 3) 40
      let tmps := table bs (n 4) (o 4) 64
      if claims.all (fun b => field b 1 7 == 0) && recs.all LoopRec.legal && segs.all (segmentLegal len)
          && lays.all (fun b => bitsOf (field b 8 32) 35 24 == 0)
          && tmps.all (fun b => templateLegal (ofBytes b)) then
        some { claims := claims.map (fun b => (field b 0 1, field b 8 16)), recs := recs, segs := segs.map segmentOf
               layouts := lays.map (fun b => (field b 0 8, field b 8 32)), templates := tmps.map (fun b => templateOf (ofBytes b))
               inputs := (table bs (n 5) (o 5) 16).map (fun b => (field b 0 8, field b 8 8)), paramVa := field bs 64 8
               keySlot := field bs sb 1, r := ofBytesBE ((bs.drop (sb + 8)).take 66), sig := ofBytesBE ((bs.drop (sb + 74)).take 66) }
      else none

/-! ### Claims (03 R52) -/

/-- The value of a claim kind; 0 where it is absent. -/
def claimVal (l : List (Nat × Nat)) (kind : Nat) : Nat := ((l.find? (·.1 == kind)).map (·.2)).getD 0

/-- The legal range of a claim. -/
def claimLegal (kind x : Nat) : Bool :=
  match kind with
  | 0x01 => decide (1 ≤ x ∧ x ≤ 192)
  | 0x02 => decide (x ≤ 524288) && x % 128 == 0
  | 0x03 => decide (x < 2 ^ 23)
  | 0x04 => decide (x < 2 ^ 55)
  | 0x05 => true
  | 0x06 => decide (bitsOf x 5 4 ≤ 2)
  | 0x07 => !bitAt x 20 || bitAt x (bitsOf x 19 16)
  | 0x08 => true
  | 0x09 => decide (4 ≤ x ∧ x ≤ 4096)
  | 0x0A => decide (x ≤ 65536)
  | 0x0B => true
  | 0x0C => decide (x ≤ 64)
  | 0x0D => decide (x ≤ 3)
  | 0x0E => true
  | _ => false

/-- Every claim is of a listed kind, named once and within its range. -/
def claimsLegal (l : List (Nat × Nat)) : Bool := l.all (fun p => claimLegal p.1 p.2) && decide (l.map (·.1)).Nodup

/-- The claims; bits beyond a field are ignored (00 R6). -/
def claimsOf (l : List (Nat × Nat)) : Claims :=
  let v := claimVal l
  { cores := v 1, spad := v 2, regs := v 3, sync := v 4, coder := v 5 % 2 ^ 80, spec := v 6 % 2 ^ 6, copy := v 7 % 2 ^ 21
    queues := v 8 % 2 ^ 8, events := v 9, layout := v 0xA, memory := v 0xB, sampler := v 0xC, priority := v 0xD, peer := v 0xE % 2 ^ 64 }

/-! ### Pages of an image (11 R236) -/

/-- Pages of 64 KiB that a segment needs. -/
def Segment.pages (g : Segment) : Nat := ceilDiv g.msize 65536

/-- The virtual ranges that an image maps: its segments, and the page of its 16 parameter copies (05 R86). -/
def Container.spans (k : Container) : List (Nat × Nat) := k.segs.map (fun g => (g.va, 65536 * g.pages)) ++ [(k.paramVa, 65536)]

/-- Whether some two ranges of a list meet. -/
def spansMeet : List (Nat × Nat) → Bool
  | [] => false
  | a :: r => r.any (fun b => decide (a.1 < b.1 + b.2 ∧ b.1 < a.1 + a.2)) || spansMeet r

/-- Pages that an image needs. -/
def Container.pages (k : Container) : Nat := (k.segs.map Segment.pages).sum + 1

end Sys2Proof.Machine
end

