-- ==== Sys2Proof/Machine/Power.lean ====
section
/-! DEFINITION. Reset and bring-up, cluster clocks and supplies, scrubbing and error injection (02 R24 to R34; 06 R142; 13 R282). -/

namespace Sys2Proof.Machine

/-! ### Bring-up (R31 to R33) -/

/-- M folded with a stage's digest (R33); the number holds the measurement's bytes, byte 0 lowest. -/
def foldMeasure (m : Nat) (g : Stage) : Nat := ofBytes (sha512 (toBytes 64 m ++ sha512 g.code))

/-- ACTCORES (00 R2). -/
def State.actcores (s : State) : Nat := ((List.range 192).filter s.active).length

/-- Whether the key of a fused slot verifies a stage's signature (R32); a slot that a fuse has revoked verifies nothing. -/
def State.verifies (s : State) (g : Stage) (i : Nat) : Bool :=
  !bitAt s.fuseRevoked i && onCurve (s.fuseKeys.get (0, 0) i) && ecdsaOk (s.fuseKeys.get (0, 0) i) g.code g.r g.s

/-- The first fused key slot whose key verifies a stage (R32; log 26). -/
def State.bootSlot (s : State) (g : Stage) : Option Nat := (List.range 4).find? (s.verifies g)

/-- Whether every fused key slot is revoked. -/
def State.allRevoked (s : State) : Bool := (List.range 4).all (fun i => bitAt s.fuseRevoked i)

/-- A device in the recovery state: what is fused or lies outside stays, all else is as at reset (R32). -/
def State.recover (s : State) (cause : Nat) : State :=
  { ({} : State) with
    tick := s.tick, agenda := s.agenda, cur := s.cur, boot := 2, bootCause := cause, flash := s.flash, fuseRevoked := s.fuseRevoked
    fuseKeys := s.fuseKeys, coremap := s.coremap, serial := s.serial, idSecret := s.idSecret, hostMem := s.hostMem
    slices := (List.range 12).foldl (fun (m : Store Slice) i => m.put {} i { houseAt := s.tick }) [], hostBad := s.hostBad, msix := s.msix, measure := s.measure, measure1 := s.measure1, keySlot := s.keySlot, fwStage1 := s.fwStage1 }

/-! ### Supplies (R28) -/

/-- The range of the supply at a code, and the guard band in it, in millivolts of 12 bits (R24, R28). -/
def voltLo (n : Nat) : Nat := Config.voltMin n % 4096
/-- The upper end of the range. -/
def voltHi (n : Nat) : Nat := max (voltLo n) (Config.voltMax n % 4096)
/-- A voltage brought into the range of a code. -/
def voltIn (n v : Nat) : Nat := max (voltLo n) (min (voltHi n) v)
/-- The guard-band voltage of a code. -/
def voltGd (n : Nat) : Nat := voltIn n (Config.voltGuard n)

/-- A cluster after step 5: the LDO holds the guard-band voltage where a core is active, and the FLL is locked at code 48. -/
def State.freshCluster (s : State) (cl : Nat) : Cluster :=
  { cycle := s.tick, mv := if (List.range' (8 * cl) 8).any s.active then voltGd 48 else 0 }

/-- Steps 3 to 7 of bring-up, with what the part's training and tests found. The interfaces are at their reset values; the kernel's grant to interface 0 comes after (log 13). -/
def State.bringUp (s : State) (trainOk testOk : Bool) : State :=
  let f := s.flash
  match s.bootSlot f.kern with
  | none => s.recover (if s.allRevoked then 5 else 2)
  | some _ =>
    let s := { s with measure := foldMeasure s.measure1 f.kern }
    if !trainOk then s.recover 3
    else if !testOk then s.recover 4
    else
      { s.recover 0 with
        boot := 1, fwKern := f.kern.version
        agenda := s.agenda ++ [.event (.regWrite 5 0 0x048 (min f.evcount0 4096 * 2 ^ 16 + f.grant0.toNat * 2 ^ 63)) 0 0]
        clusters := (List.range 24).map (fun i => (i, s.freshCluster i))
        ports := (List.range 16).map (fun i => (i, ({ state := 1 } : Port))) }

/-- COLD_RESET (R31, R32). -/
def execColdReset (trainOk testOk : Bool) (s : State) : Out :=
  let s := { s with measure := 0, measure1 := 0, keySlot := 0, fwStage1 := 0 }
  let f := s.flash
  if s.allRevoked then .next (s.recover 5)
  else
    match s.bootSlot f.stage1 with
    | none => .next (s.recover 1)
    | some i =>
      let m := foldMeasure 0 f.stage1
      .next ({ s with keySlot := i, fwStage1 := f.stage1.version, measure := m, measure1 := m }.bringUp trainOk testOk)

/-- DEVICE_RESET (R31): from step 3, so it does nothing for a device whose stage one has not been verified. -/
def execDeviceReset (trainOk testOk : Bool) (s : State) : Out :=
  if s.boot = 0 ∨ (s.boot = 2 ∧ (s.bootCause = 1 ∨ s.bootCause = 5)) then .next s
  else .next (s.bringUp trainOk testOk)

/-- FIRMWARE_UPDATE (R32): only in the recovery state. -/
def execFirmwareUpdate (f : Firmware) (s : State) : Out := .next (if s.boot = 2 then { s with flash := f } else s)

/-! ### Clocks and supplies (R24 to R30) -/

/-- A cluster's own target code (R25). -/
def Cluster.target (e : Cluster) : Nat := min e.cfreq e.ccap

/-- The clusters that hold the running members of a core's gang (05 R100). -/
def State.gangClusters (s : State) (c : Nat) : List Nat :=
  if (s.core c).phase == .running && (s.core c).tk.gang then (s.gangCores c).map clusterOf else []

/-- The code that the FLL of a cluster approaches: the lowest among the clusters of a gang that runs in it (R25; 05 R100). -/
def State.fllTarget (s : State) (cl : Nat) : Nat :=
  ((List.range' (8 * cl) 8).flatMap s.gangClusters).foldl (fun n d => min n (s.cluster d).target) (s.cluster cl).target

/-- The voltage that the LDO of a cluster holds (R28): none where no core is active, the guard band of the target while the FLL rises, that of the code with REPLAYTGT 0, and else what voltage control has come to, within the range of the code. -/
def State.supply (s : State) (cl : Nat) : Nat :=
  let e := s.cluster cl
  let t := s.fllTarget cl
  if !(List.range' (8 * cl) 8).any s.active then 0
  else if e.cur < t then voltGd t
  else if e.replaytgt = 0 then voltGd e.cur
  else voltIn e.cur e.mv

/-- FLL_STEP (R25, R28, R29): one code toward the target. The supply of a rise is the guard band of the target before the first step, also where the target rises because a gang has ended (05 R100). A step down keeps the supply in the range of the new code, or at its guard band with REPLAYTGT 0 (log 19). -/
def execFllStep (s : State) : Out :=
  let cl := s.unit
  let t := s.fllTarget cl
  .next (s.updCluster cl (fun e =>
    if e.cur < t then { e with cur := e.cur + 1, mv := voltGd t }
    else if t < e.cur then
      let n := e.cur - 1
      { e with cur := n, mv := if e.replaytgt = 0 then voltGd n else voltIn n e.mv }
    else e))

/-- LDO_WINDOW (R28, R29): one 5 mV step by the replay rate of the 2^20 cycles of the window, or the guard-band voltage. While the FLL moves, voltage control is held off. -/
def execLdoWindow (s : State) : Out :=
  let t := s.fllTarget s.unit
  let now := s.supply s.unit
  .next (s.updCluster s.unit (fun e =>
    let goal := e.replaytgt * 2 ^ 20
    let seen := e.winReplays * 1000000
    let mv :=
      if e.cur ≠ t then e.mv
      else if e.replaytgt = 0 then voltGd e.cur
      else if goal < seen then voltIn e.cur (now + 5)
      else if seen < goal then voltIn e.cur (now - 5)
      else now
    { e with winReplays := 0, mv := mv }))

/-- TIMING_REPLAY (R27): no effect that software can see but the count. -/
def execTimingReplay (s : State) : Out :=
  .next (s.updCluster s.unit (fun e => { e with replaycnt := min (e.replaycnt + 1) (2 ^ 32 - 1), winReplays := e.winReplays + 1 }))

/-- A legal frequency code (R24). -/
def codeOk (v : Nat) : Bool := decide (12 ≤ v ∧ v ≤ 60)

/-- A write of CFREQ or CCAP (R25, R29): one that raises the target takes the supply to the guard band of the new code first. -/
def Cluster.setCode (e : Cluster) (ceiling : Bool) (v : Nat) : Cluster :=
  let v := v % 64
  if codeOk v then
    let n := { e with cfreq := if ceiling then e.cfreq else v, ccap := if ceiling then v else e.ccap, refused := false }
    if e.target < n.target then { n with mv := voltGd n.target } else n
  else { e with refused := true }

/-- A write of REPLAYTGT (R24, R25, R28); a rise under way keeps the voltage that it climbs with (R29). -/
def Cluster.setReplay (e : Cluster) (v : Nat) : Cluster :=
  let v := v % 2 ^ 14
  if v ≤ 10000 then { e with replaytgt := v, refused := false, mv := if v = 0 ∧ e.target ≤ e.cur then voltGd e.cur else e.mv }
  else { e with refused := true }

/-- CFREQ_WRITE (R25, R29). -/
def execCfreqWrite (s : State) : Out := .next (s.updCluster s.unit (·.setCode false s.arg))
/-- CCAP_WRITE (R25, R29, R30). -/
def execCcapWrite (s : State) : Out := .next (s.updCluster s.unit (·.setCode true s.arg))
/-- REPLAYTGT_WRITE (R25, R28). -/
def execReplaytgtWrite (s : State) : Out := .next (s.updCluster s.unit (·.setReplay s.arg))

/-- CSTAT (R24). -/
def State.cstat (s : State) (cl : Nat) : Nat :=
  let e := s.cluster cl
  (decide (e.cur ≠ s.fllTarget cl)).toNat + 2 * (decide (e.ccap < e.cfreq)).toNat + 4 * e.refused.toNat + 16 * (s.supply cl % 4096)

/-! ### Memory and register errors (R34; 01 R13; 06 R142; 13 R282) -/

/-- A HOUSE record of what a slice has spent, with its share of hubs, links and the host interface, since the last such record (R36, R37). It names the first cluster of the slice's die and its cycles, with SHARED 0 and NRES 1 (log 25). -/
def State.houseSlice (s : State) (sl : Nat) : State :=
  let cl := sl / 3 * 6
  let t := (s.slice sl).houseAt
  let r : EnergyRec :=
    { microj := sumMoves (fun i => Config.uncore (12 * i + sl)) t (s.tick + 1 - t), tend := s.cycleAt cl (s.tick + 1)
      tstart := s.cycleAt cl t, nres := 1, kind := 4, cluster := cl }
  s.updSlice sl (fun e => { e with erecs := e.erecs ++ [r], houseAt := s.tick + 1 })

/-- The slice, core, save area (0 none, else priority plus 1) and window that a scrub names where it meets an error in a store log: the slice plus 16 times the window, 64 times the core and 2^14 times the area. -/
def logPlace (n : Nat) : Nat × Nat × Nat × Nat := (n % 16, n / 64 % 256, n / 2 ^ 14, n / 16 % 4)

/-- The log of a window has an uncorrectable error in a slice: the window fails with WHY 2 (10 R213). -/
def Core.hitLog (sl i : Nat) (k : Core) : Core :=
  let w := k.window i
  let here := w.dlog.any (fun e => sliceOfPa e.2.1 == some sl) || (homeSlice k.tk.ctx == sl && !w.rlog.isEmpty)
  if w.st = 1 ∧ here then k.updWin i (fun w => { w with st := 2, why := 2 }) else k

/-- PATROL_SCRUB (R34; 01 R13; 10 R213). A correctable error is corrected and counted by its slice. An uncorrectable one poisons the sector, numbered by 32 bytes, or fails the window whose log it hits. What scrubbing costs goes to the house account (R36). -/
def execPatrolScrub (sector found : Nat) (s : State) : Out :=
  let logged (sl : Nat) (f : Slice → Slice) : State :=
    ((if found = 0 then s else s.updSlice sl (fun e => f { e with errlog := e.errlog ++ [toBytes 8 sector] }))).houseSlice sl
  if found = 3 then
    let (sl, c, area, w) := logPlace sector
    if sl < 12 then
      let s := logged sl id
      .next (s.updPhys c (fun p =>
        if area = 0 then { p with k := p.k.hitLog sl w }
        else { p with saved := p.saved.upd none (area - 1) (fun o => o.map (·.hitLog sl w)) }))
    else .next s
  else
    match sliceOfPa (32 * sector) with
    | none => .next s
    | some sl =>
      match found with
      | 0 => .next (logged sl id)
      | 1 => .next (logged sl (fun e => { e with memcorr := e.memcorr + 1 }))
      | _ => .next { logged sl id with mpoison := s.mpoison.put false sector true }

/-- The 8-byte words of a structure (06 R140, R142). -/
def structWords (n : Nat) : Nat :=
  match n with
  | 0 => 17408
  | 1 => 4096
  | 2 => 128
  | 3 => 8192
  | 4 => 65536
  | 5 => 8192
  | _ => 0

/-- A write of a core's EINJ (06 R142): an illegal one is ignored, as is one for a core that is fused off (00 R1); a legal one is charged to the house account. -/
def State.setEinj (s : State) (c v : Nat) : State :=
  if s.active c ∧ (bitsOf v 25 24 = 1 ∨ bitsOf v 25 24 = 2) ∧ bitsOf v 23 4 < structWords (v % 16) then
    (s.updCore c (fun k => { k with einj := v % 2 ^ 26 + bitsOf v 31 31 * 2 ^ 31 })).houseMove c
  else s

/-- EINJ_WRITE (06 R142). -/
def execEinjWrite (s : State) : Out := .next (s.setEinj s.unit s.arg)

/-- A write of a slice's ATOMMODE (13 R282): refused while the slice holds adds. -/
def State.setAtommode (s : State) (sl v : Nat) : State :=
  s.updSlice sl (fun e => if e.heldAdds.isEmpty then { e with atommode := v % 2 } else e)

/-- ATOMMODE_WRITE (13 R282). -/
def execAtommodeWrite (s : State) : Out := .next (s.setAtommode s.unit s.arg)

end Sys2Proof.Machine
end

