-- ==== Sys2Proof/Machine/Porter.lean ====
section
/-! DEFINITION. Porter: the publication ring and its status records, and the entries LOAD, LAUNCH, UNLOAD and NOP (03 R45 to R54; 11 R236; 05 R85, R86, R105, R106; 09 R198). -/

namespace Sys2Proof.Machine

/-! ### The host's memory as a function reaches it (03 R40) -/

/-- Whether the host link lets a function read n bytes (03 R49; log 5). -/
def State.hostOk (s : State) (a n : Nat) : Bool :=
  n == 0 || (decide (a + n ≤ 2 ^ 64) && !s.hostBad.any (fun p => decide (a / 4096 ≤ p.1 ∧ p.1 ≤ (a + n - 1) / 4096)))

/-! ### Counters of an interface (R42) -/

/-- Adds to the counter with a local index, where it is granted. -/
def State.evLocal (s : State) (v i x : Nat) : State :=
  if i < (s.vi v).evcount then s.evAdd ((s.vi v).evbase + i) x else s

/-- The value of the counter with a local index; 0 where it is not granted. -/
def State.evLocalVal (s : State) (v i : Nat) : Nat :=
  if i < (s.vi v).evcount then (s.counter ((s.vi v).evbase + i)).toNat else 0

/-! ### The ring (R45 to R49) -/

/-- The status codes of R49. -/
abbrev stOk : Nat := 0x0
abbrev stBadkind : Nat := 0x1
abbrev stSigfail : Nat := 0x2
abbrev stKeyrevoked : Nat := 0x3
abbrev stClaimquota : Nat := 0x4
abbrev stSlotbusy : Nat := 0x5
abbrev stSlotempty : Nat := 0x6
abbrev stBadcontainer : Nat := 0x7
abbrev stAddrfault : Nat := 0x8
abbrev stBadctx : Nat := 0x9
abbrev stBadarg : Nat := 0xA
abbrev stPrioceil : Nat := 0xB
abbrev stOverrun : Nat := 0xC
abbrev stNomem : Nat := 0xD

/-- Entries published and not yet read (R46). -/
def State.behind (s : State) (v : Nat) : Nat := (s.evLocalVal v 0 + 2 ^ 64 - (s.vi v).pubrd) % 2 ^ 64

/-- The entry at the read count (R45): the one that Porter has read, or what lies in its slot. -/
def State.entry (s : State) (v : Nat) : Nat :=
  match (s.vi v).taken with
  | some p => p.1
  | none => s.hostMem.num ((s.vi v).pubbase + 64 * ((s.vi v).pubrd % (s.vi v).pubdepth)) 64

/-- Whether Porter carries out an entry of an interface now (R46), which no warm restart has stopped (R61). One that it has read and tested is carried out, whatever is published since. -/
def State.ringLive (s : State) (v : Nat) : Bool :=
  s.boot == 1 && (s.vi v).run && !(s.vi v).restart && ((s.vi v).taken.isSome || decide (0 < s.behind v ∧ s.behind v ≤ (s.vi v).pubdepth))

/-- Writes the status record of the entry at the read count; a code that is neither OK nor OVERRUN counts in the error counter (R42, R45, R49). -/
def State.writeStatus (s : State) (v tag code : Nat) : State :=
  let e := s.vi v
  let s := s.hostWrite (e.statbase + 16 * (e.pubrd % e.pubdepth)) (toBytes 16 (code + e.pubrd % 2 ^ 48 * 2 ^ 16 + tag * 2 ^ 64))
  if code = stOk ∨ code = stOverrun then s else s.evLocal v 1 1

/-- What Porter makes of an entry: its status code with the state, or the state in which it waits and, where the effect is made, the mark of what it waits for. -/
inductive Carried where
  | done (code : Nat) (s : State)
  | wait (mark : Option Nat) (s : State)
  deriving Repr

/-- Carries out the entry at the read count if it is of a kind (R46). While it waits, the entry as it was read is held. -/
def onEntry (kind : Nat → Nat → Bool) (f : Nat → Nat → State → Carried) (s : State) : Out :=
  let v := s.unit
  let e := s.entry v
  if s.ringLive v && kind v (e % 256) then
    match f v e s with
    | .wait m t => .next (t.updVi v (fun w => { w with taken := some (e, m) }))
    | .done code t =>
      .next ((t.writeStatus v (bitsOf e 383 320) code).updVi v (fun w => { w with pubrd := (w.pubrd + 1) % 2 ^ 64, taken := none }))
  else .next s

/-- An entry of one kind. -/
def isKind (k : Nat) : Nat → Nat → Bool := fun _ n => n == k

/-- OVERRUN (R47). -/
def execOverrun (s : State) : Out :=
  let v := s.unit
  if s.boot == 1 && (s.vi v).run && !(s.vi v).restart && (s.vi v).taken.isNone && decide ((s.vi v).pubdepth < s.behind v) then
    .next (((s.updVi v (fun w => { w with run := false, overrun := true })).evLocal v 1 1).writeStatus v 0 stOverrun)
  else .next s

/-- NOP_ENTRY (R48). -/
def execNopEntry (s : State) : Out := onEntry (isKind 4) (fun _ _ s => .done stOk s) s

/-- RESERVED_KIND_ENTRY (R48, R49, R60): a reserved kind, or a privileged one on an interface other than 0. -/
def execReservedKindEntry (s : State) : Out :=
  onEntry (fun v k => k == 0 || (decide (4 < k) && (decide (k < 0x10 ∨ 0x18 < k) || v != 0))) (fun _ _ s => .done stBadkind s) s

/-! ### LOAD (R50, R52; 11 R236; 09 R198) -/

/-- The active cores of an interface's grant, in increasing order (R52). -/
def State.granted (s : State) (v : Nat) : List Nat := (List.range 192).filter (fun c => bitAt (s.vi v).grant c && s.active c)

/-- A free 64 KiB frame for a context: from its home slice's stack, then from any other, then from LPDDR6 (log 12). -/
def State.takeAny (s : State) (vi ctx : Nat) : Option (Nat × State) :=
  let units : List (Nat × Nat) := (0, homeSlice ctx) :: ((List.range 12).map (fun i => (0, i)) ++ (List.range 4).map (fun i => (1, i)))
  units.findSome? (fun u => s.takeFrame (tierFrames u.1 u.2).1 (tierFrames u.1 u.2).2 vi ctx)

/-- Maps pages from a virtual address with the given rights, and answers where each lies; none where a frame is lacking, for a page or for a table. -/
def State.bindPages (s : State) (vi ctx rights : Nat) : Nat → Nat → Option (List (Nat × Nat) × State)
  | 0, _ => some ([], s)
  | n + 1, va =>
    match s.takeAny vi ctx with
    | none => none
    | some (f, t) =>
      match t.addLeaf ctx { va := va, size := 1, pte := 0x85 + rights * 16 + f * 65536 } with
      | none => none
      | some t => (State.bindPages t vi ctx rights n (va + 65536)).map (fun r => ((va, f) :: r.1, r.2))

/-- Copies file bytes into pages just bound, which are zero. -/
def State.fillPages (s : State) (bs : List Byte) : List (Nat × Nat) → State
  | [] => s
  | (_, f) :: r =>
    State.fillPages (s.initMem (f * 65536) 65536 (bs.take 65536)) (bs.drop 65536) r

/-- Binds the segments in turn. -/
def State.bindSegs (s : State) (vi ctx : Nat) (file : List Byte) : List Segment → Option (List (Nat × Nat) × State)
  | [] => some ([], s)
  | g :: r =>
    match s.bindPages vi ctx g.flags g.pages g.va with
    | none => none
    | some (ps, t) =>
      (State.bindSegs (t.fillPages ((file.drop g.off).take g.fsize) ps) vi ctx file r).map (fun q => (ps ++ q.1, q.2))

/-- The clusters that hold a core of a set. -/
def clustersOf (set : List Nat) : List Nat := (set.map clusterOf).dedup

/-- The sequence contexts of a cluster that no image holds. -/
def State.freeSeqs (s : State) (cl : Nat) : List Nat := (List.range' (64 * cl) 64).filter (fun i => (s.seq i).owner.isNone)

/-- Assigns cleared sequence contexts to a slot (09 R198). -/
def State.assignSeqs (s : State) (v slot n : Nat) (set : List Nat) : State :=
  (clustersOf set).foldl (fun s cl =>
    (((s.freeSeqs cl).take n).zipIdx).foldl (fun (s : State) (p : Nat × Nat) => s.updSeq p.1 (fun _ => { owner := some (v, slot, p.2) })) s) s

/-- The claims against the interface's quotas (R52). -/
def State.quotaOk (s : State) (v : Nat) (cl : Claims) : Bool :=
  let e := s.vi v
  let used := (e.slots.map (fun p => if p.2.st = 0 then 0 else p.2.claims.memory)).sum
  decide (cl.cores ≤ (s.granted v).length) && decide (cl.events ≤ e.evcount) && decide (cl.layout ≤ e.layQuota)
    && decide (used + cl.memory ≤ e.pageQuota) && decide (cl.sampler ≤ e.smpQuota) && decide (cl.priority ≤ e.ceiling)
    && (List.range 64).all (fun i => !bitAt cl.peer i || bitAt (e.peers.get 0 i) 26)

/-- The further conditions of R236 and of 05 R84, with the ranges of R52. -/
def State.imageOk (s : State) (ctx : Nat) (k : Container) (set : List Nat) : Bool :=
  let cl := claimsOf k.claims
  claimsLegal k.claims && !spansMeet k.spans
    && k.spans.all (fun p => (s.meets ctx p.1 p.2).isEmpty && !s.windowHolds ctx p.1 p.2)
    && k.layouts.all (fun p => decide (p.1 < cl.layout))
    && k.recs.all (fun r => r.ringsFit cl.spad && r.shaped && !r.gangTooBig set) && decide (k.pages ≤ cl.memory)

/-- Whether every range of an image lies in the context's address space. -/
def Container.inSpace (k : Container) : Bool := k.spans.all (fun p => decide (p.1 + p.2 ≤ 2 ^ 48))

/-- Binding (R50, step 6; 11 R236): none where the pages cannot be supplied. -/
def State.bind (s : State) (v slot ctx : Nat) (file : List Byte) (k : Container) (set : List Nat) : Option State :=
  let cl := claimsOf k.claims
  match s.bindSegs v ctx file k.segs with
  | none => none
  | some (ps, t) =>
    match t.bindPages v ctx 1 1 k.paramVa with
    | none => none
    | some (qs, t) =>
      let t := t.assignSeqs v slot cl.sampler set
      let t := t.updCtx ctx (fun r => { r with
        layouts := k.layouts.foldl (fun (m : Store Nat) (p : Nat × Nat) => Store.put 0 m p.1 (layoutEntry p.2 + ctx * 2 ^ 24)) r.layouts })
      let im : Image := { st := 1, ctx := ctx, claims := cl, recs := k.recs, templates := k.templates, inputs := k.inputs
                          paramVa := k.paramVa, coreSet := set, pages := k.pages, bound := ps ++ qs }
      some (t.updVi v (fun e => { e with slots := e.slots.put {} slot im }))

/-- The outcome of a LOAD (R50). -/
def State.load (s : State) (v e : Nat) : Nat × State :=
  let ctx := bitsOf e 159 148
  let slot := bitsOf e 173 168
  let addr := bitsOf e 511 448
  let len := bitsOf e 447 384
  let r := s.ctx ctx
  if !(r.live && r.vi == v) then (stBadctx, s)
  else if ((s.vi v).slots.get {} slot).st ≠ 0 then (stSlotbusy, s)
  else if 2 ^ 28 < len then (stBadcontainer, s)
  else if !s.hostOk addr len then (stAddrfault, s)
  else
    let file := s.hostMem.part addr len
    match parseContainer file with
    | none => (stBadcontainer, s)
    | some k =>
      let ks := (s.vi v).keys.get {} k.keySlot
      match ks.revoked, ks.key with
      | false, some key =>
        let set := (s.granted v).take (claimsOf k.claims).cores
        if !ecdsaOk key (file.take (len - 192)) k.r k.sig then (stSigfail, s)
        else if !(s.imageOk ctx k set && k.inSpace) then (stBadcontainer, s)
        else if !s.quotaOk v (claimsOf k.claims) then (stClaimquota, s)
        else if (clustersOf set).any (fun c => decide ((s.freeSeqs c).length < (claimsOf k.claims).sampler)) then (stClaimquota, s)
        else
          match s.bind v slot ctx file k set with
          | none => (stNomem, s)
          | some t => (stOk, t)
      | _, _ => (stKeyrevoked, s)

/-- LOAD (R50 to R52). -/
def execLoad (s : State) : Out := onEntry (isKind 1) (fun v e s => let r := s.load v e; .done r.1 r.2) s

/-! ### LAUNCH (R53; 05 R85, R86, R105, R106) -/

/-- The trip counts that come from the parameter block are resolved; none where an offset passes the block (05 R85). -/
def resolveLevel (block : List Byte) (l : Level) : Option Level :=
  if l.tripsrc = 1 then
    if l.trip + 4 ≤ block.length then some { l with tripsrc := 0, trip := field block l.trip 4 } else none
  else some l

/-- The record with its trip counts resolved. -/
def resolveRec (block : List Byte) (r : LoopRec) : Option LoopRec :=
  (r.levels.mapM (resolveLevel block)).map (fun ls => { r with levels := ls })

/-- Items of a resolved record, a batch-sized level counted as one. -/
def LoopRec.items (r : LoopRec) : Nat := tripsOf r.levels 1

/-- SHA-512 of a region as a number, byte 0 lowest. -/
def hashNum (bs : List Byte) : Nat := ofBytes (sha512 bs)

/-- Porter as it reads the memory of an image's context. -/
def porterParty (v : Nat) (im : Image) : Party := { core := porterCore, agent := v, ctx := im.ctx }

/-- Bytes of one page of a context's memory, as a party outside the cores reads them. -/
def State.regionPiece (s : State) (p : Party) (va n : Nat) : Ex (List Byte) := do
  match ← s.partyTarget p va .read with
  | .dev pa => .ok (s.mem.part pa n)
  | .host ha => .ok (s.hostMem.part ha n)
  | .peer w o =>
    (lineParts o n n).foldlM (fun (acc : List Byte) q => do
      let b ← s.peerReadLine p.core p.agent w q.1 q.2 (va + (q.1 - o)) 0
      .ok (acc ++ b)) []

/-- n bytes of a context's memory, at most fuel pages of 4 KiB. -/
def State.region (s : State) (p : Party) : Nat → Nat → Nat → Ex (List Byte)
  | 0, _, _ => .ok []
  | fuel + 1, va, n =>
    if n = 0 then .ok []
    else do
      let m := min n (4096 - va % 4096)
      let b ← s.regionPiece p va m
      let r ← State.region s p fuel (va + m) (n - m)
      .ok (b ++ r)

/-- The hashes of the regions of an image. -/
def State.hashInputs (s : State) (p : Party) (l : List (Nat × Nat)) : Ex (List Nat) :=
  l.mapM (fun q => do
    let b ← s.region p (q.2 / 4096 + 2) q.1 q.2
    .ok (hashNum b))

/-- Inserts a record into those of a core in increasing START, after equal ones (05 R106). -/
def insertTrace (r : TraceRec) : List TraceRec → List TraceRec
  | [] => [r]
  | q :: l => if q.start ≤ r.start then q :: insertTrace r l else r :: q :: l

/-- The records of a trace buffer (05 R105). -/
def State.traceRecs (s : State) (a n : Nat) : List TraceRec :=
  (List.range n).map (fun i =>
    let x := s.hostMem.num (a + 1152 + 16 * i) 16
    { start := bitsOf x 127 64, item := bitsOf x 63 32, pcore := bitsOf x 31 24, vcore := bitsOf x 9 0 })

/-- Whether a trace fits a launch (05 R106): as many records as items, each item once, on cores of the set. The count of a launch with batch tables is not known before it runs, and is the trace's own (log 22). -/
def traceOk (recs : List LoopRec) (set : List Nat) (tr : List TraceRec) : Bool :=
  (recs.any LoopRec.batched || tr.length == (recs.map LoopRec.items).sum)
    && (List.range tr.length).all (fun i => tr.any (·.item == i)) && tr.all (fun r => set.contains r.pcore)

/-- The least number of a parameter copy that no unfinished launch of a slot holds (05 R86). -/
def State.freeCopy (s : State) (v slot : Nat) : Nat :=
  ((List.range 16).find? (fun i => !s.launches.any (fun l => l.vi == v && l.slot == slot && l.paramCopy == i))).getD 0

/-- Writes a launch's parameter copy, zeros after the block (05 R86). -/
def State.writeParams (s : State) (im : Image) (copy : Nat) (block : List Byte) : State :=
  match im.bound.find? (·.1 == im.paramVa) with
  | some (_, f) => s.initMem (f * 65536 + 4096 * copy) 4096 block
  | none => s

/-- Writes the hashes of a launch into its trace buffer (05 R105). -/
def State.writeHashes (s : State) (a block : Nat) (hs : List Nat) : State :=
  let s := (s.hostWrite (a + 24) (toBytes 8 hs.length)).hostWrite (a + 32) (toBytes 64 block)
  (hs.zipIdx).foldl (fun (s : State) (p : Nat × Nat) => s.hostWrite (a + 128 + 64 * p.2) (toBytes 64 p.1)) s

/-- Whether the hashes of a launch are those that a trace recorded (05 R106). -/
def State.hashesAre (s : State) (a block : Nat) (hs : List Nat) : Bool :=
  s.hostMem.num (a + 24) 8 == hs.length && s.hostMem.num (a + 32) 64 == block
    && (hs.zipIdx).all (fun p => s.hostMem.num (a + 128 + 64 * p.2) 64 == p.1)

/-- Accepts a launch (R53). Its items come after what the publication of its entry passed on (08 R178). -/
def State.accept (s : State) (v e : Nat) (im : Image) (recs : List LoopRec) (tr : List TraceRec) (block : List Byte) : State :=
  let slot := bitsOf e 173 168
  let copy := s.freeCopy v slot
  let a := bitsOf e 319 256
  let fl := bitsOf e 179 176
  let l : Launch := { id := s.nextLaunch, vi := v, slot := slot, ctx := im.ctx, tag := bitsOf e 383 320, prio := bitsOf e 167 166
                      flags := if a = 0 then fl / 2 * 2 else fl, doneev := bitsOf e 191 180, doneval := bitsOf e 255 192
                      paramCopy := copy, traceAddr := a, recs := recs, replay := tr.foldl (fun l r => insertTrace r l) [] }
  { s.writeParams im copy block with launches := s.launches ++ [l.settled], nextLaunch := s.nextLaunch + 1,
                                          itemKnow := joinKnow s.itemKnow (s.evKnow.get [] (s.vi v).evbase) }

/-- The records of the trace that a launch replays, or the code that refuses it (05 R106; log 21). hs has the hashes computed now, where it asks for them. -/
def State.replayOf (s : State) (a : Nat) (recs : List LoopRec) (set : List Nat) (block : List Byte) (hs : Option (List Nat)) :
    Except Nat (List TraceRec) :=
  if a = 0 then .error stBadarg
  else if !s.hostOk a (1152 + 16 * s.hostMem.num (a + 8) 8) then .error stAddrfault
  else
    let tr := s.traceRecs a (s.hostMem.num (a + 8) 8)
    if traceOk recs set tr && hs.all (s.hashesAre a (hashNum block)) then .ok tr else .error stBadarg

/-- The trace buffer of an accepted launch that records: no overflow, and the hashes where it has them (05 R105). Where it has none, NIN is left as the host wrote it (log 21). -/
def State.openTrace (s : State) (a : Nat) (block : List Byte) (hs : Option (List Nat)) : State :=
  match hs with
  | some l => (s.hostWrite (a + 16) (toBytes 8 2)).writeHashes a (hashNum block) l
  | none => s.hostWrite (a + 16) (toBytes 8 0)

/-- The hashes that a launch asks for with FLAGS[2], which has no effect without a trace (05 R105). -/
def State.launchHashes (s : State) (v : Nat) (im : Image) (fl a : Nat) : Ex (Option (List Nat)) :=
  if bitAt fl 2 && (bitAt fl 0 || bitAt fl 1) && a != 0 then (s.hashInputs (porterParty v im) im.inputs).map some else .ok none

/-- Carries out a LAUNCH (R48, R53; 05 R85, R86, R105, R106; log 21). It waits while 16 launches of its slot are unfinished, before anything else, and while a page that it hashes is not at hand. -/
def State.launchEntry (s : State) (v e : Nat) : Carried :=
  let slot := bitsOf e 173 168
  let im := (s.vi v).slots.get {} slot
  let addr := bitsOf e 511 448
  let len := bitsOf e 447 384
  let a := bitsOf e 319 256
  let fl := bitsOf e 179 176
  if 16 ≤ (s.launches.filter (fun l => l.vi == v && l.slot == slot)).length then .wait none s
  else if im.st ≠ 1 then .done stSlotempty s
  else if im.claims.priority < bitsOf e 167 166 then .done stPrioceil s
  else if (len ≠ 0 ∧ addr % 16 ≠ 0) ∨ 4096 < len ∨ (s.vi v).evcount ≤ bitsOf e 191 180 then .done stBadarg s
  else if !s.hostOk addr len then .done stAddrfault s
  else
    let block := if len = 0 then [] else s.hostMem.part addr len
    match im.recs.mapM (resolveRec block) with
    | none => .done stBadarg s
    | some recs =>
      if recs.any (fun r => r.gangTooBig im.coreSet || decide (2 ^ 32 < r.items)) || (bitAt fl 0 && bitAt fl 1) then .done stBadarg s
      else
        match s.launchHashes v im fl a with
        | .error (.trap cause _) =>
          if cause = .hostNotPresent then .wait none (s.stopReqs porterCore v cause) else .done stAddrfault (s.dropReqs porterCore v)
        | .error e => .wait none (s.stopParty (porterParty v im) e)
        | .ok hs =>
          let s := s.dropReqs porterCore v
          if bitAt fl 1 then
            match s.replayOf a recs im.coreSet block hs with
            | .error code => .done code s
            | .ok tr => .done stOk (s.accept v e im recs tr block)
          else .done stOk ((if bitAt fl 0 ∧ a ≠ 0 then s.openTrace a block hs else s).accept v e im recs [] block)

/-- LAUNCH (R48, R53; 05 R85, R86, R105, R106). -/
def execLaunch (s : State) : Out := onEntry (isKind 2) (fun v e t => t.launchEntry v e) s

/-! ### UNLOAD (R54) -/

/-- UNLOAD (R54). -/
def execUnload (s : State) : Out :=
  onEntry (isKind 3) (fun v e s =>
    let slot := bitsOf e 173 168
    if ((s.vi v).slots.get {} slot).st = 1 then
      let s := s.updVi v (fun w => { w with slots := w.slots.upd {} slot (fun im => { im with st := 2 }) })
      .done stOk (if s.launches.any (fun l => l.vi == v && l.slot == slot) then s else s.freeSlot v slot)
    else .done stSlotempty s) s

end Sys2Proof.Machine
end

