-- ==== Sys2Proof/Machine/Privileged.lean ====
section
/-! DEFINITION. Warm restart and the privileged commands of interface 0's ring (03 R51, R60, R61; 04 R66, R69, R74; 01 R18, R21). -/

namespace Sys2Proof.Machine

/-! ### Warm restart (R61) -/

/-- Ends the task of a core of interface v with cause host reset, at an instruction boundary of its main context; its RUN record goes to interface 0. -/
def State.terminate (s : State) (v c : Nat) : State :=
  let s := (s.abortWindows c).postFault c 0 .hostReset 0 (s.cx c 0).pc.toNat 0 0
  ((s.endItem c true).closeAccount c v).updPhys c (fun p =>
    { p.freed with k := { p.freed.k with chan := [], row := {}, mat := {} } })

/-- Cores on which a task of an interface is, in increasing order. -/
def State.coresOf (s : State) (v : Nat) : List Nat :=
  (s.cores.filter (fun p => p.2.k.task.isSome && p.2.k.tk.vi == v)).map (·.1)

/-- The live contexts of an interface. -/
def State.ctxsOf (s : State) (v : Nat) : List Nat := (s.ctxs.filter (fun p => p.2.live && p.2.vi == v)).map (·.1)

/-- Removes every cached translation of a context (04 R69). -/
def State.flushCtx (s : State) (ctx : Nat) : State :=
  let keep (l : List Tlb) : List Tlb := l.filter (fun e => !(e.id == ctx))
  { s with
    cores := s.cores.mapVals {} (fun _ p => { p with itlb := keep p.itlb, dtlb := keep p.dtlb })
    ctlb := s.ctlb.mapVals [] (fun _ l => keep l)
    walks := s.walks.filter (fun w => !(w.ctx == ctx))
    oldLeaves := s.oldLeaves.filter (fun o => !(s.ctxOf o.core o.agent == ctx))
    atc := s.atc.filter (fun e => !(e.id == (s.ctx ctx).pasid))
    oldAtc := s.oldAtc.filter (fun o => !(o.ent.id == (s.ctx ctx).pasid))
    atsReqs := s.atsReqs.filter (fun r => !(r.pasid == (s.ctx ctx).pasid)) }

/-- A warm restart begins (step 1): what waits or is saved is discarded, with the adds held for its launches (13 R282), an item that has been dispatched and not begun ends, and the tasks drain to a boundary. -/
def State.beginRestart (s : State) (v : Nat) : State :=
  let ids := (s.launches.filter (·.vi == v)).map (·.id)
  let s := ids.foldl (fun s i => s.dropReqs walkerCore i) (s.dropReqs porterCore v)
  let s : State := { s with
    launches := s.launches.filter (·.vi != v)
    requests := s.requests.filter (fun r => !ids.contains r.launch)
    slices := s.slices.mapVals {} (fun _ e => { e with heldAdds := e.heldAdds.filter (fun h => !ids.contains h.launch) })
    cores := s.cores.mapVals {} (fun _ p => { p with
      saved := p.saved.mapVals none (fun _ o => o.filter (·.tk.vi != v))
      tested := p.tested.filter (fun i => (p.saved.get none i).all (·.tk.vi != v)) }) }
  ((s.coresOf v).foldl (fun s c =>
    let k := s.core c
    match k.phase with
    | .dispatched => (s.postFault c 0 .hostReset 0 k.tk.entry 0 0).updPhys c (·.freed)
    | .running => s.updCore c (fun k => { k with phase := .draining })
    | _ => s) s).updVi v (fun e => { e with restart := true })

/-- Whether every task of an interface is at a boundary: no access of it has a request out that changes something, so its contexts are between instructions, its engines between words and its copies between lines. -/
def State.boundary (s : State) (v : Nat) : Bool := (s.coresOf v).all (fun c => !s.peerReqs.any (fun r => r.core == c && r.acts))

/-- The tasks of an interface end (steps 1 and 2). -/
def State.stopVi (s : State) (v : Nat) : State :=
  (s.coresOf v).foldl (fun s c =>
    match (s.core c).phase with
    | .running => s.terminate v c
    | .draining => s.terminate v c
    | _ => s.updPhys c (·.freed)) s

/-- Empties the address space of a context: its root has no entry, and no other table is left. -/
def State.emptySpace (s : State) (ctx : Nat) : State :=
  (({ s with tables := s.tables.put [] (s.ctx ctx).root [] } : State).trimTables ctx).updCtx ctx (fun r => { r with alloced := [] })

/-- Step 5: the slots are freed, the memory of the contexts goes back, and the contexts stay live with empty address spaces. -/
def State.clearVi (s : State) (v : Nat) : State :=
  let s := ((s.vi v).slots.map (·.1)).foldl (fun s i => s.freeSlot v i) s
  let cs := s.ctxsOf v
  let s := cs.foldl (fun s c => (s.flushCtx c).emptySpace c) s
  ((s.frames.filter (fun p => cs.any (fun c => p.2 == (v + 1, c + 1)))).map (·.1)).foldl (fun s f => s.freeFrame f) s

/-- Step 6: the counters are 0 and their waits and triggers are disarmed. -/
def State.clearCounters (s : State) (v : Nat) : State :=
  let mine (i : Nat) : Bool := decide ((s.vi v).evbase ≤ i ∧ i < (s.vi v).evbase + (s.vi v).evcount)
  { s with
    counters := s.counters.filter (fun p => !mine p.1)
    evKnow := s.evKnow.filter (fun p => !mine p.1)
    blks := s.blks.mapVals {} (fun i b => if mine i then { b with waitArmed := false, trigArmed := false } else b) }

/-- Step 7: the register block at its reset values; grants, quotas, keys and peers are interface 0's and stay. -/
def Vi.restarted (e : Vi) : Vi :=
  { evbase := e.evbase, evcount := e.evcount, grant := e.grant, ceiling := e.ceiling, smpQuota := e.smpQuota, pageQuota := e.pageQuota
    layQuota := e.layQuota, keys := e.keys, peers := e.peers, atsOff := e.atsOff, priFail := e.priFail
    priAlloc := e.priAlloc }

/-- A warm restart ends: steps 2 to 7. -/
def State.warmRestart (s : State) (v : Nat) : State :=
  (((s.stopVi v).clearVi v).clearCounters v).updVi v (·.restarted)

/-- A warm restart goes on where its tasks are at their boundaries. -/
def State.goRestart (s : State) (v : Nat) : State := if (s.vi v).restart && s.boundary v then s.warmRestart v else s

/-- A warm restart of an interface is asked for, or under way (R61). -/
def State.restart (s : State) (v : Nat) : State := (if (s.vi v).restart then s else s.beginRestart v).goRestart v

/-- WARM_RESTART (R61): the function-level reset of a virtual function; or a restart under way, of any interface, goes on. -/
def execWarmRestart (s : State) : Out :=
  .next (if s.boot = 1 ∧ s.unit < 256 ∧ (1 ≤ s.unit ∨ (s.vi 0).restart) then s.restart s.unit else s)

/-- The interfaces that have any state: of registers and grants, or of contexts. -/
def State.interfaces (s : State) : List Nat := (s.vis.map (·.1) ++ (s.ctxs.filter (·.2.live)).map (·.2.vi)).dedup

/-- HOT_RESET (R61): every interface at once. -/
def execHotReset (s : State) : Out :=
  .next (if s.boot = 1 then
      s.interfaces.foldl (fun s v => s.goRestart v) (s.interfaces.foldl (fun s v => if (s.vi v).restart then s else s.beginRestart v) s)
    else s)

/-! ### Privileged commands (R60) -/

/-- Argument n of a command: its bits in the entry. -/
def argOf (e n : Nat) : Nat :=
  match n with
  | 0 => bitsOf e 63 8
  | 1 => bitsOf e 127 64
  | 2 => bitsOf e 191 128
  | 3 => bitsOf e 255 192
  | 4 => bitsOf e 319 256
  | 5 => bitsOf e 447 384
  | _ => bitsOf e 511 448

/-- Carries out a privileged command on interface 0's ring. -/
def privileged (kind : Nat) (f : (Nat → Nat) → State → Carried) (s : State) : Out :=
  onEntry (fun v k => v == 0 && k == kind) (fun _ e t => f (argOf e) t) s

/-- A command that is refused. -/
def badArg (s : State) : Carried := .done stBadarg s

/-- Whether an interface has loaded images, of which one that drains is one (log 23). -/
def Vi.hasImages (e : Vi) : Bool := e.slots.any (fun p => p.2.st != 0)

/-- Whether two ranges of counters share one. -/
def rangesMeet (a n b m : Nat) : Bool := decide (a < b + m ∧ b < a + n ∧ 0 < n ∧ 0 < m)

/-- VISET (R60). The save areas that it reserves are fields of the cores and take no frames (05 R98; log 43). -/
def execViset (s : State) : Out :=
  privileged 0x10 (fun a s =>
    let v := a 0
    let g := bitsOf (a 1 + a 2 * 2 ^ 64 + a 3 * 2 ^ 128) 191 0
    let base := bitsOf (a 4) 11 0
    let n := bitsOf (a 4) 28 16
    if 256 ≤ v ∨ (s.vi v).hasImages ∨ 4096 < base + n
        ∨ (List.range 192).any (fun c => bitAt g c && !s.active c)
        ∨ s.vis.any (fun p => p.1 != v && ((p.2.grant &&& g) != 0 || rangesMeet base n p.2.evbase p.2.evcount)) then badArg s
    else
      .done stOk (s.updVi v (fun e => { e with
        grant := g, evbase := base, evcount := n, ceiling := bitsOf (a 4) 33 32, smpQuota := bitsOf (a 4) 40 34
        pageQuota := a 5, layQuota := a 6 }))) s

/-- KEYSET (R51, R60). -/
def execKeyset (s : State) : Out :=
  privileged 0x11 (fun a s =>
    let x := a 0
    let v := bitsOf x 7 0
    let n := bitsOf x 10 8
    let set (k : KeySlot) (s : State) : Carried := .done stOk (s.updVi v (fun e => { e with keys := e.keys.put {} n k }))
    match bitAt x 16, bitAt x 17 with
    | true, true => badArg s
    | true, false => set { (s.vi v).keys.get {} n with revoked := true } s
    | false, true => set {} s
    | false, false =>
      if !s.hostOk (a 1) 132 then .done stAddrfault s
      else
        let q := (s.hostMem.num (a 1) 66, s.hostMem.num (a 1 + 66) 66)
        if onCurve q then set { key := some q, revoked := false } s else badArg s) s

/-- CTXNEW (R60): a new context starts with an empty address space, whose root takes a frame in the stack of its home slice (04 R63); where that has none, the command is refused (log 12). -/
def execCtxnew (s : State) : Out :=
  privileged 0x12 (fun a s =>
    let id := bitsOf (a 1) 11 0
    if 256 ≤ a 0 ∨ id = 0 ∨ (s.ctx id).live then badArg s
    else
      match s.newTable id [] with
      | none => badArg s
      | some (f, t) =>
        .done stOk (({ t with tables := t.tables.put [] f [] } : State).updCtx id
          (fun _ => { live := true, vi := a 0, pasid := bitsOf (a 2) 19 0, root := f }))) s

/-- Whether some slot holds an image of a context. -/
def State.ctxHasImages (s : State) (ctx : Nat) : Bool := s.vis.any (fun p => p.2.slots.any (fun q => q.2.st != 0 && q.2.ctx == ctx))

/-- CTXFREE (R60; 04 R69). What a core still holds of the context belongs to no context from then on, so the next task finds it cleared (R55), and what it has spent for it is still to be charged (02 R36; log 25). -/
def execCtxfree (s : State) : Out :=
  privileged 0x13 (fun a s =>
    let id := a 1
    if id = 0 ∨ 4096 ≤ id ∨ !(s.ctx id).live ∨ s.ctxHasImages id then badArg s
    else
      let blocks := s.tableBlocks id
      let s := (s.frames.filter (fun p => p.2.2 == id + 1)).foldl (fun s p => s.freeFrame p.1) (s.flushCtx id)
      let left (k : Core) : Core := { k with holder := k.holder.filter (· != id) }
      .done stOk ({ s with
        tables := s.tables.filter (fun p => !blocks.contains (p.1 / 16))
        cores := s.cores.mapVals {} (fun _ p => { p with k := left p.k, acct := p.acct.map (fun (a : Nat × Bool) => if a.1 = id then (id, true) else a) }) }.updCtx id (fun _ => {}))) s

/-- PEERSET (R60; 01 R21). -/
def execPeerset (s : State) : Out :=
  privileged 0x14 (fun a s =>
    let d := a 2 + a 3 * 2 ^ 64
    let dev := bitsOf d 11 0
    if 256 ≤ a 0 ∨ 64 ≤ a 1 ∨ dev = s.devid ∨ dev = 0xFFF then badArg s
    else .done stOk (s.updVi (a 0) (fun e => { e with peers := e.peers.put 0 (a 1) (d - bitsOf d 63 27 * 2 ^ 27) }))) s

/-- ROUTESET (R60; 01 R18). -/
def execRouteset (s : State) : Out :=
  privileged 0x15 (fun a s =>
    let own := bitsOf (a 0) 11 0
    let set := bitAt (a 0) 55
    if (set && own == 0xFFF) ∨ 0xFFF ≤ a 1 ∨ (16 ≤ a 2 ∧ a 2 ≠ 0xFF) then badArg s
    else .done stOk { s with devid := if set then own else s.devid, route := s.route.put 0 (a 1) (if a 2 = 0xFF then 0 else a 2 + 1) }) s

/-- CLOCKSET (R60; 02 R25): either write refused refuses both. -/
def execClockset (s : State) : Out :=
  privileged 0x16 (fun a s =>
    let e := (s.cluster (a 0)).setCode false (a 1)
    let f := e.setReplay (a 2)
    if 24 ≤ a 0 then badArg s
    else if e.refused ∨ f.refused then badArg (s.updCluster (a 0) (fun e => { e with refused := true }))
    else .done stOk (s.updCluster (a 0) (fun _ => f))) s

/-- VIRESET (R60, R61): the command takes effect before its status record is written, and so waits for the restart. -/
def execVireset (s : State) : Out :=
  privileged 0x18 (fun a s =>
    let wait (m : Nat) (t : State) : Carried := if (t.vi (a 0)).restart then .wait (some m) t else .done stOk t
    match (s.vi 0).taken with
    | some (_, some m) => wait m s
    | _ => if a 0 = 0 ∨ 256 ≤ a 0 then badArg s else wait s.tick (s.restart (a 0))) s

/-! ### MAP (04 R64 to R66, R74) -/

/-- The conditions on an entry that need no state: reserved bits, TYPE, rights and alignment (04 R64, R66). -/
def pteLegal (va p : Nat) : Bool :=
  let sz := leafBytes (bitsOf p 8 7)
  let ty := bitsOf p 3 2
  decide (va < 2 ^ 48) && va % sz == 0 && bitsOf p 63 52 == 0 && bitsOf p 10 9 == 0 && !bitAt p 1 &&
    (if bitAt p 0 then
      ty != 0 && bitsOf p 6 4 != 0 &&
        (match ty with
         | 1 => bitsOf p 51 44 == 0 && (bitsOf p 43 12 * 4096) % sz == 0
         | 2 => bitsOf p 19 18 == 0 && (bitsOf p 51 20 * 4096) % sz == 0 && !bitAt p 6 && !bitAt p 11
         | _ => bitsOf p 51 12 == 0 && !bitAt p 6 && !bitAt p 11)
    else p == bitsOf p 8 7 * 2 ^ 7)

/-- Whether a range of device memory exists and is allocated to an interface. -/
def State.framesOf (s : State) (v pa n : Nat) : Bool :=
  (sliceOfPa pa).isSome && (sliceOfPa (pa + n - 1)).isSome
    && (List.range' (pa / 65536) ((pa + n - 1) / 65536 - pa / 65536 + 1)).all (fun f => (s.frames.get (0, 0) f).1 == v + 1)

/-- The local physical range of a leaf. -/
def Leaf.range (l : Leaf) : Nat × Nat := (bitsOf l.pte 43 12 * 4096, leafBytes l.size)

/-- Whether a TYPE 1 entry maps a frame that another context maps, or that this one maps elsewhere with another PGRANT (04 R66). -/
def State.aliases (s : State) (ctx va p : Nat) : Bool :=
  let (base, n) := Leaf.range { va := va, size := bitsOf p 8 7, pte := p }
  s.ctxs.any (fun q => q.2.live && (s.leaves q.1).any (fun l =>
    bitsOf l.pte 3 2 == 1 && decide (l.range.1 < base + n ∧ base < l.range.1 + l.range.2)
      && (q.1 != ctx || (l.va != va && bitAt l.pte 11 != bitAt p 11))))

/-- MAP (R60; 04 R66, R74). It writes the entry and drops the old translation, and then waits until what was translated through the old leaf is complete. A path that lacks a table for which the stack has no frame is refused (log 12), and so is a removal in whose range an open window holds an address (log 23). -/
def execMapPage (s : State) : Out :=
  privileged 0x17 (fun a s =>
    let ctx := a 0
    let va := a 1
    let p := a 2
    let r := s.ctx ctx
    let sz := leafBytes (bitsOf p 8 7)
    let met := s.meets ctx va sz
    let v := bitAt p 0
    let write (s : State) : Option State := if v then s.addLeaf ctx { va := va, size := bitsOf p 8 7, pte := p } else some s
    match (s.vi 0).taken with
    | some (_, some m) => if s.marked m then .wait (some m) s else .done stOk s
    | _ =>
      if !r.live ∨ 4096 ≤ ctx ∨ !pteLegal va p ∨ met.any (·.size != bitsOf p 8 7) ∨ s.windowHolds ctx va sz then badArg s
      else if v ∧ bitsOf p 3 2 = 1 ∧ (!s.framesOf r.vi (bitsOf p 43 12 * 4096) sz ∨ s.aliases ctx va p) then badArg s
      else
        match met with
        | [] => ((write s).map (.done stOk)).getD (badArg s)
        | l :: _ =>
          let failed := if bitsOf l.pte 3 2 = 1 then s.failWindows ctx l.range.1 l.range.2 else s
          match write (failed.dropLeaf ctx l) with
          | none => badArg s
          | some t =>
            let t := ((t.dropCached ctx va).retire s.tick (· == ctx) va sz).retireLeaf s.tick ctx l
            if t.marked s.tick then .wait (some s.tick) t else .done stOk t) s

end Sys2Proof.Machine
end

