-- ==== Sys2Proof/Machine/Registers.lean ====
section
/-! DEFINITION. The host's register accesses, event counters, attestation, energy reports and the service register space (00 R5, R6; 01 R23; 02 R24; 03 R39 to R44, R47, R56, R57; 06 R140; 13 R282). -/

namespace Sys2Proof.Machine

/-! ### Event counters from the host (R43) -/

/-- An operation of the host on the counter with a local index; one beyond the grant has no effect but VISTAT[0]. A device that is not ready accepts none (02 R32). -/
def onCounter (v i : Nat) (f : Nat → State → State) (s : State) : Out :=
  if s.boot ≠ 1 then .next s
  else if i < (s.vi v).evcount then .next (f ((s.vi v).evbase + i) s)
  else .next (s.updVi v (fun e => { e with vistat := e.vistat ||| 1 }))

/-- Applies f to a counter's block. -/
def State.updBlk (s : State) (n : Nat) (f : CntBlk → CntBlk) : State := { s with blks := s.blks.upd {} n f }

/-- HOST_ADD (R43, R44), a release at system scope (08 R178). -/
def execHostAdd (vi idx x : Nat) (s : State) : Out := onCounter vi idx (fun n s => s.evFar n x) s

/-- WAIT (R43): fires at once if the counter is there already. -/
def execHostWait (vi idx x : Nat) (s : State) : Out :=
  onCounter vi idx (fun n s => (s.updBlk n (fun b => { b with waitArmed := true, waitThr := x % 2 ^ 64 })).fireWait n) s

/-- TRIGT (R43): an armed trigger acts as armed again. -/
def execTrigt (vi idx x : Nat) (s : State) : Out :=
  onCounter vi idx (fun n s => (s.updBlk n (fun b => { b with trigt := x % 2 ^ 64 })).evFire n 4097) s

/-- What TRIGACT keeps of a write, bit 12 apart. -/
def trigFields (x : Nat) : Nat := x % 2 ^ 12 + bitsOf x 63 32 * 2 ^ 32

/-- ARM (R43): a target beyond EVCOUNT is refused. -/
def execArm (vi idx x : Nat) (s : State) : Out :=
  onCounter vi idx (fun n s =>
    if (s.vi vi).evcount ≤ x % 2 ^ 12 then s.updVi vi (fun e => { e with vistat := e.vistat ||| 1 })
    else (s.updBlk n (fun b => { b with trigact := trigFields x, trigArmed := true })).evFire n 4097) s

/-- DISARM (R43). -/
def execDisarm (vi idx x : Nat) (s : State) : Out :=
  onCounter vi idx (fun n s => s.updBlk n (fun b => { b with trigact := trigFields x, trigArmed := false })) s

/-! ### PUBCTL (R40, R42, R47) -/

/-- A START or RESETRING, refused below 4 counters. A RESETRING discards the entry that Porter has read and not yet carried out with the others (R47). -/
def State.pubctl (s : State) (v : Nat) (reset : Bool) : State :=
  let w := s.evLocalVal v 0
  (if reset then s.dropReqs porterCore v else s).updVi v (fun e =>
    if e.evcount < 4 then { e with cfgerr := true }
    else if reset then { e with run := true, overrun := false, pubrd := w, cfgerr := false, taken := none }
    else { e with run := true, cfgerr := false })

/-- PUBCTL_START (R47). -/
def execPubctlStart (s : State) : Out := .next (if s.boot = 1 then s.pubctl s.unit false else s)
/-- PUBCTL_RESETRING (R47). -/
def execPubctlResetring (s : State) : Out := .next (if s.boot = 1 then s.pubctl s.unit true else s)

/-! ### Attestation (R56; 02 R33) -/

/-- Bytes 0 to 191 of a report, which are signed. -/
def State.reportHead (s : State) (v n : Nat) : List Byte :=
  toBytes 8 1 ++ ((s.vi v).attnonce.part 0 n ++ List.replicate (64 - n) 0) ++ toBytes 1 n ++ toBytes 1 s.keySlot
    ++ toBytes 2 s.actcores ++ toBytes 24 s.coremap ++ toBytes 4 s.fwStage1 ++ toBytes 4 s.fwKern ++ toBytes 1 v ++ toBytes 3 0
    ++ toBytes 64 s.measure ++ toBytes 8 s.serial ++ toBytes 8 0

/-- The report, 384 bytes, signed under the identity key with a secret number of this report alone (log 9). -/
def State.report (s : State) (v n : Nat) : List Byte :=
  let h := s.reportHead v n
  let sig := ecdsaSign s.idSecret (Config.attNonce s.tick % (n521 - 1) + 1) h
  h ++ toBytes 66 sig.1 ++ toBytes 66 sig.2 ++ toBytes 60 0

/-- A write of a length to ATTCMD. -/
def State.attest (s : State) (v n : Nat) : State :=
  let n := n % 2 ^ 7
  if 16 ≤ n ∧ n ≤ 64 then (s.hostWrite (s.vi v).attaddr (s.report v n)).evLocal v 3 1 else s.evLocal v 1 1

/-- ATTESTATION (R56). -/
def execAttestation (s : State) : Out := .next (if s.boot = 1 then s.attest s.unit s.arg else s)

/-! ### Energy reports (R57; 02 R38) -/

/-- The 32 bytes of a record (02 R38). -/
def EnergyRec.bits (r : EnergyRec) : Nat :=
  r.ctx % 2 ^ 12 + r.cluster % 2 ^ 5 * 2 ^ 31 + r.kind * 2 ^ 36 + r.shared.toNat * 2 ^ 39 + r.nres % 2 ^ 5 * 2 ^ 40
    + r.tstart % 2 ^ 64 * 2 ^ 64 + r.tend % 2 ^ 64 * 2 ^ 128 + r.microj % 2 ^ 64 * 2 ^ 192

/-- Whether a record can leave its slice: its queue has room, or is disabled, which drops it. -/
def State.recordGoes (s : State) (r : EnergyRec) : Bool :=
  let e := s.vi r.vi
  e.erqdepth == 0 || (decide (2 < e.evcount) && decide ((s.evLocalVal r.vi 2 + 2 ^ 64 - e.erqrd) % 2 ^ 64 < e.erqdepth))

/-- Drops a record (R57). -/
def State.recordLost (s : State) (r : EnergyRec) : State :=
  s.updVi r.vi (fun e => { e with erqlost := min (e.erqlost + 1) (2 ^ 32 - 1) })

/-- ENERGY_RECORD_WRITE (R57): the oldest record of the slice that can go, or the drop of the oldest beyond 4 096. -/
def execEnergyRecordWrite (s : State) : Out :=
  let sl := s.unit
  let rs := (s.slice sl).erecs
  if s.boot ≠ 1 then .next s
  else
    match rs.findIdx? s.recordGoes with
    | some i =>
      let r := rs.getD i {}
      let e := s.vi r.vi
      let s := s.updSlice sl (fun x => { x with erecs := x.erecs.eraseIdx i })
      if e.erqdepth = 0 then .next (s.recordLost r)
      else .next ((s.hostWrite (e.erqbase + 32 * (s.evLocalVal r.vi 2 % e.erqdepth)) (toBytes 32 r.bits)).evLocal r.vi 2 1)
    | none =>
      if 4096 < rs.length then .next ((s.updSlice sl (fun x => { x with erecs := x.erecs.tail })).recordLost (rs.headD {})) else .next s

/-! ### BAR0 (R39 to R41) -/

/-- A legal ring depth (R40). -/
def depthOk (d : Nat) : Bool := (List.range' 4 13).any (fun k => d == 2 ^ k)

/-- A configuration write: refused under R40, or accepted. -/
def Vi.config (e : Vi) (ok : Bool) (f : Vi → Vi) : Vi := if ok then { f e with cfgerr := false } else { e with cfgerr := true }

/-- An aligned 8-byte write of the host to a register of the block (R40); a register that is RO or reserved ignores it (00 R5, R6). -/
def State.bar0Write (s : State) (v off x : Nat) : State :=
  let upd (f : Vi → Vi) : State := s.updVi v f
  match off with
  | 0x050 => upd (fun e => e.config (!e.run) (fun e => { e with pubbase := x / 64 * 64 }))
  | 0x058 => upd (fun e => e.config (!e.run && depthOk (x % 2 ^ 17)) (fun e => { e with pubdepth := x % 2 ^ 17 }))
  | 0x060 => upd (fun e => e.config (!e.run) (fun e => { e with statbase := x / 16 * 16 }))
  | 0x078 => if bitAt x 1 then s.pubctl v true else if bitAt x 0 then s.pubctl v false else upd (fun e => e.config true id)
  | 0x0C0 => upd (fun e => { e with attaddr := x / 128 * 128 })
  | 0x0C8 => s.attest v x
  | 0x0D0 => upd (fun e => e.config true (fun e => { e with erqbase := x / 32 * 32 }))
  | 0x0D8 => upd (fun e => e.config (x % 2 ^ 17 == 0 || depthOk (x % 2 ^ 17)) (fun e => { e with erqdepth := x % 2 ^ 17 }))
  | 0x0E0 => upd (fun e => { e with erqrd := x })
  | 0x0E8 => upd (fun e => { e with erqlost := e.erqlost &&& (2 ^ 64 - 1 - x) })
  | 0x0F0 => upd (fun e => { e with vistat := e.vistat &&& (2 ^ 64 - 1 - x) })
  | 0x0F8 => upd (fun e => { e with evmirbase := x / 8 * 8 })
  | 0x188 => upd (fun e => { e with evvec := x % 2 ^ 7 })
  | _ => if 0x080 ≤ off ∧ off < 0x0C0 then upd (fun e => { e with attnonce := e.attnonce.writeBytes (off - 0x080) (toBytes 8 x) }) else s

/-- IDKEYX and IDKEYY, each of 66 bytes (00 R4). -/
def State.idKey (s : State) : List Byte := toBytes 66 (publicKey s.idSecret).1 ++ toBytes 66 (publicKey s.idSecret).2

/-- The identity record (R41). -/
def State.ident (s : State) : Nat :=
  (if s.boot = 1 then 1 else 0) + (if s.boot = 1 then 0 else s.bootCause % 2 ^ 8 * 2 ^ 8) + ofBytes ((sha512 s.idKey).take 8) * 2 ^ 64
    + s.keySlot % 4 * 2 ^ 130 + s.devid % 2 ^ 12 * 2 ^ 132 + s.actcores * 2 ^ 144 + s.fwStage1 % 2 ^ 32 * 2 ^ 192
    + s.fwKern % 2 ^ 32 * 2 ^ 224 + s.serial % 2 ^ 64 * 2 ^ 256 + s.coremap % 2 ^ 192 * 2 ^ 320

/-- What an 8-byte read of the host returns from the block (R40); one that is not aligned reads as zero (R39). -/
def State.bar0Read (s : State) (v off : Nat) : Nat :=
  let e := s.vi v
  if off % 8 ≠ 0 then 0
  else
  match off with
  | 0x040 => v
  | 0x048 => e.evbase + e.evcount * 2 ^ 16
  | 0x050 => e.pubbase
  | 0x058 => e.pubdepth
  | 0x060 => e.statbase
  | 0x068 => e.pubrd
  | 0x070 => e.run.toNat + 2 * e.overrun.toNat + 4 * e.cfgerr.toNat
  | 0x0C0 => e.attaddr
  | 0x0D0 => e.erqbase
  | 0x0D8 => e.erqdepth
  | 0x0E0 => e.erqrd
  | 0x0E8 => e.erqlost
  | 0x0F0 => e.vistat
  | 0x0F8 => e.evmirbase
  | 0x188 => e.evvec
  | _ =>
    if off < 0x40 then bitsOf s.ident (8 * off + 63) (8 * off)
    else if 0x080 ≤ off ∧ off < 0x0C0 then e.attnonce.num (off - 0x080) 8
    else if 0x100 ≤ off ∧ off < 0x188 then ofBytes ((s.idKey.drop (off - 0x100)).take 8)
    else 0

/-- What an aligned 8-byte read of the host returns from the counter window (R43). -/
def State.bar2Read (s : State) (v off : Nat) : Nat :=
  let i := off / 32
  let n := (s.vi v).evbase + i
  let b := s.blks.get {} n
  if (s.vi v).evcount ≤ i then 0
  else
    match off % 32 with
    | 0x00 => (s.counter n).toNat
    | 0x08 => if b.waitArmed then b.waitThr else 0
    | 0x10 => b.trigt
    | 0x18 => b.trigact + b.trigArmed.toNat * 2 ^ 12
    | _ => 0

/-! ### The service register space (01 R23; 02 R24; 06 R140; 13 R282) -/

/-- Clears the bits that a W1C write names (00 R5). -/
def w1c (old x : Nat) : Nat := old &&& (2 ^ 64 - 1 - x)

/-- A service core's 8-byte write to the service register space. CFREQ, CCAP, REPLAYTGT, EINJ and ATOMMODE act as their own rows do. -/
def State.svcWrite (s : State) (off x : Nat) : State :=
  let n (base : Nat) : Nat := (off - base) / 0x40
  let r := off % 0x40
  if 0x10000 ≤ off ∧ off < 0x10400 then
    let upd (f : Port → Port) : State := { s with ports := s.ports.upd {} (n 0x10000) f }
    match r with
    | 0x10 => upd (fun p => { p with crcerr := w1c p.crcerr x })
    | 0x18 => upd (fun p => { p with replay := w1c p.replay x })
    | 0x20 => upd (fun p => { p with feccorr := w1c p.feccorr x })
    | 0x28 => upd (fun p => { p with perr := w1c p.perr x })
    | 0x30 => upd (fun p => { p with downcnt := w1c p.downcnt x })
    | _ => s
  else if 0x20000 ≤ off ∧ off < 0x20600 then
    match r with
    | 0x00 => s.updCluster (n 0x20000) (·.setCode false x)
    | 0x08 => s.updCluster (n 0x20000) (·.setCode true x)
    | 0x18 => s.updCluster (n 0x20000) (·.setReplay x)
    | 0x20 => s.updCluster (n 0x20000) (fun e => { e with replaycnt := w1c e.replaycnt x })
    | _ => s
  else if 0x30000 ≤ off ∧ off < 0x33000 then
    match r with
    | 0x00 => s.updPhys (n 0x30000) (fun p => { p with ecorr := w1c p.ecorr x })
    | 0x08 => s.updPhys (n 0x30000) (fun p => { p with eunc := w1c p.eunc x })
    | 0x18 => s.setEinj (n 0x30000) x
    | _ => s
  else if 0x40000 ≤ off ∧ off < 0x40300 ∧ r = 0 then s.setAtommode (n 0x40000) x
  else s

/-- The kernel's grant to interface 0 once it runs (log 13): EVGRANT as R40 lays it out, and with bit 63 every active core. -/
def State.kernelGrant (s : State) (v x : Nat) : State :=
  let base := x % 2 ^ 12
  s.updVi v (fun e => { e with
    evbase := base, evcount := min (bitsOf x 28 16) (4096 - base), grant := if bitAt x 63 then s.coremap % 2 ^ 192 else 0 })

/-- What an 8-byte read returns from the service register space, which BAR4 shows to the host (R39). -/
def State.svcRead (s : State) (off : Nat) : Nat :=
  let n (base : Nat) : Nat := (off - base) / 0x40
  let r := off % 0x40
  if 0x10000 ≤ off ∧ off < 0x10400 then
    let p := s.ports.get {} (n 0x10000)
    match r with
    | 0x00 => p.state + p.retrains % 8 * 4
    | 0x08 => p.width
    | 0x10 => p.crcerr
    | 0x18 => p.replay
    | 0x20 => p.feccorr
    | 0x28 => p.perr
    | 0x30 => p.downcnt
    | _ => 0
  else if 0x20000 ≤ off ∧ off < 0x20600 then
    let c := n 0x20000
    let e := s.cluster c
    match r with
    | 0x00 => e.cfreq
    | 0x08 => e.ccap
    | 0x10 => e.cur
    | 0x18 => e.replaytgt
    | 0x20 => e.replaycnt
    | 0x28 => s.energyAt c s.tick % 2 ^ 64
    | 0x30 => e.eballast % 2 ^ 64
    | 0x38 => s.cstat c
    | _ => 0
  else if 0x30000 ≤ off ∧ off < 0x33000 then
    let p := s.phys (n 0x30000)
    match r with
    | 0x00 => p.ecorr
    | 0x08 => p.eunc
    | 0x10 => p.elast
    | 0x18 => p.k.einj
    | _ => 0
  else if 0x40000 ≤ off ∧ off < 0x40300 then
    let e := s.slice (n 0x40000)
    match r with
    | 0x00 => e.atommode
    | 0x08 => e.heldAdds.length
    | _ => 0
  else 0

/-- REG_WRITE (00 R5, R6; 03 R39, R40). space 0: an 8-byte write of the host to BAR0. 1: an access of the host to BAR0 or BAR2 that is not of 8 bytes. 2: an 8-byte read of the host of BAR2, which sets VISTAT[0] beyond the grant. One of 0 to 2 that is not an aligned access of 8 bytes sets VISTAT[1] and does nothing else. 3: a write of the host to BAR4, which is ignored. 4: a service core's write to the service register space. 5: the kernel's grant to an interface after bring-up (log 13). 6: a write of the host to 8 bytes of its own memory, at an aligned address, which is a release (log 5). A device that is not ready answers none (02 R32). -/
def execRegWrite (space vi off v : Nat) (s : State) : Out :=
  if s.boot ≠ 1 then .next s
  else if space = 1 ∨ (space ∈ [0, 2] ∧ off % 8 ≠ 0) then .next (s.updVi vi (fun e => { e with vistat := e.vistat ||| 2 }))
  else
    match space with
    | 0 => .next (s.bar0Write vi off v)
    | 2 => .next (if (s.vi vi).evcount ≤ off / 32 then s.updVi vi (fun e => { e with vistat := e.vistat ||| 1 }) else s)
    | 4 => .next (s.svcWrite off v)
    | 5 => .next (if off = 0x048 then s.kernelGrant vi v else s)
    | 6 => .next (if off % 8 = 0 ∧ off < 2 ^ 64 then s.farWrite hostWords off true (toBytes 8 v) else s)
    | _ => .next s

end Sys2Proof.Machine
end

