-- ==== Sys2Proof/Machine/RowOps.lean ====
section
/-! DEFINITION. The row engine's words (14 R303 to R323). -/

namespace Sys2Proof.Machine

/-- Every format is accepted. -/
def anyFmt (f : Nat) : Bool := fmtOk f
/-- Only code 0 stands where the word has no format. -/
def zeroFmt (f : Nat) : Bool := f == 0
/-- Only binary32. -/
def onlyF32 (f : Nat) : Bool := f == F32

/-! ### Control words -/

/-- ROW_NOTIFY (R303; 06 R112). -/
def execRowNotify (f : RowF) (s : State) : Out :=
  runRow { op := 0x01, fmt := zeroFmt, d := .zero, a := .zero, b := .zero, psel := 0, maxRep := 0, dRows := fun _ => 0, aRows := fun _ => 0 } f (fun _ s => .ok (s, 0, [])) s

/-- VNOP (R303). -/
def execVnop (f : RowF) (s : State) : Out :=
  runRow { op := 0x02, fmt := zeroFmt, d := .zero, a := .zero, b := .zero, psel := 0, maxRep := 0, dRows := fun _ => 0, aRows := fun _ => 0 } f (fun _ s => .ok (s, 0, [])) s

/-! ### Arithmetic (R305, R306) -/

/-- The integer that bits hold in an integer format (07 R148). -/
def intOf (f x : Nat) : Int := if isIFmt f then Sys2Proof.sext x (8 * fmtBytes f) else (x : Int)

/-- An operation on an element: exact, then one rounding; integers wrap or clamp. The exact value comes with its flags. -/
def arithElem (fl : Val → Val → Val → FRes) (it : Int → Int → Int) (e : RowEnv) (a b d : Nat) : Nat × Nat :=
  let f := e.f.fmt
  if isIntFmt f then wrapInt f e.f.sat (it (intOf f a) (intOf f b))
  else
    let va := valueOf f a
    let vb := valueOf f b
    let vd := valueOf f d
    let (v, g) := fl va vb vd
    let (x, h) := roundFloat f e.f.rnd e.f.sat v
    (x, g ||| h ||| va.snan ||| vb.snan ||| vd.snan)

/-- An arithmetic word. -/
def rowArith (sp : RowSpec) (useD : Bool) (fl : Nat → Val → Val → Val → FRes) (it : Int → Int → Int) (f : RowF) (s : State) : Out :=
  runRow { sp with useD := useD } f (rowMap useD (fun e _ a b d => arithElem (fl e.f.rnd) it e a b d)) s

/-- VADD. -/
def execVadd (f : RowF) (s : State) : Out :=
  rowArith { op := 0x10, fmt := anyFmt, d := .dst, a := .src, b := .src, rnd := 1, sat := true } false
    (fun m a b _ => addVal m a b) (· + ·) f s
/-- VSUB. -/
def execVsub (f : RowF) (s : State) : Out :=
  rowArith { op := 0x11, fmt := anyFmt, d := .dst, a := .src, b := .src, rnd := 1, sat := true } false
    (fun m a b _ => addVal m a b.neg) (· - ·) f s
/-- VMUL. -/
def execVmul (f : RowF) (s : State) : Out :=
  rowArith { op := 0x12, fmt := anyFmt, d := .dst, a := .src, b := .src, rnd := 1, sat := true } false
    (fun _ a b _ => mulVal a b) (· * ·) f s
/-- VFMA. -/
def execVfma (f : RowF) (s : State) : Out :=
  rowArith { op := 0x13, fmt := isFloatFmt, d := .dst, a := .src, b := .src, rnd := 2, sat := true } true
    (fun m a b d => fmaVal m false a b d) (fun a _ => a) f s
/-- VFMS. -/
def execVfms (f : RowF) (s : State) : Out :=
  rowArith { op := 0x14, fmt := isFloatFmt, d := .dst, a := .src, b := .src, rnd := 2, sat := true } true
    (fun m a b d => fmaVal m true a b d) (fun a _ => a) f s
/-- VDIV. -/
def execVdiv (f : RowF) (s : State) : Out :=
  rowArith { op := 0x15, fmt := isFloatFmt, d := .dst, a := .src, b := .src, rnd := 2, sat := true } false
    (fun _ a b _ => divVal a b) (fun a _ => a) f s
/-- VSQRT. -/
def execVsqrt (f : RowF) (s : State) : Out :=
  rowArith { op := 0x16, fmt := isFloatFmt, d := .dst, a := .src, b := .none, rnd := 2, sat := true } false
    (fun _ a _ _ => sqrtVal a) (fun a _ => a) f s

/-- vmin and vmax choose an operand's bits (R305, R306; 13 R269). -/
def minMaxElem (max : Bool) (f a b : Nat) : Nat × Nat :=
  if isIntFmt f then (if decide (intOf f a ≤ intOf f b) != max then a else b, 0)
  else
    let va := valueOf f a
    let vb := valueOf f b
    let fl := va.snan ||| vb.snan
    if va.isNan && vb.isNan then (nanBits f, fl)
    else if va.isNan then (b, fl)
    else if vb.isNan then (a, fl)
    else (if minMax max va vb = va then a else b, fl)

/-- VMIN. -/
def execVmin (f : RowF) (s : State) : Out :=
  runRow { op := 0x17, fmt := anyFmt, d := .dst, a := .src, b := .src } f
    (rowMap false (fun e _ a b _ => minMaxElem false e.f.fmt a b)) s
/-- VMAX. -/
def execVmax (f : RowF) (s : State) : Out :=
  runRow { op := 0x18, fmt := anyFmt, d := .dst, a := .src, b := .src } f
    (rowMap false (fun e _ a b _ => minMaxElem true e.f.fmt a b)) s
/-- VABS: on floats the sign alone changes. -/
def execVabs (f : RowF) (s : State) : Out :=
  rowArith { op := 0x19, fmt := anyFmt, d := .dst, a := .src, b := .none, sat := true } false
    (fun _ a _ _ => (a.abs, 0)) (fun a _ => |a|) f s
/-- VNEG. -/
def execVneg (f : RowF) (s : State) : Out :=
  rowArith { op := 0x1A, fmt := anyFmt, d := .dst, a := .src, b := .none, sat := true } false
    (fun _ a _ _ => (a.neg, 0)) (fun a _ => -a) f s

/-! ### Bits, moves and selection (R307, R308) -/

/-- A word on bit patterns without flags. -/
def rowBits (sp : RowSpec) (g : RowF → Nat → Nat → Nat) (f : RowF) (s : State) : Out :=
  runRow sp f (rowMap false (fun e _ a b _ => (g e.f a b, 0))) s

/-- VAND. -/
def execVand (f : RowF) (s : State) : Out :=
  rowBits { op := 0x1B, fmt := isIntFmt, d := .dst, a := .src, b := .src } (fun _ => Nat.land) f s
/-- VOR. -/
def execVor (f : RowF) (s : State) : Out :=
  rowBits { op := 0x1C, fmt := isIntFmt, d := .dst, a := .src, b := .src } (fun _ => Nat.lor) f s
/-- VXOR. -/
def execVxor (f : RowF) (s : State) : Out :=
  rowBits { op := 0x1D, fmt := isIntFmt, d := .dst, a := .src, b := .src } (fun _ => Nat.xor) f s
/-- VSHL: the shift is B[j] modulo the width. -/
def execVshl (f : RowF) (s : State) : Out :=
  rowBits { op := 0x1E, fmt := isIntFmt, d := .dst, a := .src, b := .src }
    (fun f a b => a * 2 ^ (b % (8 * f.w)) % 2 ^ (8 * f.w)) f s
/-- VSHR: arithmetic for the i formats. -/
def execVshr (f : RowF) (s : State) : Out :=
  rowBits { op := 0x1F, fmt := isIntFmt, d := .dst, a := .src, b := .src }
    (fun f a b => wrapNat (intOf f.fmt a / 2 ^ (b % (8 * f.w))) (8 * f.w)) f s
/-- VMOV. -/
def execVmov (f : RowF) (s : State) : Out :=
  rowBits { op := 0x20, fmt := anyFmt, d := .dst, a := .src, b := .none } (fun _ a _ => a) f s

/-- VSEL: every element is written, from A where its bit is 1 and from B otherwise. -/
def execVsel (f : RowF) (s : State) : Out :=
  runRow { op := 0x21, fmt := anyFmt, d := .dst, a := .src, b := .src, psel := 2 } f (fun e s =>
    let w := f.w
    reps (f.rep + 1) (fun i s => do
      let k := s.core e.c
      let as ← srcElems k f.aOp w i e.bcast
      let bs ← srcElems k f.bOp w i e.bcast
      let es := (as.zip bs).zipIdx.map (fun p => if bitAt e.p (w * p.2) then p.1.1 else p.1.2)
      .ok (← s.putElems e.c f.dOp w i (fun _ => true) es, 0)) s) s

/-! ### Compares, predicates and votes (R309, R310) -/

/-- A compare of two elements: the relation on orderings, whether it holds on a NaN, and whether a quiet NaN is invalid. -/
def cmpElem (rel : Ordering → Bool) (onNan quiet : Bool) (f a b : Nat) : Bool × Nat :=
  if isIntFmt f then (rel (compare (intOf f a) (intOf f b)), 0)
  else
    let va := valueOf f a
    let vb := valueOf f b
    match cmpVal va vb with
    | some o => (rel o, 0)
    | none => (onNan, if quiet then fNV else va.snan ||| vb.snan)

/-- Sets the group of element j of width w in a predicate's bits. -/
def setGroup (p w j : Nat) (v : Bool) : Nat :=
  let old := p / 2 ^ (w * j) % 2 ^ w * 2 ^ (w * j)
  p - old + (if v then (2 ^ w - 1) * 2 ^ (w * j) else 0)

/-- A compare word: a row of all ones or zeros, or the groups of a predicate, for which REP is 0. -/
def rowCmp (op : Nat) (rel : Ordering → Bool) (onNan quiet : Bool) (f : RowF) (s : State) : Out :=
  let sp : RowSpec := { op := op, fmt := anyFmt, d := .dstVp, a := .src, b := .src, maxRep := if f.dOp.isPred then 0 else 63 }
  runRow sp f (fun e s =>
    match f.dOp with
    | .pred q => do
      let k := s.core e.c
      let as ← srcElems k f.aOp f.w 0 e.bcast
      let bs ← srcElems k f.bOp f.w 0 e.bcast
      let rs := (as.zip bs).zipIdx.map (fun p => (p.2, cmpElem rel onNan quiet f.fmt p.1.1 p.1.2))
      let rs := rs.filter (fun r => e.act f.w r.1)
      let p := rs.foldl (fun p r => setGroup p f.w r.1 r.2.1) (k.predBits q)
      let mask := rs.foldl (fun m r => setGroup m f.w r.1 true) 0
      .ok (← s.setPred e.c q p mask, rs.foldl (fun fl r => fl ||| r.2.2) 0, [])
    | _ => rowMap false (fun e _ a b _ =>
        let (v, fl) := cmpElem rel onNan quiet e.f.fmt a b
        (if v then 2 ^ (8 * e.f.w) - 1 else 0, fl)) e s) s

/-- VCMP_EQ. -/
def execVcmpEq (f : RowF) (s : State) : Out := rowCmp 0x28 (· == .eq) false false f s
/-- VCMP_NE. -/
def execVcmpNe (f : RowF) (s : State) : Out := rowCmp 0x29 (· != .eq) true false f s
/-- VCMP_LT. -/
def execVcmpLt (f : RowF) (s : State) : Out := rowCmp 0x2A (· == .lt) false true f s
/-- VCMP_LE. -/
def execVcmpLe (f : RowF) (s : State) : Out := rowCmp 0x2B (· != .gt) false true f s
/-- VCMP_GT. -/
def execVcmpGt (f : RowF) (s : State) : Out := rowCmp 0x2C (· == .gt) false true f s
/-- VCMP_UN. -/
def execVcmpUn (f : RowF) (s : State) : Out := rowCmp 0x2D (fun _ => false) true false f s

/-- The bits of a predicate operand, with the state after its read. -/
def predOf (s : State) (c : Nat) (o : Opnd) : Ex (Nat × State) :=
  match o with
  | .pred p => do .ok (← readPred (s.core c) p, s.notePred c p)
  | _ => .ok (0, s)

/-- A word on the 1 024 bits of predicates. -/
def rowPred (op : Nat) (two : Bool) (g : Nat → Nat → Nat) (f : RowF) (s : State) : Out :=
  runRow { op := op, fmt := zeroFmt, d := .vp, a := .vp, b := if two then .vp else .none, psel := 0, maxRep := 0 } f (fun e s => do
    let (a, s) ← predOf s e.c f.aOp
    let (b, s) ← predOf s e.c f.bOp
    match f.dOp with
    | .pred q => .ok (← s.setPred e.c q (g a b) (2 ^ 1024 - 1), 0, [])
    | _ => .ok (s, 0, [])) s

/-- VPAND. -/
def execVpand (f : RowF) (s : State) : Out := rowPred 0x2E true Nat.land f s
/-- VPOR. -/
def execVpor (f : RowF) (s : State) : Out := rowPred 0x2F true Nat.lor f s
/-- VPNOT. -/
def execVpnot (f : RowF) (s : State) : Out := rowPred 0x30 false (fun a _ => 2 ^ 1024 - 1 - a) f s

/-- A vote over the groups of predicate A that take part, pushed to q1. -/
def rowVote (op : Nat) (g : List Bool → Bool) (f : RowF) (s : State) : Out :=
  runRow { op := op, fmt := anyFmt, d := .none, a := .vp, b := .none, pushes := 1, maxRep := 0 } f (fun e s => do
    let (a, s) ← predOf s e.c f.aOp
    let bits := ((List.range f.n).filter (e.act f.w)).map (fun j => bitAt a (f.w * j))
    .ok (s, 0, [w64 (g bits).toNat])) s

/-- VVOTE_ANY. -/
def execVvoteAny (f : RowF) (s : State) : Out := rowVote 0x31 (fun l => l.any id) f s
/-- VVOTE_ALL. -/
def execVvoteAll (f : RowF) (s : State) : Out := rowVote 0x32 (fun l => l.all id) f s

/-! ### Conversions and quantised tiles (R311 to R313) -/

/-- The source format of a conversion (12 R249). -/
def RowEnv.sf (e : RowEnv) : Nat := e.f.b % 64

/-- How a conversion lays repetitions out: elements a repetition, repetitions a source row and a destination row. -/
def cvtShape (ws wd : Nat) : Nat × Nat × Nat := (1024 / max ws wd, if ws < wd then wd / ws else 1, if wd < ws then ws / wd else 1)

/-- Rows that n repetitions use at r repetitions a row. -/
def rowsAt (r n : Nat) : Nat := (n + r - 1) / r

/-- Repetition i of the loop of R311: g converts an element's bits. It answers what each active element held and became. -/
def cvtStep (e : RowEnv) (g : Nat → Nat × Nat) (i : Nat) (s : State) : Ex (State × List (Nat × Nat × Nat)) := do
  let f := e.f
  let ws := fmtBytes e.sf
  let wd := f.w
  let (n, ra, rd) := cvtShape ws wd
  let src ← srcElems (s.core e.c) f.aOp ws (i / ra) e.bcast
  let part := (src.drop (i % ra * n)).take n
  let d0 := i % rd * n
  let act (j : Nat) : Bool := decide (d0 ≤ j ∧ j < d0 + n) && e.act wd j
  let rs := part.zipIdx.map (fun p => (p.1, if act (d0 + p.2) then g p.1 else (0, 0)))
  let es := List.replicate d0 0 ++ rs.map (·.2.1) ++ List.replicate (1024 / wd - d0 - n) 0
  .ok (← s.putElems e.c f.dOp wd (i / rd) act es, (rs.zipIdx.filter (fun p => act (d0 + p.2))).map (·.1))

/-- The conversion loop of R311. -/
def cvtLoop (e : RowEnv) (g : Nat → Nat × Nat) (s : State) : Ex (State × Nat × List W64) :=
  reps (e.f.rep + 1) (fun i s => do
    let (t, rs) ← cvtStep e g i s
    .ok (t, rs.foldl (fun fl r => fl ||| r.2.2) 0)) s

/-- The rows of A and D that a conversion uses. -/
def cvtSpec (f : RowF) (sp : RowSpec) : RowSpec :=
  let (_, ra, rd) := cvtShape (fmtBytes (f.b % 64)) f.w
  { sp with dRows := rowsAt rd, aRows := rowsAt ra }

/-- VCVT. -/
def execVcvt (f : RowF) (s : State) : Out :=
  runRow (cvtSpec f { op := 0x38, fmt := anyFmt, d := .dst, a := .src, b := .fmt, rnd := 2, sat := true }) f
    (fun e s => cvtLoop e (convert e.sf f.fmt f.rnd f.sat) s) s

/-- The formats that vqnt writes and vqchk reads. -/
def tileFmt (f : Nat) : Bool := isB8 f || f == 0 || f == 4 || f == F16 || f == BF16
/-- The formats that vqnt reads and vqchk writes. -/
def wideFmt (f : Nat) : Bool := isIeee f

/-- floor(log2) of a format's largest finite value (R312). -/
def emaxOf (f : Nat) : Int :=
  if isIntFmt f then 8 * fmtBytes f - (if isIFmt f then 2 else 1)
  else
    match valueOf f (roundFloat f 1 true (.num false 1 2000)).1 with
    | .num _ m e => (bitLen m : Int) - 1 + e
    | _ => 0

/-- Whether a scratchpad descriptor steps by one row, with its first row. -/
def stride1 (o : Opnd) : Option Nat := match o with | .sp row 1 => some row | _ => none

/-- Whether a tile of the given rows with its trailer line lies inside the claim (R312, R313). -/
def tileOk (k : Core) (o : Opnd) (num den : Nat) : Bool :=
  match stride1 o with
  | some row => num % den == 0 && decide (1 ≤ num / den ∧ num / den ≤ 8) && decide (1024 * (row + num / den) + 128 ≤ k.spadLimit)
  | none => false

/-- The scale of vqnt for a largest magnitude. -/
def tileScale (d : Nat) (m : Val) : Int :=
  match m with
  | .num _ n e => if n = 0 then 0 else min 127 (max (-128) ((bitLen n : Int) - 1 + e - emaxOf d))
  | _ => 0

/-- The trailer of a tile as a number (07 R155). -/
def trailer (maxabs satcnt : Nat) (sc : Int) (fmt : Nat) (nanp infp : Bool) (crc : Nat) : Nat :=
  maxabs + satcnt * 2 ^ 32 + wrapNat sc 8 * 2 ^ 64 + fmt * 2 ^ 72 + nanp.toNat * 2 ^ 78 + infp.toNat * 2 ^ 79 + crc * 2 ^ 96

/-- Whether a conversion of x that gave bits with flags counts in SATCNT (07 R155). -/
def countsSat (d : Nat) (x : Val) (r : Nat × Nat) : Bool :=
  !x.isNan && (r.2 &&& fSAT != 0 || (isFloatFmt d && (valueOf d r.1).isNan))

/-- VQNT. -/
def execVqnt (f : RowF) (s : State) : Out :=
  let sf := f.b % 64
  let ws := fmtBytes sf
  let dn := (f.rep + 1) * f.w / ws
  let sp := cvtSpec f { op := 0x39, fmt := tileFmt, d := .sp, a := .src, b := .fmt, rnd := 2, sat := true, psel := 0
                        extra := fun k => wideFmt sf && decide (f.w ≤ ws) && tileOk k f.dOp ((f.rep + 1) * f.w) ws }
  runRow sp f (fun e s => do
    let k := s.core e.c
    let rows ← (List.range (f.rep + 1)).mapM (fun i => srcElems k f.aOp ws i e.bcast)
    let vals := rows.flatten.map (valueOf sf)
    let m := (vals.filter (fun v => !v.isNan)).foldl (fun m v => if cmpVal m v.abs = some .lt then v.abs else m) (.num false 0 0)
    let sc := tileScale f.fmt m
    let g (x : Nat) : Nat × Nat :=
      let v := valueOf sf x
      let (b, fl) := roundTo f.fmt f.rnd f.sat (v.shift (-sc))
      (b, fl ||| v.snan)
    let (s, res) : State × List (Nat × Nat × Nat) ← (List.range (f.rep + 1)).foldlM (fun (p : State × List (Nat × Nat × Nat)) i => do
      let (t, rs) ← cvtStep e g i p.1
      .ok (t, p.2 ++ rs)) (s, [])
    let row := (stride1 f.dOp).getD 0
    let data := (s.core e.c).spad.part (1024 * row) (1024 * dn)
    let outs := (elemsOf f.w (1024 * dn / f.w) data).map (valueOf f.fmt)
    let tr := trailer (roundFloat F32 2 false m).1 (res.filter (fun p => countsSat f.fmt (valueOf sf p.1) p.2)).length sc f.fmt
      (isFloatFmt f.fmt && outs.any Val.isNan) (outs.any Val.isInf) (crc32c data)
    let at_ := 1024 * (row + dn)
    s.logRoom e.c none [at_ / 128]
    .ok (s.updCore e.c (·.spadWrite at_ (toBytes 16 tr)), res.foldl (fun fl r => fl ||| r.2.2) 0, [])) s

/-- VQCHK. -/
def execVqchk (f : RowF) (s : State) : Out :=
  let sf := f.b % 64
  let ws := fmtBytes sf
  let sn := (f.rep + 1) * ws / f.w
  let sp := cvtSpec f { op := 0x3A, fmt := wideFmt, d := .dst, a := .sp, b := .fmt, rnd := 2, sat := true, psel := 0
                        extra := fun k => tileFmt sf && decide (ws ≤ f.w) && tileOk k f.aOp ((f.rep + 1) * ws) f.w }
  runRow sp f (fun e s => do
    let row := (stride1 f.aOp).getD 0
    let data ← spadRead (s.core e.c) (1024 * row) (1024 * sn)
    let (tb, s) ← s.spadGet e.c (1024 * (row + sn)) 16
    let tr := ofBytes tb
    need (bitsOf tr 127 96 == crc32c data && bitsOf tr 77 72 == sf) .trailerMismatch (1024 * row)
    let sc := Sys2Proof.sext (bitsOf tr 71 64) 8
    cvtLoop e (fun x =>
      let v := valueOf sf x
      let (b, fl) := roundTo f.fmt f.rnd f.sat (v.shift sc)
      (b, fl ||| v.snan)) s) s

/-! ### Transcendental functions (R314) -/

/-- A word of one function of A, correctly rounded. -/
def rowTrans (op : Nat) (fn : Func) (f : RowF) (s : State) : Out :=
  runRow { op := op, fmt := isFloatFmt, d := .dst, a := .src, b := .none, rnd := 2, sat := true } f
    (rowMap false (fun e _ a _ _ =>
      let (x, fl) := transc fn e.f.fmt e.f.rnd e.f.sat a (valueOf e.f.fmt a)
      (x, fl ||| (valueOf e.f.fmt a).snan))) s

/-- VEXP. -/
def execVexp (f : RowF) (s : State) : Out := rowTrans 0x40 .exp f s
/-- VLN. -/
def execVln (f : RowF) (s : State) : Out := rowTrans 0x41 .ln f s
/-- VTANH. -/
def execVtanh (f : RowF) (s : State) : Out := rowTrans 0x42 .tanh f s
/-- VSIGM. -/
def execVsigm (f : RowF) (s : State) : Out := rowTrans 0x43 .sigm f s
/-- VRSQRT. -/
def execVrsqrt (f : RowF) (s : State) : Out := rowTrans 0x44 .rsqrt f s
/-- VRCP. -/
def execVrcp (f : RowF) (s : State) : Out := rowTrans 0x45 .rcp f s
/-- VSIN. -/
def execVsin (f : RowF) (s : State) : Out := rowTrans 0x46 .sin f s
/-- VCOS. -/
def execVcos (f : RowF) (s : State) : Out := rowTrans 0x47 .cos f s

/-! ### Reductions (R315, R316) -/

/-- A reduction: g takes the active elements with their positions to a result of wd bytes and flags. Element i of D's first row receives repetition i's result, or q1 does. -/
def rowReduce (op : Nat) (two : Bool) (rnd : Nat) (sat : Bool) (wd : Nat)
    (g : RowF → List (Nat × Nat × Nat) → Nat × Nat) (f : RowF) (s : State) : Out :=
  let toQ := f.dOp == .none
  let sp : RowSpec := { op := op, fmt := anyFmt, d := .elem, a := .src, b := if two then .src else .none, rnd := rnd, sat := sat
                        pushes := if toQ then f.rep + 1 else 0, maxRep := if toQ then 15 else 1024 / wd - 1, dRows := fun _ => 1 }
  runRow sp f (fun e s => do
    let one (i : Nat) (s : State) : Ex (Nat × Nat) := do
      let k := s.core e.c
      let as ← srcElems k f.aOp f.w i e.bcast
      let bs ← if two then srcElems k f.bOp f.w i e.bcast else .ok as
      .ok (g f (((as.zip bs).zipIdx.filter (fun p => e.act f.w p.2)).map (fun p => (p.2, p.1.1, p.1.2))))
    if toQ then
      let rs ← (List.range (f.rep + 1)).mapM (fun i => one i s)
      .ok (s, rs.foldl (fun fl r => fl ||| r.2) 0, rs.map (fun r => w64 r.1))
    else
      reps (f.rep + 1) (fun i s => do
        let (v, fl) ← one i s
        .ok (← s.putElems e.c f.dOp wd 0 (fun j => j == i) (List.replicate (1024 / wd) v), fl)) s) s

/-- The flags of signalling operands. -/
def snanOf (f : Nat) (xs : List Nat) : Nat := if xs.any (fun x => (valueOf f x).snan != 0) then fNV else 0

/-- vrsum's result. -/
def sumElems (f : RowF) (l : List (Nat × Nat × Nat)) : Nat × Nat :=
  if isIntFmt f.fmt then wrapInt f.fmt f.sat (l.foldl (fun (t : Int) p => t + intOf f.fmt p.2.1) 0)
  else
    let (v, fl) := sumVals fNV (l.map (fun p => valueOf f.fmt p.2.1))
    let (b, g) := roundFloat f.fmt f.rnd f.sat v
    (b, fl ||| g)

/-- vdot's result (07 R159). -/
def dotElems (f : RowF) (l : List (Nat × Nat × Nat)) : Nat × Nat :=
  if isIntFmt f.fmt then wrapInt f.fmt f.sat (l.foldl (fun (t : Int) p => t + intOf f.fmt p.2.1 * intOf f.fmt p.2.2) 0)
  else
    let (v, fl) := sumVals fNV (l.map (fun p => (mulVal (valueOf f.fmt p.2.1) (valueOf f.fmt p.2.2)).1))
    let (b, g) := roundFloat f.fmt f.rnd f.sat v
    (b, fl ||| g)

/-- vrmax's and vrmin's result. -/
def extreme (max : Bool) (f : Nat) (l : List (Nat × Nat × Nat)) : Nat × Nat :=
  let xs := l.map (fun p => p.2.1)
  if isIntFmt f then
    let (lo, hi) := intRange f
    let best := xs.foldl (fun (m : Int) x => if max then Max.max m (intOf f x) else Min.min m (intOf f x)) (if max then lo else hi)
    (wrapNat best (8 * fmtBytes f), 0)
  else if xs.isEmpty then ((roundFloat f 0 false (.inf max)).1, 0)
  else if xs.any (fun x => (valueOf f x).isNan) then (nanBits f, snanOf f xs)
  else ((roundFloat f 0 false (xs.foldl (fun m x => minMax max m (valueOf f x)) (.inf max))).1, 0)

/-- vrargmax's result: the lowest index of the largest element that is not NaN; zeros are equal (log 17). -/
def argmaxElem (f : Nat) (l : List (Nat × Nat × Nat)) : Nat :=
  let c := l.filter (fun p => isIntFmt f || !(valueOf f p.2.1).isNan)
  let less (a b : Nat) : Bool :=
    if isIntFmt f then decide (intOf f a < intOf f b) else cmpVal (valueOf f a) (valueOf f b) == some .lt
  match c with
  | [] => 2 ^ 32 - 1
  | p :: r => (r.foldl (fun (b : Nat × Nat) q => if less b.2 q.2.1 then (q.1, q.2.1) else b) (p.1, p.2.1)).1

/-- VRSUM. -/
def execVrsum (f : RowF) (s : State) : Out := rowReduce 0x50 false 1 true f.w sumElems f s
/-- VRMAX. -/
def execVrmax (f : RowF) (s : State) : Out := rowReduce 0x51 false 0 false f.w (fun f => extreme true f.fmt) f s
/-- VRMIN. -/
def execVrmin (f : RowF) (s : State) : Out := rowReduce 0x52 false 0 false f.w (fun f => extreme false f.fmt) f s
/-- VRARGMAX: D's elements are n32. -/
def execVrargmax (f : RowF) (s : State) : Out := rowReduce 0x53 false 0 false 4 (fun f l => (argmaxElem f.fmt l, 0)) f s
/-- VDOT. -/
def execVdot (f : RowF) (s : State) : Out := rowReduce 0x54 true 1 true f.w dotElems f s

/-! ### Noise and CDF construction (R318, R319) -/

/-- VNOISE. -/
def execVnoise (f : RowF) (s : State) : Out :=
  runRow { op := 0x59, fmt := onlyF32, d := .dst, a := .none, b := .none, pops := 3 } f (fun e s =>
    reps (f.rep + 1) (fun i s => do
      let es := (List.range 256).map (fun j =>
        if e.act 4 j then gumbel (e.own 0) (e.own 1) ((e.own 2 + 256 * i + j) % 2 ^ 32) else 0)
      .ok (← s.putElems e.c f.dOp 4 i (e.act 4) es, 0)) s) s

/-- Writes bytes at the start of row i of a destination, leaving the rest. -/
def State.putHead (s : State) (c : Nat) (o : Opnd) (i : Nat) (bs : List Byte) : Ex State :=
  match operandRow (s.core c) o i with
  | none => .ok s
  | some r => s.writeRow c r 0 bs

/-- VCDF. -/
def execVcdf (f : RowF) (s : State) : Out :=
  runRow { op := 0x5A, fmt := onlyF32, d := .dst, a := .src, b := .none, psel := 0, pops := 1 } f (fun e s => do
    let q := e.own 0
    let n := bitsOf q 8 0
    let p := bitsOf q 12 9
    need (decide (1 ≤ n ∧ n ≤ 256) && decide (10 ≤ p ∧ p ≤ 15) && !(bitAt q 16 && decide (64 < n))) .controlValue q
    reps (f.rep + 1) (fun i s => do
      let as ← srcElems (s.core e.c) f.aOp 4 i e.bcast
      match cdfCells p ((as.take n).map (valueOf F32)) with
      | none => .error (.trap .cdfWeight 0)
      | some cum =>
        let bs := if bitAt q 16 then ({ n := n, p := p, cum := cum } : Prob).bytes else cum.flatMap (toBytes 2)
        .ok (← s.putHead e.c f.dOp i bs, 0)) s) s

/-! ### Loads, stores and exact accumulation (R317, R320) -/

/-- The virtual address of row i of vld and vst; one that leaves 48 bits is not mapped. -/
def rowAddr (q i : Nat) : Nat := wrapNat ((q % 2 ^ 48 : Nat) + 128 * Sys2Proof.sext (bitsOf q 63 48) 16 * i) 64

/-- The pieces of several ranges of virtual memory, address and bytes of each: every page is translated before any effect (04 R77). -/
def rangePieces (c : Nat) (need : Need) (rs : List (Nat × Nat)) (s : State) : Ex (List (List (Target × Nat × Nat)) × State) :=
  rs.foldlM (fun (p : List (List (Target × Nat × Nat)) × State) r => do
    let (ps, s) ← pieces c 1 r.1 need (r.2 / 4096 + 2) r.2 p.2
    .ok (p.1 ++ [ps], s)) ([], s)

/-- VLD. -/
def execVld (f : RowF) (s : State) : Out :=
  runRow { op := 0x60, fmt := anyFmt, d := .dst, a := .none, b := .none, pops := 1 } f (fun e s => do
    let q := e.own 0
    need (q % 128 == 0) .misaligned (q % 2 ^ 48)
    let tag := (s.core e.c).row.tag
    let (ps, s) ← rangePieces e.c .read ((List.range (f.rep + 1)).map (fun i => (rowAddr q i, 1024))) s
    reps (f.rep + 1) (fun i s => do
      let (bs, s) ← readPieces e.c 3 tag (ps.getD i []) s
      .ok (← s.putElems e.c f.dOp f.w i (e.act f.w) (elemsOf f.w f.n bs), 0)) s) s

/-- The bytes that a vst stores, each address once, a later repetition's byte over an earlier one's. -/
def mergeStores (l : List (Nat × List Byte)) : List (Nat × List Byte) :=
  let m : Store (Option Byte) := l.foldl (fun m p => (p.2.zip (List.range' p.1 p.2.length)).foldl (fun m q => m.put none q.2 (some q.1)) m) []
  m.foldr (fun p r =>
    match r with
    | (j, cs) :: t => if j = p.1 + 1 then (p.1, p.2.getD 0 :: cs) :: t else (p.1, [p.2.getD 0]) :: r
    | [] => [(p.1, [p.2.getD 0])]) []

/-- VST. -/
def execVst (f : RowF) (s : State) : Out :=
  runRow { op := 0x61, fmt := anyFmt, d := .none, a := .src, b := .none, pops := 1 } f (fun e s => do
    let q := e.own 0
    need (q % 128 == 0) .misaligned (q % 2 ^ 48)
    let tag := (s.core e.c).row.tag
    let rows ← (List.range (f.rep + 1)).mapM (fun i => do
      let as ← srcElems (s.core e.c) f.aOp f.w i e.bcast
      .ok ((activeRuns (fun b => e.act f.w (b / f.w)) 0 (bytesOf f.w as)).map (fun p => (rowAddr q i + p.1, p.2))))
    let stores := if f.rep = 0 ∨ 8 ≤ (Sys2Proof.sext (bitsOf q 63 48) 16).natAbs then rows.flatten else mergeStores rows.flatten
    stores.forM (fun p => windowLocal e.c tag s (p.2.length / 4096 + 2) p.1 p.2.length)
    let (ps, s) ← rangePieces e.c .write (stores.map (fun p => (p.1, p.2.length))) s
    s.peersGrant e.c 3 ps.flatten
    .ok (← writePieces e.c 3 tag ps.flatten (stores.map (·.2)).flatten s, 0, [])) s

/-- The object address and the value of each active element of a vxacc. -/
def xaccAdds (e : RowEnv) (q : Nat) (rows : List (List Nat)) : List (Nat × Val) :=
  rows.zipIdx.flatMap (fun r => (r.1.zipIdx.filter (fun p => e.act e.f.w p.2)).map (fun p =>
    (q % 2 ^ 48 + 8 * bitsOf q 63 48 * (e.f.n * r.2 + p.2), valueOf e.f.fmt p.1)))

/-- VXACC: every page is translated, then every header is checked, then the adds are applied at their homes. -/
def execVxacc (f : RowF) (s : State) : Out :=
  runRow { op := 0x58, fmt := isFloatFmt, d := .none, a := .src, b := .none, pops := 1 } f (fun e s => do
    let c := e.c
    let q := e.own 0
    match (s.core c).row.tag with
    | some (n, _) => throw (.trap .strongInWindow n)
    | none => pure ()
    let rows ← (List.range (f.rep + 1)).mapM (fun i => srcElems (s.core c) f.aOp f.w i e.bcast)
    let adds := xaccAdds e q rows
    let (homes, s) : List (Nat × Target) × State ← (adds.map (·.1)).dedup.foldlM (fun (p : List (Nat × Target) × State) va => do
      noHostAtomic p.2 c va va .both
      let (t, l) ← translate p.2 c va .both
      let s ← useLeaf c 1 l p.2
      .ok (p.1 ++ [(va, t)], s)) ([], s)
    let (sizes, s) : List (Nat × Target × Nat) × State ← homes.foldlM (fun (p : List (Nat × Target × Nat) × State) h => do
      need (h.1 % 8 == 0 && decide (h.1 % 4096 + 16 ≤ 4096)) .misaligned h.1
      let (n, s) ← (match h.2 with
        | .dev pa => xobjAt p.2 pa h.1
        | .peer w o => do .ok (← xobjCheck (← p.2.peerHeader c 3 w o h.1) h.1, p.2)
        | .host _ => .ok (0, p.2) : Ex (Nat × State))
      .ok (p.1 ++ [(h.1, h.2, n)], s)) ([], s)
    let s ← adds.zipIdx.foldlM (fun s a => do
      match sizes.find? (fun z => z.1 == a.1.1) with
      | some (_, .dev pa, n) =>
        let (obj, s) := s.strongRead c 0 pa (16 + 8 * n)
        let (hdr, bins) := xobjAdd (ofBytes (obj.take 16)) (binsOf (obj.drop 16) n) a.1.2
        .ok (s.strongWrite c 3 0 pa 3 false (xobjBytes hdr bins))
      | some (va, .peer w o, _) => do
        let d := s.peerWin c 3 w
        let x := (roundFloat F64 0 false a.1.2).1
        let _ ← s.peerAnswer c 3 (8 * a.2 + 6) (bitsOf d 11 0) (peerCmd d 4 o 8 0 x 0) va
        .ok s
      | _ => .ok s) s
    .ok (s, adds.foldl (fun fl a => fl ||| a.2.snan) 0, [])) s

/-! ### Rearrangement (R321) -/

/-- A rearranging word: g gives the source position of element j among A's elements followed by B's, from B's element and the popped entry. -/
def rowPick (sp : RowSpec) (g : RowEnv → Nat → Nat → Nat) (f : RowF) (s : State) : Out :=
  runRow sp f (fun e s => do
    need (sp.op != 0x64 || decide (e.own 0 ≤ f.n)) .controlValue (e.own 0)
    reps (f.rep + 1) (fun i s => do
      let k := s.core e.c
      let as ← srcElems k f.aOp f.w i e.bcast
      let bs ← if f.bOp = .none then .ok (List.replicate f.n 0) else srcElems k f.bOp f.w i e.bcast
      let both := as ++ bs
      let es := bs.zipIdx.map (fun p => if e.act f.w p.2 then both.getD (g e p.2 p.1) 0 else 0)
      .ok (← s.putElems e.c f.dOp f.w i (e.act f.w) es, 0)) s) s

/-- VPERM. -/
def execVperm (f : RowF) (s : State) : Out :=
  rowPick { op := 0x62, fmt := anyFmt, d := .dst, a := .src, b := .src }
    (fun e j b => if e.f.w = 1 then 256 * (j / 256) + b else b % e.f.n) f s
/-- VBCAST. -/
def execVbcast (f : RowF) (s : State) : Out :=
  rowPick { op := 0x63, fmt := anyFmt, d := .dst, a := .src, b := .none, pops := 1 } (fun e _ _ => e.own 0 % e.f.n) f s
/-- VEXT. -/
def execVext (f : RowF) (s : State) : Out :=
  rowPick { op := 0x64, fmt := anyFmt, d := .dst, a := .src, b := .src, pops := 1 } (fun e j _ => j + e.own 0) f s

/-! ### Candidates and softmax (R322, R323) -/

/-- Merges two ordered lists; fuel bounds their lengths together. -/
def mergeBy {α : Type} (before : α → α → Bool) : Nat → List α → List α → List α
  | 0, a, b => a ++ b
  | _, [], b => b
  | _, a, [] => a
  | n + 1, x :: a, y :: b => if before y x then y :: mergeBy before n (x :: a) b else x :: mergeBy before n a (y :: b)

/-- Sorts by halves, in at most fuel levels. -/
def sortBy {α : Type} (before : α → α → Bool) : Nat → List α → List α
  | 0, l => l
  | n + 1, l =>
    if l.length ≤ 1 then l
    else
      let h := l.length / 2
      mergeBy before l.length (sortBy before n (l.take h)) (sortBy before n (l.drop h))

/-- Whether candidate a ranks before b: decreasing value with NaN first, then the lower index. -/
def logitBefore (a b : Nat × Nat) : Bool :=
  let va := valueOf F32 a.1
  let vb := valueOf F32 b.1
  if va.isNan || vb.isNan then
    if va.isNan && vb.isNan then decide (a.2 < b.2) else va.isNan
  else
    match cmpVal va vb with
    | some .gt => true
    | some .eq => decide (a.2 < b.2)
    | _ => false

/-- VTOPK. -/
def execVtopk (f : RowF) (s : State) : Out :=
  runRow { op := 0x65, fmt := onlyF32, d := .sp, a := .src, b := .none, pops := 1, dRows := fun _ => 8 } f (fun e s => do
    let q := e.own 0
    let kc := bitsOf q 42 32
    need (decide (1 ≤ kc ∧ kc ≤ 1024)) .controlValue q
    let rows ← (List.range (f.rep + 1)).mapM (fun i => srcElems (s.core e.c) f.aOp 4 i e.bcast)
    let read := rows.flatMap (fun r => (r.zipIdx.filter (fun p => e.act 4 p.2)).map (·.1))
    let cands := rows.zipIdx.flatMap (fun r => (r.1.zipIdx.filter (fun p => e.act 4 p.2)).map (fun p =>
      (if (valueOf F32 p.1).isNan then nanBits F32 else p.1, (q + 256 * r.2 + p.2) % 2 ^ 32)))
    let best := (sortBy logitBefore 15 cands).take kc
    let nrows := (kc + 127) / 128
    let all := best ++ List.replicate (128 * nrows - best.length) (0xFF800000, 2 ^ 32 - 1)
    let bytes := all.flatMap (fun p => toBytes 4 p.1 ++ toBytes 4 p.2)
    let s ← (List.range nrows).foldlM (fun s i => s.putHead e.c f.dOp i ((bytes.drop (1024 * i)).take 1024)) s
    .ok (s, snanOf F32 read, [])) s

/-- VSMAX. -/
def execVsmax (f : RowF) (s : State) : Out :=
  runRow { op := 0x66, fmt := isFloatFmt, d := .dst, a := .src, b := .none, rnd := 2, sat := true } f (fun e s =>
    let t := if f.fmt = F64 then F64 else F32
    reps (f.rep + 1) (fun i s => do
      let as ← srcElems (s.core e.c) f.aOp f.w i e.bcast
      let act := (as.zipIdx.filter (fun p => e.act f.w p.2)).map (fun p => valueOf f.fmt p.1)
      if act.isEmpty then .ok (s, 0)
      else if act.any (fun v => v.isNan || v == .inf false) || act.all (· == .inf true) then
        .ok (← s.putElems e.c f.dOp f.w i (e.act f.w) (List.replicate f.n (nanBits f.fmt)), fNV)
      else
        let m := act.foldl (fun m v => if cmpVal m v = some .lt then v else m) (.inf true)
        let es := as.zipIdx.map (fun p =>
          if e.act f.w p.2 then transc .exp t 0 false p.1 (addVal 0 (valueOf f.fmt p.1) m.neg).1 else (0, 0))
        let total := (sumVals 0 (es.map (fun x => valueOf t x.1))).1
        let rs := es.zipIdx.map (fun x =>
          if e.act f.w x.2 then
            let (b, g) := roundFloat f.fmt f.rnd f.sat (divVal (valueOf t x.1.1) total).1
            (b, g ||| x.1.2)
          else (0, 0))
        .ok (← s.putElems e.c f.dOp f.w i (e.act f.w) (rs.map (·.1)), rs.foldl (fun fl r => fl ||| r.2) 0)) s) s

end Sys2Proof.Machine
end

