-- ==== Sys2Proof/Machine/Windows.lean ====
section
/-! DEFINITION. Speculative windows and tail contexts (10 R205 to R219; 16 R356 to R359). -/

namespace Sys2Proof.Machine

/-! ### Windows -/

/-- The status word of a window (R205). -/
def Window.status (w : Window) : Nat :=
  w.st + w.why * 2 ^ 2 + w.step * 2 ^ 6 + w.lines * 2 ^ 10 + w.pages.length * 2 ^ 22 + w.scope * 2 ^ 29 + w.owner * 2 ^ 32

/-- Whether regions keep apart from one another. -/
def apart : List (Nat × Nat) → Bool
  | [] => true
  | r :: l => l.all (fun q => decide (r.1 + r.2 ≤ q.1 ∨ q.1 + q.2 ≤ r.1)) && apart l

/-- The window that a 32-byte descriptor opens for a context (R206); none where it breaks a limit. -/
def windowOf (k : Core) (x d : Nat) : Option Window :=
  let va := bitsOf d 63 0
  let mx := bitsOf d 71 64
  let ents := (List.range 4).map (fun i => bitsOf d (159 + 32 * i) (128 + 32 * i))
  let regs := (ents.map (fun e => (bitsOf e 11 0, bitsOf e 20 12))).filter (fun r => r.2 != 0)
  if va < 2 ^ 48 ∧ va % 65536 = 0 ∧ mx ≤ 64 ∧ (va = 0 ↔ mx = 0) ∧ bitsOf d 74 72 ≤ 4 ∧ bitsOf d 127 80 = 0
      ∧ (regs.map (·.2)).sum ≤ 256 ∧ apart regs
      ∧ regs.all (fun r => decide (128 * (r.1 + r.2) ≤ k.spadLimit)) then
    some { st := 1, owner := x, scope := bitsOf d 74 72, allocVa := va, allocMax := mx, regions := regs }
  else none

/-- SWOPEN (R206, R357): waits until every copy of the task has ended. The window keeps the streams as they are now (09 R196). -/
def execSwopen (n a : Nat) (s : State) : Out :=
  runScalar .control (wordOf (.swopen n a)) (withRegs [a] none (fun k => claim k (.sw n) n) (fun vs t => do
    let c := t.c
    let k := t.core c
    need ((k.window n).st == 0 && (t.cx c t.x).window.isNone) .windowState n
    let ea := vs.getD 0 0
    need (ea % 32 == 0) .controlValue ea
    need (decide (ea + 32 ≤ k.spadLimit)) .controlValue ea
    let (bs, t) ← t.spadGet c ea 32
    match windowOf k t.x (ofBytes bs) with
    | none => .error (.trap .controlValue ea)
    | some w => do
      await (k.chan.all (fun p => p.2.phase == .idle))
      .ok (t.updCore c (fun k =>
        { k with win := k.win.put {} n { w with sopen := k.st }, cx := k.cx.upd {} t.x (fun q => { q with window := some n }) }), none, .seq))) s

/-- The state and owner checks of the other window instructions (R357). -/
def windowCheck (k : Core) (x n : Nat) : Ex Unit := do
  need ((k.window n).st != 0) .windowState n
  need ((k.window n).owner == x) .windowNotOwned n

/-- Whether words of window n, of one step or of any, are still to complete, in a ring or in a bank (R208, R211). -/
def Core.wordsLeft (k : Core) (n : Nat) (step : Option Nat) : Bool :=
  let mine (t : Option (Nat × Nat)) : Bool := match t with
    | some (m, i) => m == n && (match step with | some j => i == j | none => true)
    | none => false
  let ring (r : Ring) : Bool := r.tags.any (fun p => mine p.2) || r.bankA.any mine || r.bankB.any mine
  ring k.row || ring k.mat

/-- Versions of the streams that the current step wrote (R208, 09 R196). -/
def Core.closeStep (k : Core) (n : Nat) : Core :=
  k.updWin n (fun w => { w with svers := w.svers ++ w.swrote.map (fun x => (w.step, x, k.st.get {} x)), swrote := [] })

/-- SWSTEP (R208, R209). -/
def execSwstep (n : Nat) (s : State) : Out :=
  runScalar .control (wordOf (.swstep n)) (fun t => do
    let k := t.core t.c
    claim k (.sw n) n
    windowCheck k t.x n
    let w := k.window n
    need (w.step != 15 && decide (w.lines + w.swrote.length ≤ 2048)) .windowLimit n
    await (!k.wordsLeft n (some w.step))
    .ok (t.updCore t.c (fun k => (k.closeStep n).updWin n (fun v =>
      { v with step := v.step + 1, lines := v.lines + w.swrote.length })), .seq)) s

/-- The kept device stores, oldest first (R187, R211). -/
def Window.kept (w : Window) (j : Nat) : List (Nat × Byte) :=
  ((w.dlog.filter (fun e => decide (e.1 < j))).reverse).map (fun e => e.2)

/-- The 8-byte words of kept stores, each with its bytes by place in the word; the latest step's store of a byte is the one that counts. -/
def keptWords (l : List (Nat × Byte)) : List (Nat × List (Nat × Byte)) :=
  ((l.map (·.1 / 8)).dedup).map (fun w => (w, (l.filter (fun e => e.1 / 8 == w)).map (fun e => (e.1 % 8, e.2))))

/-- The kept stores become visible together at the window's scope, as one release of context x (R187): they are performed under one number, published, and known from then on as one commit. A sector that they write whole loses its poison (01 R13). -/
def State.releaseStores (s : State) (c x scope : Nat) (l : List (Nat × Byte)) : State :=
  let s := s.drainCx c x
  let n := (s.phys c).pubno + 1
  let know := (s.phys c).know.put 0 c n
  let s := (keptWords l).foldl (fun (s : State) q =>
    let s := s.performOwn c q.1
    let bs := q.2.foldl (fun (b : List Byte) e => b.set e.1 e.2) (s.homeBytes q.1)
    (s.perform q.1 0 bs { core := c + 1, agent := x, pubs := [(scope, n)], rel := some (scope, know), commit := s.tick + 1 }).see c q.1
      ((s.past q.1).length + 1)) s
  let whole (sec : Nat) : Bool := (List.range' (32 * sec) 32).all (fun a => l.any (·.1 == a))
  { s with mpoison := s.mpoison.filter (fun p => !whole p.1) }.updPhys c (fun p => { p with pubno := n, know := know })

/-- Steps 0 to j - 1 of window n are kept and the rest undone, in one step (R211). -/
def State.commitWindow (s : State) (c n j : Nat) : State :=
  let s := s.updCore c (·.closeStep n)
  let k := s.core c
  let w := k.window n
  let ctx := k.tk.ctx
  let s := s.undoWindow c n j
  let s := (w.pages.filter (fun p => decide (p.2.2 < j))).foldl (fun (s : State) p =>
    ((s.addLeaf ctx { va := w.allocVa + 65536 * p.1, size := 1, pte := pte64 p.2.1 false }).getD s).updVi k.tk.vi (fun e =>
      { e with slots := e.slots.upd {} k.tk.slot (fun im => { im with bound := im.bound ++ [(w.allocVa + 65536 * p.1, p.2.1)] }) })) s
  (s.releaseStores c w.owner w.scope (w.kept j)).updCore c (·.closeWindow n)

/-- SWCOMMIT (R211): a failed window keeps nothing and answers 0. -/
def execSwcommit (d n a : Nat) (s : State) : Out :=
  runScalar .control (wordOf (.swcommit d n a)) (withRegs [a] (some d) (fun k => claim k (.sw n) n) (fun vs t => do
    let c := t.c
    let k := t.core c
    windowCheck k t.x n
    let w := k.window n
    let j := vs.getD 0 0
    need (decide (j ≤ w.step + 1)) .controlValue j
    await (!k.wordsLeft n none)
    if j = 0 ∨ w.st = 2 then .ok (t.abortWindow c n, some 0, .seq)
    else .ok (t.commitWindow c n j, some j, .seq))) s

/-- SWABORT (R212). -/
def execSwabort (n : Nat) (s : State) : Out :=
  runScalar .control (wordOf (.swabort n)) (fun t => do
    let k := t.core t.c
    claim k (.sw n) n
    windowCheck k t.x n
    await (!k.wordsLeft n none)
    .ok (t.abortWindow t.c n, .seq)) s

/-- The lowest index whose address the context does not map and no open window holds (R210). -/
def State.freeIndex (s : State) (ctx : Nat) (w : Window) : Option Nat :=
  (List.range w.allocMax).find? (fun p =>
    let va := w.allocVa + 65536 * p
    decide (va + 65536 ≤ 2 ^ 48) && (s.meets ctx va 65536).isEmpty && !s.windowHolds ctx va 65536)

/-- SWALLOC (R210): answers 0 and changes nothing where no page is to be had. The tables that the page needs at a commit are built now (04 R63). -/
def execSwalloc (d n : Nat) (s : State) : Out :=
  runScalar .control (wordOf (.swalloc d n)) (withRegs [] (some d) (fun k => claim k (.sw n) n) (fun _ t => do
    let c := t.c
    let k := t.core c
    windowCheck k t.x n
    let w := k.window n
    let fr := tierFrames 0 (homeSlice k.tk.ctx)
    let none' : Ex (State × Option Nat × Flow) := .ok (t, some 0, .seq)
    if w.allocVa = 0 ∨ 64 ≤ w.pages.length ∨ t.pagesLeft k.tk = 0 then none'
    else
      match t.freeIndex k.tk.ctx w with
      | none => none'
      | some p =>
        match (State.tableFor k.tk.ctx (w.allocVa + 65536 * p) 0 3 (t.ctx k.tk.ctx).root t).bind (fun q => q.2.takeFrame fr.1 fr.2 k.tk.vi k.tk.ctx) with
        | none => none'
        | some (f, u) =>
          .ok ((u.chargePages k.tk 1).updCore c (fun k => k.updWin n (fun w => { w with pages := w.pages ++ [(p, f, w.step)] })),
            some (w.allocVa + 65536 * p), .seq))) s

/-- SWSTAT (R205). -/
def execSwstat (d n : Nat) (s : State) : Out :=
  runScalar .control (wordOf (.swstat d n)) (withRegs [] (some d) (fun k => claim k (.sw n) n) (fun _ t =>
    .ok (t, some ((t.core t.c).window n).status, .seq))) s

/-! ### Tails -/

/-- The lowest free tail slot within the SPEC tail count (R216). -/
def Core.freeTail (k : Core) : Option Nat :=
  (List.range 2).find? (fun i => k.cl.has (.tail i) && !(k.cx.get {} (i + 1)).live)

/-- RELC (R216, R359): the tail continues after the word, the caller at bN without delay words. The caller's strong writes on their way come before what the tail does (19 R368). -/
def execRelc (cc d a bn : Nat) (s : State) : Out :=
  runScalar .control (wordOf (.relc cc d a bn)) (fun t => do
    let c := t.c
    let x := t.x
    let k := t.core c
    let q := t.cx c x
    need (decide (d < 24)) .queueDirection (d - 24)
    need (decide (a < 24)) .queueDirection (a - 24)
    need q.window.isNone .windowAtRelease (q.window.getD 0)
    let dest := q.br bn
    need (targetOk dest) .alignment dest
    let setS (q : Ctx) (v : Nat) : Ctx := if d = 0 then q else { q with s := q.s.put 0 d (w64 v) }
    match k.freeTail with
    | none => .ok (t.updCx c x (fun q => { setS q 2 with c := q.c.put false cc false }), .seq)
    | some i =>
      let old := k.cx.get {} (i + 1)
      let tail : Ctx :=
        { setS q i with
          live := true, serial := k.tails + 1, held := none, emptyFor := none, pc := w64 (q.pc.toNat + 4), c := q.c.put false cc true, fmark := readReg k q a
          rep := .none, pend := none, pfx := none, window := none, wait := .none, fadds := old.fadds
          stalled := false, emptyAt := none, logWait := false, slot := false, takes := [] }
      let t := t.updCore c (fun k => { k with tails := k.tails + 1, cx := k.cx.put {} (i + 1) tail })
      let t := t.orderAfter c (· == t.serialOf c x) (k.tails + 1)
      .ok (t.updCx c x (fun q => { setS q i with c := q.c.put false cc false }), .jump dest)) s

/-- TJOIN (R217): a join that waits keeps to the tail that was live when it first waited, whatever its slot holds by then. The tail's strong writes on their way come before what the context does next (R189). -/
def execTjoin (a : Nat) (s : State) : Out :=
  runScalar .control (wordOf (.tjoin a)) (withRegs [a] none (fun _ => .ok ()) (fun vs t => do
    let i := vs.getD 0 0
    need (decide (i ≤ 2)) .controlValue i
    let q := t.cx t.c (i + 1)
    let joined := match (t.cx t.c t.x).held with
      | some (.tail n) => n
      | _ => q.serial
    if i ≠ 2 ∧ q.live ∧ q.serial = joined then throw (.held (.tail joined))
    .ok (if i = 2 ∨ joined = 0 then t else t.orderAfter t.c (· == joined) (t.serialOf t.c t.x), none, .seq))) s

/-- The tails, by their numbers, that a frame popped below m joins: those that have ended with a frame mark below it, and those whose slot another tail has since taken, whose mark is gone (R218; log 7). -/
def Core.popped (k : Core) (m n : Nat) : Bool :=
  n != 0 && [1, 2].all (fun i => (k.cx.get {} i).serial != n || (!(k.cx.get {} i).live && decide ((k.cx.get {} i).fmark.toNat < m)))

/-- FPOP (R218): the strong writes on their way of the tails that it joins come before what the context does next (R189). -/
def execFpop (d a : Nat) (s : State) : Out :=
  runScalar .control (wordOf (.fpop d a)) (withRegs [a] (some d) (fun _ => .ok ()) (fun vs t => do
    let m := vs.getD 0 0
    let k := t.core t.c
    need (t.x == 0 || decide (m ≤ (t.cx t.c t.x).fmark.toNat)) .controlValue m
    await ([1, 2].all (fun i => !((k.cx.get {} i).live && decide ((k.cx.get {} i).fmark.toNat < m))))
    .ok (t.orderAfter t.c (k.popped m) (t.serialOf t.c t.x), some m, .seq))) s

end Sys2Proof.Machine
end

