-- ==== Sys2Proof/Machine/Dispatch.lean ====
section
/-! DEFINITION. One arm for each instruction and step: a direct call of its meaning. -/

namespace Sys2Proof.Machine

/-- The move that an instruction or step makes. -/
def exec (i : Instr) (s : State) : Host.Outcome State Fault Refusal :=
  match i with
  | .coldReset trainOk testOk => Sys2Proof.Machine.execColdReset trainOk testOk s
  | .deviceReset trainOk testOk => Sys2Proof.Machine.execDeviceReset trainOk testOk s
  | .regWrite space vi off v => Sys2Proof.Machine.execRegWrite space vi off v s
  | .patrolScrub sector found => Sys2Proof.Machine.execPatrolScrub sector found s
  | .hostAdd vi idx x => Sys2Proof.Machine.execHostAdd vi idx x s
  | .hostWait vi idx x => Sys2Proof.Machine.execHostWait vi idx x s
  | .trigt vi idx x => Sys2Proof.Machine.execTrigt vi idx x s
  | .arm vi idx x => Sys2Proof.Machine.execArm vi idx x s
  | .disarm vi idx x => Sys2Proof.Machine.execDisarm vi idx x s
  | .flitReceive port f => Sys2Proof.Machine.execFlitReceive port f s
  | .retrain port ok lanes => Sys2Proof.Machine.execRetrain port ok lanes s
  | .translationCompletion pasid page size haddr r w => Sys2Proof.Machine.execTranslationCompletion pasid page size haddr r w s
  | .pageRequestGroupResponse pasid page code => Sys2Proof.Machine.execPageRequestGroupResponse pasid page code s
  | .invalidateRequest pasid base size => Sys2Proof.Machine.execInvalidateRequest pasid base size s
  | .faultResume core agent resolved => Sys2Proof.Machine.execFaultResume core agent resolved s
  | .copyStart core x ch data => Sys2Proof.Machine.execCopyStart core x ch data s
  | .copyLineLand core ch line => Sys2Proof.Machine.execCopyLineLand core ch line s
  | .pfx rnd rv sat hi => Sys2Proof.Machine.execPfx rnd rv sat hi s
  | .add d a b => Sys2Proof.Machine.execAdd d a b s
  | .sub d a b => Sys2Proof.Machine.execSub d a b s
  | .iand d a b => Sys2Proof.Machine.execIand d a b s
  | .ior d a b => Sys2Proof.Machine.execIor d a b s
  | .ixor d a b => Sys2Proof.Machine.execIxor d a b s
  | .sll d a b => Sys2Proof.Machine.execSll d a b s
  | .srl d a b => Sys2Proof.Machine.execSrl d a b s
  | .sra d a b => Sys2Proof.Machine.execSra d a b s
  | .mul d a b => Sys2Proof.Machine.execMul d a b s
  | .mulh d a b => Sys2Proof.Machine.execMulh d a b s
  | .mulhu d a b => Sys2Proof.Machine.execMulhu d a b s
  | .div d a b => Sys2Proof.Machine.execDiv d a b s
  | .divu d a b => Sys2Proof.Machine.execDivu d a b s
  | .rem d a b => Sys2Proof.Machine.execRem d a b s
  | .remu d a b => Sys2Proof.Machine.execRemu d a b s
  | .min d a b => Sys2Proof.Machine.execMin d a b s
  | .max d a b => Sys2Proof.Machine.execMax d a b s
  | .minu d a b => Sys2Proof.Machine.execMinu d a b s
  | .maxu d a b => Sys2Proof.Machine.execMaxu d a b s
  | .clz d a => Sys2Proof.Machine.execClz d a s
  | .ctz d a => Sys2Proof.Machine.execCtz d a s
  | .popc d a => Sys2Proof.Machine.execPopc d a s
  | .sext d a fmt => Sys2Proof.Machine.execSext d a fmt s
  | .zext d a fmt => Sys2Proof.Machine.execZext d a fmt s
  | .addi d a imm => Sys2Proof.Machine.execAddi d a imm s
  | .andi d a imm => Sys2Proof.Machine.execAndi d a imm s
  | .ori d a imm => Sys2Proof.Machine.execOri d a imm s
  | .xori d a imm => Sys2Proof.Machine.execXori d a imm s
  | .slli d a n => Sys2Proof.Machine.execSlli d a n s
  | .srli d a n => Sys2Proof.Machine.execSrli d a n s
  | .srai d a n => Sys2Proof.Machine.execSrai d a n s
  | .movi d imm => Sys2Proof.Machine.execMovi d imm s
  | .movhi d imm => Sys2Proof.Machine.execMovhi d imm s
  | .cmpi cond c a imm => Sys2Proof.Machine.execCmpi cond c a imm s
  | .cmpEq c a b => Sys2Proof.Machine.execCmpEq c a b s
  | .cmpNe c a b => Sys2Proof.Machine.execCmpNe c a b s
  | .cmpLt c a b => Sys2Proof.Machine.execCmpLt c a b s
  | .cmpGe c a b => Sys2Proof.Machine.execCmpGe c a b s
  | .cmpLtu c a b => Sys2Proof.Machine.execCmpLtu c a b s
  | .cmpGeu c a b => Sys2Proof.Machine.execCmpGeu c a b s
  | .cand c a b => Sys2Proof.Machine.execCand c a b s
  | .cor c a b => Sys2Proof.Machine.execCor c a b s
  | .cxor c a b => Sys2Proof.Machine.execCxor c a b s
  | .cnot c a => Sys2Proof.Machine.execCnot c a s
  | .sel d a b k => Sys2Proof.Machine.execSel d a b k s
  | .fadd d a b => Sys2Proof.Machine.execFadd d a b s
  | .fsub d a b => Sys2Proof.Machine.execFsub d a b s
  | .fmul d a b => Sys2Proof.Machine.execFmul d a b s
  | .fdiv d a b => Sys2Proof.Machine.execFdiv d a b s
  | .fsqrt d a => Sys2Proof.Machine.execFsqrt d a s
  | .fma d a b => Sys2Proof.Machine.execFma d a b s
  | .fmin d a b => Sys2Proof.Machine.execFmin d a b s
  | .fmax d a b => Sys2Proof.Machine.execFmax d a b s
  | .fabs d a => Sys2Proof.Machine.execFabs d a s
  | .fneg d a => Sys2Proof.Machine.execFneg d a s
  | .cvtfi d a fmt => Sys2Proof.Machine.execCvtfi d a fmt s
  | .cvtif d a fmt => Sys2Proof.Machine.execCvtif d a fmt s
  | .cvtff d a fmt => Sys2Proof.Machine.execCvtff d a fmt s
  | .cvtft d a fmt => Sys2Proof.Machine.execCvtft d a fmt s
  | .fcmpEq c a b => Sys2Proof.Machine.execFcmpEq c a b s
  | .fcmpLt c a b => Sys2Proof.Machine.execFcmpLt c a b s
  | .fcmpLe c a b => Sys2Proof.Machine.execFcmpLe c a b s
  | .fcmpUn c a b => Sys2Proof.Machine.execFcmpUn c a b s
  | .fclass d a => Sys2Proof.Machine.execFclass d a s
  | .csrr d off => Sys2Proof.Machine.execCsrr d off s
  | .csrw a off => Sys2Proof.Machine.execCsrw a off s
  | .ld d a ty disp => Sys2Proof.Machine.execLd d a ty disp s
  | .st d a ty disp => Sys2Proof.Machine.execSt d a ty disp s
  | .lda d a width scope order => Sys2Proof.Machine.execLda d a width scope order s
  | .stl a b width scope order => Sys2Proof.Machine.execStl a b width scope order s
  | .amoAdd d a b width scope order => Sys2Proof.Machine.execAmoAdd d a b width scope order s
  | .amoSwap d a b width scope order => Sys2Proof.Machine.execAmoSwap d a b width scope order s
  | .amoCas d a b width scope order => Sys2Proof.Machine.execAmoCas d a b width scope order s
  | .amoAnd d a b width scope order => Sys2Proof.Machine.execAmoAnd d a b width scope order s
  | .amoOr d a b width scope order => Sys2Proof.Machine.execAmoOr d a b width scope order s
  | .amoXor d a b width scope order => Sys2Proof.Machine.execAmoXor d a b width scope order s
  | .amoMin d a b width scope order => Sys2Proof.Machine.execAmoMin d a b width scope order s
  | .amoMax d a b width scope order => Sys2Proof.Machine.execAmoMax d a b width scope order s
  | .amoMinu d a b width scope order => Sys2Proof.Machine.execAmoMinu d a b width scope order s
  | .amoMaxu d a b width scope order => Sys2Proof.Machine.execAmoMaxu d a b width scope order s
  | .amoFadd d a b width scope order => Sys2Proof.Machine.execAmoFadd d a b width scope order s
  | .xadd a b scope order => Sys2Proof.Machine.execXadd a b scope order s
  | .xrd d a scope order => Sys2Proof.Machine.execXrd d a scope order s
  | .evadd d a b => Sys2Proof.Machine.execEvadd d a b s
  | .evwait d a b => Sys2Proof.Machine.execEvwait d a b s
  | .evrd d a => Sys2Proof.Machine.execEvrd d a s
  | .pbt bn imm => Sys2Proof.Machine.execPbt bn imm s
  | .pbr bn a => Sys2Proof.Machine.execPbr bn a s
  | .br bn x => Sys2Proof.Machine.execBr bn x s
  | .brl bn d => Sys2Proof.Machine.execBrl bn d s
  | .loopHw n a imm => Sys2Proof.Machine.execLoopHw n a imm s
  | .trap n => Sys2Proof.Machine.execTrap n s
  | .syscall d a => Sys2Proof.Machine.execSyscall d a s
  | .fence scope => Sys2Proof.Machine.execFence scope s
  | .phase scope => Sys2Proof.Machine.execPhase scope s
  | .phasePub scope => Sys2Proof.Machine.execPhasePub scope s
  | .phaseRef scope => Sys2Proof.Machine.execPhaseRef scope s
  | .repA a => Sys2Proof.Machine.execRepA a s
  | .repi n => Sys2Proof.Machine.execRepi n s
  | .lcget d n => Sys2Proof.Machine.execLcget d n s
  | .lcbwait a => Sys2Proof.Machine.execLcbwait a s
  | .relrow a => Sys2Proof.Machine.execRelrow a s
  | .relmat a => Sys2Proof.Machine.execRelmat a s
  | .semraise n => Sys2Proof.Machine.execSemraise n s
  | .semwait n => Sys2Proof.Machine.execSemwait n s
  | .bsel k => Sys2Proof.Machine.execBsel k s
  | .bbarm n a => Sys2Proof.Machine.execBbarm n a s
  | .bbwait n => Sys2Proof.Machine.execBbwait n s
  | .cbcons n a => Sys2Proof.Machine.execCbcons n a s
  | .cbset n a => Sys2Proof.Machine.execCbset n a s
  | .empty a => Sys2Proof.Machine.execEmpty a s
  | .fullset a => Sys2Proof.Machine.execFullset a s
  | .pwr bank state => Sys2Proof.Machine.execPwr bank state s
  | .rcinitEnc x a => Sys2Proof.Machine.execRcinitEnc x a s
  | .rcinitDec x a => Sys2Proof.Machine.execRcinitDec x a s
  | .rcenc x y a => Sys2Proof.Machine.execRcenc x y a s
  | .rcdec d x y => Sys2Proof.Machine.execRcdec d x y s
  | .rcdecn x k => Sys2Proof.Machine.execRcdecn x k s
  | .rcflush x => Sys2Proof.Machine.execRcflush x s
  | .rcsave x a => Sys2Proof.Machine.execRcsave x a s
  | .rcload x a => Sys2Proof.Machine.execRcload x a s
  | .cdld y a => Sys2Proof.Machine.execCdld y a s
  | .cdsave y a => Sys2Proof.Machine.execCdsave y a s
  | .swopen n a => Sys2Proof.Machine.execSwopen n a s
  | .swstep n => Sys2Proof.Machine.execSwstep n s
  | .swcommit d n a => Sys2Proof.Machine.execSwcommit d n a s
  | .swabort n => Sys2Proof.Machine.execSwabort n s
  | .swalloc d n => Sys2Proof.Machine.execSwalloc d n s
  | .swstat d n => Sys2Proof.Machine.execSwstat d n s
  | .relc c d a bn => Sys2Proof.Machine.execRelc c d a bn s
  | .tjoin a => Sys2Proof.Machine.execTjoin a s
  | .fpop d a => Sys2Proof.Machine.execFpop d a s
  | .rowNotify f => Sys2Proof.Machine.execRowNotify f s
  | .vnop f => Sys2Proof.Machine.execVnop f s
  | .vadd f => Sys2Proof.Machine.execVadd f s
  | .vsub f => Sys2Proof.Machine.execVsub f s
  | .vmul f => Sys2Proof.Machine.execVmul f s
  | .vfma f => Sys2Proof.Machine.execVfma f s
  | .vfms f => Sys2Proof.Machine.execVfms f s
  | .vdiv f => Sys2Proof.Machine.execVdiv f s
  | .vsqrt f => Sys2Proof.Machine.execVsqrt f s
  | .vmin f => Sys2Proof.Machine.execVmin f s
  | .vmax f => Sys2Proof.Machine.execVmax f s
  | .vabs f => Sys2Proof.Machine.execVabs f s
  | .vneg f => Sys2Proof.Machine.execVneg f s
  | .vand f => Sys2Proof.Machine.execVand f s
  | .vor f => Sys2Proof.Machine.execVor f s
  | .vxor f => Sys2Proof.Machine.execVxor f s
  | .vshl f => Sys2Proof.Machine.execVshl f s
  | .vshr f => Sys2Proof.Machine.execVshr f s
  | .vmov f => Sys2Proof.Machine.execVmov f s
  | .vsel f => Sys2Proof.Machine.execVsel f s
  | .vcmpEq f => Sys2Proof.Machine.execVcmpEq f s
  | .vcmpNe f => Sys2Proof.Machine.execVcmpNe f s
  | .vcmpLt f => Sys2Proof.Machine.execVcmpLt f s
  | .vcmpLe f => Sys2Proof.Machine.execVcmpLe f s
  | .vcmpGt f => Sys2Proof.Machine.execVcmpGt f s
  | .vcmpUn f => Sys2Proof.Machine.execVcmpUn f s
  | .vpand f => Sys2Proof.Machine.execVpand f s
  | .vpor f => Sys2Proof.Machine.execVpor f s
  | .vpnot f => Sys2Proof.Machine.execVpnot f s
  | .vvoteAny f => Sys2Proof.Machine.execVvoteAny f s
  | .vvoteAll f => Sys2Proof.Machine.execVvoteAll f s
  | .vcvt f => Sys2Proof.Machine.execVcvt f s
  | .vqnt f => Sys2Proof.Machine.execVqnt f s
  | .vqchk f => Sys2Proof.Machine.execVqchk f s
  | .vexp f => Sys2Proof.Machine.execVexp f s
  | .vln f => Sys2Proof.Machine.execVln f s
  | .vtanh f => Sys2Proof.Machine.execVtanh f s
  | .vsigm f => Sys2Proof.Machine.execVsigm f s
  | .vrsqrt f => Sys2Proof.Machine.execVrsqrt f s
  | .vrcp f => Sys2Proof.Machine.execVrcp f s
  | .vsin f => Sys2Proof.Machine.execVsin f s
  | .vcos f => Sys2Proof.Machine.execVcos f s
  | .vrsum f => Sys2Proof.Machine.execVrsum f s
  | .vrmax f => Sys2Proof.Machine.execVrmax f s
  | .vrmin f => Sys2Proof.Machine.execVrmin f s
  | .vrargmax f => Sys2Proof.Machine.execVrargmax f s
  | .vdot f => Sys2Proof.Machine.execVdot f s
  | .vxacc f => Sys2Proof.Machine.execVxacc f s
  | .vnoise f => Sys2Proof.Machine.execVnoise f s
  | .vcdf f => Sys2Proof.Machine.execVcdf f s
  | .vld f => Sys2Proof.Machine.execVld f s
  | .vst f => Sys2Proof.Machine.execVst f s
  | .vperm f => Sys2Proof.Machine.execVperm f s
  | .vbcast f => Sys2Proof.Machine.execVbcast f s
  | .vext f => Sys2Proof.Machine.execVext f s
  | .vtopk f => Sys2Proof.Machine.execVtopk f s
  | .vsmax f => Sys2Proof.Machine.execVsmax f s
  | .matNotify f => Sys2Proof.Machine.execMatNotify f s
  | .mnop f => Sys2Proof.Machine.execMnop f s
  | .mmul f => Sys2Proof.Machine.execMmul f s
  | .mmv f => Sys2Proof.Machine.execMmv f s
  | .mtr f => Sys2Proof.Machine.execMtr f s
  | .mperm f => Sys2Proof.Machine.execMperm f s
  | .mrred f => Sys2Proof.Machine.execMrred f s
  | .mrd f => Sys2Proof.Machine.execMrd f s
  | .mwr f => Sys2Proof.Machine.execMwr f s
  | .mclr f => Sys2Proof.Machine.execMclr f s
  | .smpLdc row n => Sys2Proof.Machine.execSmpLdc row n s
  | .smpMask a b => Sys2Proof.Machine.execSmpMask a b s
  | .smpTemp a => Sys2Proof.Machine.execSmpTemp a s
  | .smpTopk a => Sys2Proof.Machine.execSmpTopk a s
  | .smpTopp a => Sys2Proof.Machine.execSmpTopp a s
  | .smpArgmax d => Sys2Proof.Machine.execSmpArgmax d s
  | .smpAccept d a b => Sys2Proof.Machine.execSmpAccept d a b s
  | .smpEmit a => Sys2Proof.Machine.execSmpEmit a s
  | .smpStat d => Sys2Proof.Machine.execSmpStat d s
  | .smpMovx d a => Sys2Proof.Machine.execSmpMovx d a s
  | .smpMovk d a => Sys2Proof.Machine.execSmpMovk d a s
  | .smpLdx d addr => Sys2Proof.Machine.execSmpLdx d addr s
  | .smpLdk d imm => Sys2Proof.Machine.execSmpLdk d imm s
  | .smpSeed addr => Sys2Proof.Machine.execSmpSeed addr s
  | .smpPosadd imm => Sys2Proof.Machine.execSmpPosadd imm s
  | .illegalInstruction w => Sys2Proof.Machine.execIllegalInstruction w s
  | .illFormedWord ring w => Sys2Proof.Machine.execIllFormedWord ring w s
  | .illformedSamplerWord w => Sys2Proof.Machine.execIllformedSamplerWord w s
  | .firmwareUpdate f => Sys2Proof.Machine.execFirmwareUpdate f s
  | .atsPriCapabilityWrite vi ats pri => Sys2Proof.Machine.execAtsPriCapabilityWrite vi ats pri s
  | .warmRestart => Sys2Proof.Machine.execWarmRestart s
  | .hotReset => Sys2Proof.Machine.execHotReset s
  | .timingReplay => Sys2Proof.Machine.execTimingReplay s
  | .fllStep => Sys2Proof.Machine.execFllStep s
  | .ldoWindow => Sys2Proof.Machine.execLdoWindow s
  | .cfreqWrite => Sys2Proof.Machine.execCfreqWrite s
  | .ccapWrite => Sys2Proof.Machine.execCcapWrite s
  | .replaytgtWrite => Sys2Proof.Machine.execReplaytgtWrite s
  | .einjWrite => Sys2Proof.Machine.execEinjWrite s
  | .atommodeWrite => Sys2Proof.Machine.execAtommodeWrite s
  | .infieldTest => Sys2Proof.Machine.execInfieldTest s
  | .pubctlStart => Sys2Proof.Machine.execPubctlStart s
  | .pubctlResetring => Sys2Proof.Machine.execPubctlResetring s
  | .overrun => Sys2Proof.Machine.execOverrun s
  | .load => Sys2Proof.Machine.execLoad s
  | .launch => Sys2Proof.Machine.execLaunch s
  | .unload => Sys2Proof.Machine.execUnload s
  | .nopEntry => Sys2Proof.Machine.execNopEntry s
  | .viset => Sys2Proof.Machine.execViset s
  | .keyset => Sys2Proof.Machine.execKeyset s
  | .ctxnew => Sys2Proof.Machine.execCtxnew s
  | .ctxfree => Sys2Proof.Machine.execCtxfree s
  | .peerset => Sys2Proof.Machine.execPeerset s
  | .routeset => Sys2Proof.Machine.execRouteset s
  | .clockset => Sys2Proof.Machine.execClockset s
  | .mapPage => Sys2Proof.Machine.execMapPage s
  | .vireset => Sys2Proof.Machine.execVireset s
  | .attestation => Sys2Proof.Machine.execAttestation s
  | .energyRecordWrite => Sys2Proof.Machine.execEnergyRecordWrite s
  | .peerRead => Sys2Proof.Machine.execPeerRead s
  | .peerWrite => Sys2Proof.Machine.execPeerWrite s
  | .peerAtomic => Sys2Proof.Machine.execPeerAtomic s
  | .exactAccumulate => Sys2Proof.Machine.execExactAccumulate s
  | .eventCounterAdd => Sys2Proof.Machine.execEventCounterAdd s
  | .readResponse => Sys2Proof.Machine.execReadResponse s
  | .writeAcknowledge => Sys2Proof.Machine.execWriteAcknowledge s
  | .atomicResponse => Sys2Proof.Machine.execAtomicResponse s
  | .errorResponse => Sys2Proof.Machine.execErrorResponse s
  | .replayRequest => Sys2Proof.Machine.execReplayRequest s
  | .peerLinkDown => Sys2Proof.Machine.execPeerLinkDown s
  | .priTimeout => Sys2Proof.Machine.execPriTimeout s
  | .invalidationCompletion => Sys2Proof.Machine.execInvalidationCompletion s
  | .tableWalk => Sys2Proof.Machine.execTableWalk s
  | .dispatch => Sys2Proof.Machine.execDispatch s
  | .preemption => Sys2Proof.Machine.execPreemption s
  | .preemptionSave => Sys2Proof.Machine.execPreemptionSave s
  | .itemStart => Sys2Proof.Machine.execItemStart s
  | .taskResume => Sys2Proof.Machine.execTaskResume s
  | .gangResume => Sys2Proof.Machine.execGangResume s
  | .batchSnapshot => Sys2Proof.Machine.execBatchSnapshot s
  | .rampWindow => Sys2Proof.Machine.execRampWindow s
  | .completionEvent => Sys2Proof.Machine.execCompletionEvent s
  | .orderedFaddApply => Sys2Proof.Machine.execOrderedFaddApply s
  | .launchEnd => Sys2Proof.Machine.execLaunchEnd s
  | .trapDelivery => Sys2Proof.Machine.execTrapDelivery s
  | .engineFault => Sys2Proof.Machine.execEngineFault s
  | .stalledOnEmpty => Sys2Proof.Machine.execStalledOnEmpty s
  | .windowLogWaitTimeout => Sys2Proof.Machine.execWindowLogWaitTimeout s
  | .mxRaise => Sys2Proof.Machine.execMxRaise s
  | .mxEventAdd => Sys2Proof.Machine.execMxEventAdd s
  | .mxCopyStart => Sys2Proof.Machine.execMxCopyStart s
  | .mxCounterReset => Sys2Proof.Machine.execMxCounterReset s
  | .copyLineIssue => Sys2Proof.Machine.execCopyLineIssue s
  | .copyReplyPop => Sys2Proof.Machine.execCopyReplyPop s
  | .copyFinish => Sys2Proof.Machine.execCopyFinish s
  | .followOnWord => Sys2Proof.Machine.execFollowOnWord s
  | .samplerStart => Sys2Proof.Machine.execSamplerStart s
  | .samplerReply => Sys2Proof.Machine.execSamplerReply s
  | .samplerStallTimeout => Sys2Proof.Machine.execSamplerStallTimeout s
  | .pagealloc => Sys2Proof.Machine.execPagealloc s
  | .pagefree => Sys2Proof.Machine.execPagefree s
  | .layoutset => Sys2Proof.Machine.execLayoutset s
  | .logrec => Sys2Proof.Machine.execLogrec s
  | .restartRowRing => Sys2Proof.Machine.execRestartRowRing s
  | .restartMatrixRing => Sys2Proof.Machine.execRestartMatrixRing s
  | .smpclr => Sys2Proof.Machine.execSmpclr s
  | .nop => Sys2Proof.Machine.execNop s
  | .done => Sys2Proof.Machine.execDone s
  | .tret => Sys2Proof.Machine.execTret s
  | .bopen => Sys2Proof.Machine.execBopen s
  | .bswitch => Sys2Proof.Machine.execBswitch s
  | .smpEndp => Sys2Proof.Machine.execSmpEndp s
  | .smpNorm => Sys2Proof.Machine.execSmpNorm s
  | .smpGumb => Sys2Proof.Machine.execSmpGumb s
  | .reservedKindEntry => Sys2Proof.Machine.execReservedKindEntry s

end Sys2Proof.Machine
end

