-- ==== Sys2Proof/Machine/Agents.lean ====
section
/-! DEFINITION. How each agent makes a move: fetch and decode of the four instruction streams (06 R107 to R111; 09 R200; 12 R237 to R241, R260, R261), the steps without encoding, which agents have a move to make, and where an instruction stands to be fetched next (logs 2, 4). -/

namespace Sys2Proof.Machine

/-! ### The scalar stream -/

/-- Runs a decoded scalar word (12 R259). -/
def runScalarWord (w : Nat) (s : State) : Out :=
  match decodeScalar w with
  | .ok i => exec i s
  | .error _ => exec (.illegalInstruction w) s

/-- Whether a latched prefix has a legal rounding field (R240). -/
def Pfx.rndOk (p : Pfx) : Bool := if p.rv then decide (p.rnd < 4) else p.rnd == 0

/-- Runs the word after a prefix whose fields are latched: a pair that R240 does not allow is an illegal instruction. -/
def runPrefixed (p : Pfx) (w : Nat) (s : State) : Out :=
  match decodeScalar w with
  | .ok i => if p.rndOk && pfxLegal p.rv p.sat p.hi i then exec i s else exec (.illegalInstruction w) s
  | .error _ => exec (.illegalInstruction w) s

/-- The second word of a pair, where the first has been latched. -/
def runPair (c x a : Nat) (s : State) : Out :=
  match (s.cx c x).pfx with
  | none => .next s
  | some p =>
    match fetchWord c (a + 4) s with
    | .error e => .next (s.stopFetch c x e)
    | .ok (w, t) => runPrefixed p w t

/-- Runs a prefix word whose fields are any, and the word after it. -/
def runPfx (c x a rnd : Nat) (rv sat : Bool) (hi : Nat) (s : State) : Out :=
  match exec (.pfx rnd rv sat hi) s with
  | .next u => runPair c x a u
  | o => o

/-- Fetches and runs the instruction at the program counter: one word, or a prefix and its word (12 R239). A prefix with a reserved rounding is reported with its word (12 R240, R259). -/
def fetchRun (c x : Nat) (s : State) : Out :=
  let a := (s.cx c x).pc.toNat
  match fetchWord c a s with
  | .error e => .next (s.stopFetch c x e)
  | .ok (w, t) =>
    match decodeScalar w with
    | .ok (.pfx rnd rv sat hi) => runPfx c x a rnd rv sat hi t
    | .ok _ => runScalarWord w t
    | .error _ =>
      if w / 2 ^ 26 = 0x3F then runPfx c x a (bitsOf w 25 23) (bitAt w 22) (bitAt w 21) (bitsOf w 20 0) t
      else runScalarWord w t

/-- A copy fault that a context must take at this boundary, with those that remain (04 R78). -/
def copyTrapOf (x : Nat) : List (Nat × Cause × Nat) → Option ((Cause × Nat) × List (Nat × Cause × Nat))
  | [] => none
  | t :: r => if t.1 = x then some (t.2, r) else (copyTrapOf x r).map (fun p => (p.1, t :: p.2))

/-- The trap that a copy or an overrun barrier raises in a context, which takes it at its boundary (04 R75, R78; 06 R129). What it failed on has been counted, and the kernel has refused a cause that could have been resumed. -/
def State.unitTrap (s : State) (c x : Nat) (t : Cause × Nat) : State :=
  s.raiseRefused c x t.1 t.2 (s.cx c x).pc.toNat

/-- A move of a scalar context (06 R108; 13 R294, R297): traps that other units raise come at the boundary before the next instruction, and so not while an access that changes something is under way. A core that drains lets such an access reach its end (05 R95). -/
def scalarMove (c x : Nat) (s : State) : Out :=
  let k := s.core c
  let q := s.cx c x
  let mid := s.midAccess c x
  if !((k.phase == .running || (k.phase == .draining && mid)) && q.live) then .next s
  else if x = 0 ∧ !k.engineTraps.isEmpty ∧ s.mainOpen c then exec .engineFault { s with cur := .event .engineFault c 0 }
  else
    match q.wait with
    | .none =>
      match if mid then none else copyTrapOf x k.copyTraps with
      | some (t, r) => .next ((s.updCore c (fun k => { k with copyTraps := r })).unitTrap c x t)
      | none => fetchRun c x s
    | .reply _ => fetchRun c x s
    | _ => .next s

/-! ### The rings -/

/-- Runs a word of a ring: a reserved opcode is ill-formed (12 R260). -/
def runRingWord (m : Bool) (w : Nat) (s : State) : Out :=
  match (if m then decodeMat w else decodeRow w) with
  | .ok i => exec i s
  | .error _ => exec (.illFormedWord m.toNat w) s

/-- The address and the bytes of a ring's slot for word n (06 R110). -/
def slotAt (k : Core) (m : Bool) (n : Nat) : Nat × Nat :=
  let bytes := if m then 24 else 12
  ((k.ring m).base + bytes * (n % (k.ring m).size), bytes)

/-- The bits of the word in a ring's slot for word n; full bits do not matter (R111). -/
def ringSlot (k : Core) (m : Bool) (n : Nat) : Nat := let (a, b) := slotAt k m n; ofBytes (k.spad.part a b)

/-- Runs word RD of a ring as it lies in its slot. One that has a poisoned word faults (06 R126); what is corrected counts when the word is dequeued (06 R141). -/
def runSlot (c : Nat) (m : Bool) (s : State) : Out :=
  let k := s.core c
  let rd := (k.ring m).rd
  let (a, n) := slotAt k m rd
  let w := ringSlot k m rd
  match (List.range' (a / 8) ((a + n + 7) / 8 - a / 8)).find? (k.spoison.get false) with
  | some i => .next (s.haltWord c m .poison (8 * i) w [])
  | none =>
    match runRingWord m w s with
    | .next t => .next (if ((t.core c).ring m).rd = rd then t else t.noteRead c 4 (a / 8) ((a + n + 7) / 8))
    | o => o

/-- A move of an engine: a word under way goes on; else a follow-on word, else word RD, where the ring has one and it is not cancelled (06 R111, R119; 15 R344). -/
def engineMove (c : Nat) (m : Bool) (s : State) : Out :=
  let k := s.core c
  let r := k.ring m
  match r.word with
  | some w => runRingWord m w s
  | none =>
    if m && !k.follow.isEmpty then exec .followOnWord { s with cur := .event .followOnWord c 0 }
    else if !(k.engineFree m && decide (r.rd < r.rel)) then .next s
    else if r.cancelled.contains r.rd then
      .next (s.updRing c m (fun r => { r with rd := r.rd + 1, cancelled := r.cancelled.filter (· != r.rd), tags := r.tags.put none r.rd none }))
    else runSlot c m s

/-! ### The sampler -/

/-- A move of a sequence context: the word at its program counter, of the scratchpad of the core that started it (09 R200; 12 R261). -/
def samplerMove (n : Nat) (s : State) : Out :=
  let q := s.seq n
  let k := s.core q.core
  if !seqRuns s q || q.reply.isSome then .next s
  else
    let inside := decide (q.pc + 4 ≤ k.spadLimit)
    let w := if inside then ofBytes (k.sampled q.pc 4) else 0
    let out := match decodeSampler w with
      | .ok i => exec i s
      | .error _ => exec (.illformedSamplerWord w) s
    match out with
    | .next t => .next (if inside && (t.seq n).emptyAt.isNone then t.noteLoad q.core q.pc 4 else t)
    | o => o

/-! ### Moves -/

/-- The steps that an event may name: those that no stream fetches. -/
def isStep (i : Instr) : Bool := (encode i).isNone && (match i with
  | .illegalInstruction .. => false
  | .illFormedWord .. => false
  | .illformedSamplerWord .. => false
  | _ => true)

/-- The move of an agent, which cur names. -/
def moveOf (a : Agent) (s : State) : Out :=
  match a with
  | .idle => .next s
  | .scalar c x => scalarMove c x s
  | .row c => engineMove c false s
  | .mat c => engineMove c true s
  | .sampler n => samplerMove n s
  | .event i _ _ => if isStep i then exec i s else .next s

/-! ### Whose move it is (log 2) -/

/-- The step for the ring entry of a kind on an interface (03 R48, R60). -/
def entryStep (v kind : Nat) : Instr :=
  match kind with
  | 0x01 => .load
  | 0x02 => .launch
  | 0x03 => .unload
  | 0x04 => .nopEntry
  | k =>
    if v ≠ 0 then .reservedKindEntry
    else
      match k with
      | 0x10 => .viset
      | 0x11 => .keyset
      | 0x12 => .ctxnew
      | 0x13 => .ctxfree
      | 0x14 => .peerset
      | 0x15 => .routeset
      | 0x16 => .clockset
      | 0x17 => .mapPage
      | 0x18 => .vireset
      | _ => .reservedKindEntry

/-- Porter's moves. -/
def State.porterMoves (s : State) : List Agent :=
  s.vis.filterMap (fun p =>
    if !p.2.run || (p.2.taken.isNone && s.behind p.1 == 0) then none
    else if p.2.taken.isNone && p.2.pubdepth < s.behind p.1 then some (.event .overrun p.1 0)
    else some (.event (entryStep p.1 (s.entry p.1 % 256)) p.1 0))

/-- The walkers' moves (05). -/
def State.walkerMoves (s : State) : List Agent :=
  (if s.launches.isEmpty then [] else (List.range 4).map (fun d => .event .dispatch d 0)) ++
    s.launches.flatMap (fun l =>
      (if l.wantsSnap then [.event .batchSnapshot l.id 0] else []) ++
      (if !l.finished then [] else if s.holdsAdds l.id then [.event .orderedFaddApply l.id 0] else [.event .launchEnd l.id 0]))

/-- The step for a service request (13 R293). -/
def serviceStep (code : Nat) : Instr :=
  match code with
  | 2 => .pagefree
  | 3 => .layoutset
  | 4 => .logrec
  | _ => .pagealloc

/-- The step of a Marionette action of a kind (06 R134). -/
def mxStep (kind : Nat) : Instr :=
  match kind with
  | 1 => .mxRaise
  | 2 => .mxEventAdd
  | 3 => .mxCopyStart
  | _ => .mxCounterReset

/-- A channel's move. -/
def Chan.move (c n : Nat) (h : Chan) : List Agent :=
  match h.phase with
  | .idle => []
  | .reply => [.event .copyReplyPop c n]
  | .await => [.event .copyLineIssue c n]
  | .lines =>
    (if h.failed.isNone && h.stopped.isNone && decide (h.issued < h.total) then [.event .copyLineIssue c n] else []) ++
    (match h.flight.find? h.mayLand with
     | some l => [.event (.copyLineLand c n l.line) c n]
     | none => []) ++
    (if h.flight.isEmpty && (h.failed.isSome || decide (h.issued = h.total)) then [.event .copyFinish c n] else [])

/-- A core's moves. -/
def Phys.moves (c : Nat) (p : Phys) : List Agent :=
  let k := p.k
  let chans := k.chan.flatMap (fun h => h.2.move c h.1)
  (match k.phase with
   | .dispatched => [.event .itemStart c 0]
   | .draining => .event .preemptionSave c 0 :: .row c :: .mat c :: chans ++ (k.cx.filter (·.2.live)).map (fun q => .scalar c q.1)
   | .running =>
     k.cx.filterMap (fun q => if q.2.live then (match q.2.wait with
       | .none => some (.scalar c q.1)
       | .reply _ => some (.scalar c q.1)
       | .service _ => if q.1 = 0 ∧ !k.engineTraps.isEmpty then some (.scalar c 0) else none
       | _ => none) else none)
     ++ [.row c, .mat c] ++ chans
     ++ (if k.complete then [.event .completionEvent c 0] else [])
     ++ (if k.hndst % 2 == 0 && k.deliveries.any (·.ready) then [.event .trapDelivery c 0] else [])
     ++ (if (k.queue 6).isEmpty then [] else [.event .samplerStart c 0])
   | _ => [])
  ++ (if p.testDue && (k.phase == .free || k.phase == .running) then [.event .infieldTest c 0] else [])
  ++ k.mxdue.map (fun d => .event (mxStep (bitsOf d.2 18 16)) c d.1)
  ++ k.mxpend.map (fun e => .event .mxCopyStart c e.1)
  ++ (match p.topSaved with
      | some (_, t) => [.event (if t.tk.gang then .gangResume else .taskResume) c 0]
      | none => [])

/-- The kernel's moves: the oldest request of each context (03 R59). -/
def State.serviceMoves (s : State) : List Agent :=
  s.requests.zipIdx.filterMap (fun p => (s.asker p.1).map (fun k => .event (serviceStep (k.spad.num p.1.blk 2)) p.2 0))

/-- The step for a received command (01 R17). -/
def peerStep (op : Nat) : Instr :=
  match op with
  | 0x01 => .peerRead
  | 0x02 => .peerWrite
  | 0x03 => .peerAtomic
  | 0x04 => .exactAccumulate
  | 0x05 => .eventCounterAdd
  | 0x08 => .readResponse
  | 0x09 => .writeAcknowledge
  | 0x0A => .atomicResponse
  | _ => .errorResponse

/-- Every agent that may have a move to make. -/
def State.movers (s : State) : List Agent :=
  if s.boot ≠ 1 then []
  else
    s.porterMoves ++ s.walkerMoves ++ s.serviceMoves ++ s.cores.flatMap (fun p => p.2.moves p.1)
      ++ s.seqs.filterMap (fun q => if q.2.reply.isSome then some (.event .samplerReply q.1 0) else if q.2.st = 1 then some (.sampler q.1) else none)
      ++ s.walks.zipIdx.map (fun p => .event .tableWalk p.2 0)
      ++ (match s.rx with | [] => [] | r :: _ => [.event (peerStep r.op) 0 0])
      ++ (s.vis.filter (·.2.restart)).map (fun p => .event .warmRestart p.1 0)
      ++ (if s.invals.isEmpty then [] else [.event .invalidationCompletion 0 0])
      ++ s.slices.filterMap (fun e => if e.2.erecs.isEmpty then none else some (.event .energyRecordWrite e.1 0))

/-- Whose move it is: the oldest of the agenda; where that is empty, the agents that may have a move, in turn by the count of moves (log 2). -/
def State.pick (s : State) : Agent :=
  match s.agenda with
  | a :: _ => a
  | [] => let l := s.movers; l.getD (s.tick % l.length) .idle

/-- The state in which an agent makes its move: the agenda has lost its head. -/
def State.acting (s : State) : State := { s with agenda := s.agenda.tail, cur := s.pick }

/-- Whether something of a core is stalled on an empty line (06 R128, R133). -/
def Core.onEmpty (k : Core) : Bool :=
  k.cx.any (fun q => q.2.emptyAt.isSome) || k.row.emptyAt.isSome || k.mat.emptyAt.isSome || k.chan.any (fun h => h.2.emptyAt.isSome)

/-- What the cycles of a move do in a core: Marionette counts them and evaluates its inputs (06 R133, R134). -/
def Core.cycles (n : Nat) (k : Core) : Core :=
  let k := if k.mxsel.isEmpty then k else k.mxCount 1 n
  let k := if k.mxsel.isEmpty || !k.onEmpty then k else k.mxCount 6 n
  k.mxEval

/-- After a move: the count of moves goes up, each core's cycles pass (log 3), and strong writes on their way may reach their homes (log 7). -/
def State.after (s : State) : State :=
  { s with
    tick := s.tick + 1
    cores := s.cores.mapVals {} (fun c p => { p with k := p.k.cycles (Config.cycles (24 * s.tick + clusterOf c)) }) }.drainAll

/-! ### Where an instruction is fetched next (log 4) -/

/-- A task of context 1 on core 0 with every claim. -/
def probeTask : Task :=
  { ctx := 1, claims := { cores := 192, spad := 524288, regs := 2 ^ 23 - 1, sync := 2 ^ 55 - 1, coder := 2 ^ 80 - 1, spec := 0x2F
                          copy := 0xFFFF, queues := 0xFF, events := 64, layout := 65536, memory := 64, sampler := 64, priority := 3
                          peer := 2 ^ 64 - 1 } }

/-- The page tables of context 1: the 64 KiB page at virtual address 0x1_0000, on frame 1, readable and executable (04 R63 to R65). -/
def probeTables : List (Nat × Store Nat) :=
  [(0x100, [(0, 0x101001)]), (0x101, [(0, 0x102001)]), (0x102, [(0, 0x103001)]),
   (0x103, (List.range 16).map (fun i => (16 + i, 0x100D5 + 0x1000 * i)))]

/-- A ready device whose core 0 runs the task; f places what its streams need. -/
def State.placed (s : State) (a : Agent) (f : Core → Core) : State :=
  { s with boot := 1, agenda := [a] }.updCore 0 (fun k => f { k with holder := some 1, task := some probeTask, phase := .running })

/-- The scalar word of 32 bits at the main context's program counter. -/
def State.placeScalar (s : State) (w : Nat) : State :=
  let s : State := { s with tables := probeTables.foldl (fun (m : Store (Store Nat)) p => m.put [] p.1 p.2) s.tables }
  let s := s.updCtx 1 (fun r => { r with live := true, root := 0x100 })
  let s := s.placed (.scalar 0 0) (fun k => { k with
    engineTraps := [], copyTraps := []
    cx := k.cx.upd {} 0 (fun q => { q with live := true, pc := 0x10000, wait := .none, rep := .none, pfx := none }) })
  { (s.updPhys 0 (fun p => { p with icache := [] })).initMem 0x10000 8 (toBytes 8 (w % 2 ^ 32)) with walks := [] }

/-- A ring word released as the next of its ring. -/
def State.placeRing (s : State) (m : Bool) (w : Nat) : State :=
  s.placed (if m then .mat 0 else .row 0) (fun k =>
    { k.updRing m (fun r => { r with base := 0, size := 1, rel := r.rd + 1, word := none, halted := false, held := none, notified := false, cancelled := [] }) with
      follow := [], spad := k.spad.setNum 0 (if m then 24 else 12) w })

/-- A sampler word at the program counter of sequence context 0. -/
def State.placeSampler (s : State) (w : Nat) : State :=
  (s.placed (.sampler 0) (fun k => { k with spad := k.spad.setNum 0 4 w })).updSeq 0 (fun q =>
    { q with owner := some (0, 0, 0), core := 0, launch := 0, item := 0, pc := 0, st := 1, reply := none, emptyAt := none })

end Sys2Proof.Machine
end

