-- ==== Sys2Proof/Machine/Step.lean ====
section
/-! DEFINITION. The step: the agent whose move it is makes it, and the count of moves goes up. -/

namespace Sys2Proof.Machine

/-- One step of the device. -/
def step (s : State) : Host.Outcome State Fault Refusal :=
  match moveOf s.pick s.acting with
  | .next t => .next t.after
  | .fault f => .fault f
  | .refused r => .refused r

/-- The state with an instruction placed where the next step fetches it (log 4): a row word of 96 bits, a matrix word of 192, or a word of 32 bits, of the scalar stream where decodeTableWord reads it so and else of the sampler. -/
def State.withFetchWord (s : State) (nbits w : Nat) : State :=
  if nbits = 96 then s.placeRing false w
  else if nbits = 192 then s.placeRing true w
  else
    match decodeScalar w, decodeSampler w with
    | .error _, .ok _ => s.placeSampler w
    | _, _ => s.placeScalar w

end Sys2Proof.Machine
end

