-- ==== Sys2Proof/Safety.lean ====
section
/-! DEFINITION. The terms that claims about the machine use: what a move may leave unchanged, when an instruction may issue, and the invariants of a run. -/

namespace Sys2Proof.Stated

open Sys2Proof.Machine

/-! ### Frames -/

/-- Nothing of the device changes but the task state that core c holds. -/
structure OutsideSame (s t : State) (c : Nat) : Prop where
  device : t = { s with cores := t.cores }
  others : ∀ n, n ≠ c → t.phys n = s.phys n
  own : t.phys c = { s.phys c with k := t.core c }

/-- A context differs only in what steers it: program counter, loop levels and counters, repeat, pending transfer, prefix, and the marks of a stall and of an access under way. -/
def FlowOnly (p q : Ctx) : Prop :=
  q = { p with pc := q.pc, lc := q.lc, loops := q.loops, rep := q.rep, pend := q.pend, pfx := q.pfx
               stalled := q.stalled, emptyAt := q.emptyAt, emptyFor := q.emptyFor, logWait := q.logWait, held := q.held, slot := q.slot
               takes := q.takes }

/-- A scalar instruction of context x on core c completed with effect k on the core's task state: beside it only the context's flow and Marionette's count of instructions change. -/
structure Effect (s t : State) (c x : Nat) (k : Core) : Prop where
  outside : OutsideSame s t c
  core : t.core c = { k with cx := (t.core c).cx, mxcnt := (t.core c).mxcnt }
  others : ∀ y, y ≠ x → t.cx c y = k.cx.get {} y
  own : FlowOnly (k.cx.get {} x) (t.cx c x)

/-- An instruction over registers completed: source queues gave an entry each, dst holds v or its queue gained v, a write to s0 is discarded, FPFLAGS gained fl (13 R263; 12 R238; 06 R116). Every other register and bit of the context, every other queue, all of scratchpad and of memory stay. -/
structure RegEffect (s t : State) (c x : Nat) (srcs : List Nat) (dst : Option Nat) (v : W64) (fl : Nat) : Prop where
  outside : OutsideSame s t c
  core : t.core c = { s.core c with cx := (t.core c).cx, q := (t.core c).q, fpflags := (s.core c).fpflags ||| fl, mxcnt := (t.core c).mxcnt }
  others : ∀ y, y ≠ x → t.cx c y = s.cx c y
  own : FlowOnly { s.cx c x with s := (t.cx c x).s } (t.cx c x)
  reg : ∀ r, 0 < r → r < 24 → (t.cx c x).s.get 0 r = if dst = some r then v else (s.cx c x).s.get 0 r
  zero : readReg (t.core c) (t.cx c x) 0 = 0
  queue : ∀ n, (t.core c).queue n =
    (if n + 24 ∈ srcs then ((s.core c).queue n).tail else (s.core c).queue n) ++ (if dst = some (n + 24) then [v] else [])
  mem : ∀ a, t.mem.read a = s.mem.read a
  spad : ∀ a, (t.core c).spad.read a = (s.core c).spad.read a

/-- As RegEffect, for an instruction that writes condition bit n (13 R267, R269). -/
structure CondEffect (s t : State) (c x : Nat) (srcs : List Nat) (n : Nat) (v : Bool) (fl : Nat) : Prop where
  outside : OutsideSame s t c
  core : t.core c = { s.core c with cx := (t.core c).cx, q := (t.core c).q, fpflags := (s.core c).fpflags ||| fl, mxcnt := (t.core c).mxcnt }
  others : ∀ y, y ≠ x → t.cx c y = s.cx c y
  own : FlowOnly { s.cx c x with c := (t.cx c x).c } (t.cx c x)
  bit : ∀ m, (t.cx c x).c.get false m = if m = n then v else (s.cx c x).c.get false m
  queue : ∀ m, (t.core c).queue m = if m + 24 ∈ srcs then ((s.core c).queue m).tail else (s.core c).queue m
  mem : ∀ a, t.mem.read a = s.mem.read a
  spad : ∀ a, (t.core c).spad.read a = (s.core c).spad.read a

/-! ### When a scalar instruction issues -/

/-- Context x of core c makes the move, and no repeat of 0 passes over its instruction. -/
structure Issues (s : State) (c x : Nat) : Prop where
  cur : s.cur = .scalar c x
  run : (s.cx c x).rep ≠ .skip

/-- It may also be an instruction that stands in no delay slot and under no repeat (13 R273, R277). -/
structure IssuesControl (s : State) (c x : Nat) : Prop extends Issues s c x where
  noTransfer : (s.cx c x).pend = none
  noRepeat : (s.cx c x).rep = .none

/-- Register operands of context x that neither trap nor stall: a source queue is odd, claimed, not fed to a copy channel and not empty, and no other context's instruction under way takes its oldest entry; a destination queue is even, claimed and not full (06 R116; 12 R259). -/
structure Usable (k : Core) (x : Nat) (srcs : List Nat) (dst : Option Nat) : Prop where
  src : ∀ q, q + 24 ∈ srcs → q % 2 = 1 ∧ ¬(q = 7 ∧ k.q7chan.isSome) ∧ k.cl.has (.queue q) = true ∧ k.queue q ≠ []
  free : ∀ q, q + 24 ∈ srcs → k.taken x q = false
  dst : ∀ q, dst = some (q + 24) → q % 2 = 0 ∧ k.cl.has (.queue q) = true ∧ (k.queue q).length < qDepth q

/-- The value of source register r of context x. -/
abbrev src (s : State) (c x r : Nat) : W64 := readReg (s.core c) (s.cx c x) r

/-! ### What the integer and condition functions compute (13 R265 to R267) -/

/-- A function of the first two operands. -/
def two (g : W64 → W64 → W64) (vs : List W64) : W64 := g (vs.getD 0 0) (vs.getD 1 0)
/-- A function of the first operand. -/
def one (g : W64 → W64) (vs : List W64) : W64 := g (vs.getD 0 0)

/-- An exact integer modulo 2^64. -/
abbrev ofI (n : Int) : W64 := BitVec.ofInt 64 n
/-- An exact natural number modulo 2^64. -/
abbrev ofN (n : Nat) : W64 := BitVec.ofNat 64 n

/-- Zero bits before the first set bit, where bit lists the bits in the order of the count. -/
def zerosBefore (bit : Nat → Bool) : Nat := ((List.range 64).takeWhile (fun i => !bit i)).length

/-- Destination, sources and result of the register-register integer functions (13 R265). -/
inductive IntForm : Instr → Nat → List Nat → (List W64 → W64) → Prop where
  | add (d a b : Nat) : IntForm (.add d a b) d [a, b] (two (fun x y => x + y))
  | sub (d a b : Nat) : IntForm (.sub d a b) d [a, b] (two (fun x y => x - y))
  | iand (d a b : Nat) : IntForm (.iand d a b) d [a, b] (two (fun x y => x &&& y))
  | ior (d a b : Nat) : IntForm (.ior d a b) d [a, b] (two (fun x y => x ||| y))
  | ixor (d a b : Nat) : IntForm (.ixor d a b) d [a, b] (two (fun x y => x ^^^ y))
  | sll (d a b : Nat) : IntForm (.sll d a b) d [a, b] (two (fun x y => ofN (x.toNat * 2 ^ (y.toNat % 64))))
  | srl (d a b : Nat) : IntForm (.srl d a b) d [a, b] (two (fun x y => ofN (x.toNat / 2 ^ (y.toNat % 64))))
  | sra (d a b : Nat) : IntForm (.sra d a b) d [a, b] (two (fun x y => ofI (x.toInt / 2 ^ (y.toNat % 64))))
  | mul (d a b : Nat) : IntForm (.mul d a b) d [a, b] (two (fun x y => ofI (x.toInt * y.toInt)))
  | mulh (d a b : Nat) : IntForm (.mulh d a b) d [a, b] (two (fun x y => ofI (x.toInt * y.toInt / 2 ^ 64)))
  | mulhu (d a b : Nat) : IntForm (.mulhu d a b) d [a, b] (two (fun x y => ofN (x.toNat * y.toNat / 2 ^ 64)))
  | div (d a b : Nat) : IntForm (.div d a b) d [a, b] (two (fun x y => if y = 0 then BitVec.allOnes 64 else ofI (x.toInt.tdiv y.toInt)))
  | divu (d a b : Nat) : IntForm (.divu d a b) d [a, b] (two (fun x y => if y = 0 then BitVec.allOnes 64 else ofN (x.toNat / y.toNat)))
  | rem (d a b : Nat) : IntForm (.rem d a b) d [a, b] (two (fun x y => if y = 0 then x else ofI (x.toInt - y.toInt * x.toInt.tdiv y.toInt)))
  | remu (d a b : Nat) : IntForm (.remu d a b) d [a, b] (two (fun x y => if y = 0 then x else ofN (x.toNat % y.toNat)))
  | min (d a b : Nat) : IntForm (.min d a b) d [a, b] (two (fun x y => ofI (Min.min x.toInt y.toInt)))
  | max (d a b : Nat) : IntForm (.max d a b) d [a, b] (two (fun x y => ofI (Max.max x.toInt y.toInt)))
  | minu (d a b : Nat) : IntForm (.minu d a b) d [a, b] (two (fun x y => ofN (Min.min x.toNat y.toNat)))
  | maxu (d a b : Nat) : IntForm (.maxu d a b) d [a, b] (two (fun x y => ofN (Max.max x.toNat y.toNat)))
  | clz (d a : Nat) : IntForm (.clz d a) d [a] (one (fun x => ofN (zerosBefore (fun i => x.getLsbD (63 - i)))))
  | ctz (d a : Nat) : IntForm (.ctz d a) d [a] (one (fun x => ofN (zerosBefore x.getLsbD)))
  | popc (d a : Nat) : IntForm (.popc d a) d [a] (one (fun x => ofN ((List.range 64).filter x.getLsbD).length))
  | sext (d a fmt : Nat) : IntForm (.sext d a fmt) d [a] (one (fun x => (x.setWidth (8 * 2 ^ fmt)).signExtend 64))
  | zext (d a fmt : Nat) : IntForm (.zext d a fmt) d [a] (one (fun x => (x.setWidth (8 * 2 ^ (fmt - 4))).setWidth 64))

/-- Destination, sources and exact integer result of the functions that take .sat (13 R265). -/
inductive SatForm : Instr → Nat → List Nat → (Int → Int → Int) → Prop where
  | add (d a b : Nat) : SatForm (.add d a b) d [a, b] (fun x y => x + y)
  | sub (d a b : Nat) : SatForm (.sub d a b) d [a, b] (fun x y => x - y)
  | mul (d a b : Nat) : SatForm (.mul d a b) d [a, b] (fun x y => x * y)

/-- The signed immediate of a field of w bits: with a prefix, its 21 high bits stand above the field (12 R241). -/
def signedImm (q : Ctx) (w f : Nat) : Int :=
  match q.pfx with
  | none => (BitVec.ofNat w f).toInt
  | some p => (BitVec.ofNat 21 p.hi ++ BitVec.ofNat w f).toInt

/-- The unsigned immediate of a field of 16 bits (12 R241). -/
def unsignedImm (q : Ctx) (f : Nat) : Nat :=
  match q.pfx with
  | none => (BitVec.ofNat 16 f).toNat
  | some p => (BitVec.ofNat 21 p.hi ++ BitVec.ofNat 16 f).toNat

/-- The immediate of movhi (12 R241). -/
def highImm (q : Ctx) (f : Nat) : Nat :=
  match q.pfx with
  | none => (BitVec.ofNat 16 f).toNat * 2 ^ 16
  | some p => (BitVec.ofNat 16 p.hi ++ BitVec.ofNat 16 f).toNat * 2 ^ 16

/-- Destination, sources and result of the register-immediate forms (13 R266). -/
inductive ImmForm (q : Ctx) : Instr → Nat → List Nat → (List W64 → W64) → Prop where
  | addi (d a imm : Nat) : ImmForm q (.addi d a imm) d [a] (one (fun x => ofI (x.toNat + signedImm q 16 imm)))
  | andi (d a imm : Nat) : ImmForm q (.andi d a imm) d [a] (one (fun x => x &&& ofN (unsignedImm q imm)))
  | ori (d a imm : Nat) : ImmForm q (.ori d a imm) d [a] (one (fun x => x ||| ofN (unsignedImm q imm)))
  | xori (d a imm : Nat) : ImmForm q (.xori d a imm) d [a] (one (fun x => x ^^^ ofN (unsignedImm q imm)))
  | slli (d a n : Nat) : ImmForm q (.slli d a n) d [a] (one (fun x => ofN (x.toNat * 2 ^ n)))
  | srli (d a n : Nat) : ImmForm q (.srli d a n) d [a] (one (fun x => ofN (x.toNat / 2 ^ n)))
  | srai (d a n : Nat) : ImmForm q (.srai d a n) d [a] (one (fun x => ofI (x.toInt / 2 ^ n)))
  | movi (d imm : Nat) : ImmForm q (.movi d imm) d [] (fun _ => ofI (signedImm q 16 imm))
  | movhi (d imm : Nat) : ImmForm q (.movhi d imm) d [] (fun _ => ofN (highImm q imm))

/-- A condition code on two words (13 R267; 12 R242): eq, ne, lt and ge signed, ltu, geu. -/
def relHolds (cond : Nat) (x y : W64) : Bool :=
  match cond with
  | 0 => x == y
  | 1 => x != y
  | 2 => x.slt y
  | 3 => y.sle x
  | 4 => x.ult y
  | _ => y.ule x

/-- Condition bit written, sources and value of the instructions that write a condition bit without flags (13 R267). -/
inductive CondForm (q : Ctx) : Instr → Nat → List Nat → (List W64 → Bool) → Prop where
  | cmpi (cond c a imm : Nat) : CondForm q (.cmpi cond c a imm) c [a] (fun vs => relHolds cond (vs.getD 0 0) (ofI (signedImm q 13 imm)))
  | cmpEq (c a b : Nat) : CondForm q (.cmpEq c a b) c [a, b] (fun vs => relHolds 0 (vs.getD 0 0) (vs.getD 1 0))
  | cmpNe (c a b : Nat) : CondForm q (.cmpNe c a b) c [a, b] (fun vs => relHolds 1 (vs.getD 0 0) (vs.getD 1 0))
  | cmpLt (c a b : Nat) : CondForm q (.cmpLt c a b) c [a, b] (fun vs => relHolds 2 (vs.getD 0 0) (vs.getD 1 0))
  | cmpGe (c a b : Nat) : CondForm q (.cmpGe c a b) c [a, b] (fun vs => relHolds 3 (vs.getD 0 0) (vs.getD 1 0))
  | cmpLtu (c a b : Nat) : CondForm q (.cmpLtu c a b) c [a, b] (fun vs => relHolds 4 (vs.getD 0 0) (vs.getD 1 0))
  | cmpGeu (c a b : Nat) : CondForm q (.cmpGeu c a b) c [a, b] (fun vs => relHolds 5 (vs.getD 0 0) (vs.getD 1 0))
  | cand (c a b : Nat) : CondForm q (.cand c a b) c [] (fun _ => q.c.get false a && q.c.get false b)
  | cor (c a b : Nat) : CondForm q (.cor c a b) c [] (fun _ => q.c.get false a || q.c.get false b)
  | cxor (c a b : Nat) : CondForm q (.cxor c a b) c [] (fun _ => q.c.get false a != q.c.get false b)
  | cnot (c a : Nat) : CondForm q (.cnot c a) c [] (fun _ => !q.c.get false a)

/-! ### Binary64 (13 R269, R270) -/

/-- Destination, sources and exact result, with the flags of the exact operation, of the arithmetic functions: from the rounding mode and the operands' values. -/
inductive FloatForm : Instr → Nat → List Nat → (Nat → (Nat → Val) → FRes) → Prop where
  | fadd (d a b : Nat) : FloatForm (.fadd d a b) d [a, b] (fun m v => addVal m (v 0) (v 1))
  | fsub (d a b : Nat) : FloatForm (.fsub d a b) d [a, b] (fun m v => addVal m (v 0) (v 1).neg)
  | fmul (d a b : Nat) : FloatForm (.fmul d a b) d [a, b] (fun _ v => mulVal (v 0) (v 1))
  | fdiv (d a b : Nat) : FloatForm (.fdiv d a b) d [a, b] (fun _ v => divVal (v 0) (v 1))
  | fsqrt (d a : Nat) : FloatForm (.fsqrt d a) d [a] (fun _ v => sqrtVal (v 0))
  | fma (d a b : Nat) : FloatForm (.fma d a b) d [a, b, d] (fun m v => fmaVal m false (v 0) (v 1) (v 2))

/-- A binary64 pattern that is a NaN. -/
def nan64 (x : Nat) : Bool := decide (0x7FF0000000000000 < x % 2 ^ 63)
/-- A binary64 pattern that is a signalling NaN. -/
def snan64 (x : Nat) : Bool := nan64 x && decide (x % 2 ^ 52 < 2 ^ 51)

/-- The class number of a binary64 pattern (13 R269, fclass). -/
def class64 (x : Nat) : Nat :=
  let mag := x % 2 ^ 63
  let neg := decide (2 ^ 63 ≤ x)
  if nan64 x then if snan64 x then 8 else 9
  else if mag = 0x7FF0000000000000 then if neg then 0 else 7
  else if mag = 0 then if neg then 3 else 4
  else if mag < 2 ^ 52 then if neg then 2 else 5
  else if neg then 1 else 6

/-- A place in the order of binary64 numbers, -0 below +0 (13 R269). -/
def order64 (x : Nat) : Int := if x < 2 ^ 63 then x else 2 ^ 63 - 1 - x

/-- fmin's and fmax's choice: a NaN operand yields to the other, and two give the canonical NaN. -/
def select64 (first : Nat → Nat → Bool) (x y : Nat) : Nat :=
  if nan64 x then if nan64 y then 0x7FF8000000000000 else y
  else if nan64 y then x
  else if first x y then x else y

/-- The number a binary64 pattern stands for, up to order: both zeros are one. -/
def rank64 (x : Nat) : Int := if x < 2 ^ 63 then x else 2 ^ 63 - x

/-- Destination, sources, result bits and flags of the functions that do not follow FloatForm, from the rounding mode, .sat and the operands. -/
inductive FloatOther (m : Nat) (sat : Bool) : Instr → Nat → List Nat → (List Nat → Nat × Nat) → Prop where
  | fmin (d a b : Nat) : FloatOther m sat (.fmin d a b) d [a, b] (fun v =>
      (select64 (fun x y => decide (order64 x ≤ order64 y)) (v.getD 0 0) (v.getD 1 0), (v.any snan64).toNat))
  | fmax (d a b : Nat) : FloatOther m sat (.fmax d a b) d [a, b] (fun v =>
      (select64 (fun x y => decide (order64 y ≤ order64 x)) (v.getD 0 0) (v.getD 1 0), (v.any snan64).toNat))
  | fabs (d a : Nat) : FloatOther m sat (.fabs d a) d [a] (fun v =>
      if nan64 (v.getD 0 0) then (0x7FF8000000000000, (snan64 (v.getD 0 0)).toNat) else (v.getD 0 0 % 2 ^ 63, 0))
  | fneg (d a : Nat) : FloatOther m sat (.fneg d a) d [a] (fun v =>
      if nan64 (v.getD 0 0) then (0x7FF8000000000000, (snan64 (v.getD 0 0)).toNat) else (v.getD 0 0 ^^^ 2 ^ 63, 0))
  | fclass (d a : Nat) : FloatOther m sat (.fclass d a) d [a] (fun v => (2 ^ class64 (v.getD 0 0), 0))
  | cvtfi (d a fmt : Nat) : FloatOther m sat (.cvtfi d a fmt) d [a] (fun v =>
      let r := roundInt fmt m sat (valueOf F64 (v.getD 0 0))
      (if fmt < 4 then ((BitVec.ofNat (8 * fmtBytes fmt) r.1).signExtend 64).toNat else r.1, r.2))
  | cvtif (d a fmt : Nat) : FloatOther m sat (.cvtif d a fmt) d [a] (fun v => roundFloat F64 m false (valueOf fmt (v.getD 0 0)))
  | cvtff (d a fmt : Nat) : FloatOther m sat (.cvtff d a fmt) d [a] (fun v => roundFloat fmt m sat (valueOf F64 (v.getD 0 0)))
  | cvtft (d a fmt : Nat) : FloatOther m sat (.cvtft d a fmt) d [a] (fun v => roundFloat F64 0 false (valueOf fmt (v.getD 0 0)))

/-- Condition bit, sources and relation of the binary64 compares, on ordered operands; quiet ones are invalid on signalling NaNs alone. The relation's first argument says that the operands are unordered. -/
inductive FloatCompare : Instr → Nat → Nat → Nat → Bool → (Bool → Int → Int → Bool) → Prop where
  | eq (n a b : Nat) : FloatCompare (.fcmpEq n a b) n a b true (fun u x y => !u && x == y)
  | lt (n a b : Nat) : FloatCompare (.fcmpLt n a b) n a b false (fun u x y => !u && decide (x < y))
  | le (n a b : Nat) : FloatCompare (.fcmpLe n a b) n a b false (fun u x y => !u && decide (x ≤ y))
  | un (n a b : Nat) : FloatCompare (.fcmpUn n a b) n a b true (fun u _ _ => u)

/-! ### Control registers (13 R271; 06 R110, R124, R133; 07 R152; 12 R248) -/

/-- What a read of a control offset gives. -/
inductive CsrReads (s : State) (c : Nat) : Nat → Nat → Prop where
  | rowbase : CsrReads s c 0x000 (s.core c).row.base
  | bankst : CsrReads s c 0x040 ((s.core c).bank + (s.core c).row.bankA.length * 2 ^ 2 + (s.core c).row.bankB.length * 2 ^ 18
      + (s.core c).mat.bankA.length * 2 ^ 34 + (s.core c).mat.bankB.length * 2 ^ 49)
  | rowsize : CsrReads s c 0x008 (s.core c).row.size
  | rowrel : CsrReads s c 0x010 ((s.core c).row.rel % 2 ^ 32)
  | rowrd : CsrReads s c 0x018 ((s.core c).row.rd % 2 ^ 32)
  | matbase : CsrReads s c 0x020 (s.core c).mat.base
  | matsize : CsrReads s c 0x028 (s.core c).mat.size
  | matrel : CsrReads s c 0x030 ((s.core c).mat.rel % 2 ^ 32)
  | matrd : CsrReads s c 0x038 ((s.core c).mat.rd % 2 ^ 32)
  | tbpwr : CsrReads s c 0x048 (s.core c).tbpwr
  | fpflags : CsrReads s c 0x050 (s.core c).fpflags
  | pacerow : CsrReads s c 0x058 (s.core c).pacerow
  | pacemat : CsrReads s c 0x060 (s.core c).pacemat
  | cycle : CsrReads s c 0x068 (s.cycle (c / 8))
  | ctxid : CsrReads s c 0x070 (s.core c).tk.ctx
  | tvec : CsrReads s c 0x078 (s.core c).tvec.toNat
  | tcause : CsrReads s c 0x080 (s.core c).tcause
  | tval : CsrReads s c 0x088 (s.core c).tval.toNat
  | epc : CsrReads s c 0x090 (s.core c).epc.toNat
  | ringstat : CsrReads s c 0x0A0 ((s.core c).row.halted.toNat + 2 * (s.core c).mat.halted.toNat
      + 4 * (s.core c).row.held.isSome.toNat + 8 * (s.core c).mat.held.isSome.toNat)
  | hndst : CsrReads s c 0x0A8 (s.core c).hndst
  | mxsel (i : Nat) (h : i < 8) : CsrReads s c (0x100 + 0x18 * i) ((s.core c).mxsel.get 0 i)
  | mxcnt (i : Nat) (h : i < 8) : CsrReads s c (0x108 + 0x18 * i) ((s.core c).mxcnt.get 0 i)
  | mxthr (i : Nat) (h : i < 8) : CsrReads s c (0x110 + 0x18 * i) ((s.core c).mxthr.get 0 i)
  | mxterm (i : Nat) (h : i < 16) : CsrReads s c (0x200 + 8 * i) ((s.core c).mxterm.get 0 i)
  | mxact (i : Nat) (h : i < 8) : CsrReads s c (0x280 + 8 * i) ((s.core c).mxact.get 0 i)

/-- Whether a ring's BASE or SIZE may change: it holds no words and the banks are closed (06 R111). -/
def ringIdle (k : Core) (r : Ring) : Prop := r.rd = r.rel ∧ r.word = none ∧ k.bank = 0

/-- What a write of v to a control offset makes of a core, where the register takes it. -/
inductive CsrWrites (k : Core) (v : Nat) : Nat → Core → Prop where
  | rowbase (i : ringIdle k k.row) (h : v < 2 ^ 19) (al : v % 4 = 0) (n : 1 ≤ k.row.size ∧ k.row.size ≤ 43690)
      (fit : v + 12 * k.row.size ≤ k.spadLimit) : CsrWrites k v 0x000 { k with row := { k.row with base := v } }
  | rowsize (i : ringIdle k k.row) (h : k.row.base < 2 ^ 19) (al : k.row.base % 4 = 0) (n : 1 ≤ v ∧ v ≤ 43690)
      (fit : k.row.base + 12 * v ≤ k.spadLimit) : CsrWrites k v 0x008 { k with row := { k.row with size := v } }
  | matbase (i : ringIdle k k.mat) (h : v < 2 ^ 19) (al : v % 8 = 0) (n : 1 ≤ k.mat.size ∧ k.mat.size ≤ 21845)
      (fit : v + 24 * k.mat.size ≤ k.spadLimit) : CsrWrites k v 0x020 { k with mat := { k.mat with base := v } }
  | matsize (i : ringIdle k k.mat) (h : k.mat.base < 2 ^ 19) (al : k.mat.base % 8 = 0) (n : 1 ≤ v ∧ v ≤ 21845)
      (fit : k.mat.base + 24 * v ≤ k.spadLimit) : CsrWrites k v 0x028 { k with mat := { k.mat with size := v } }
  | fpflags : CsrWrites k v 0x050 { k with fpflags := k.fpflags &&& (v % 64 ^^^ 63) }
  | pacerow : CsrWrites k v 0x058 { k with pacerow := v % 2 ^ 16 }
  | pacemat : CsrWrites k v 0x060 { k with pacemat := v % 2 ^ 16 }
  | tvec (al : v % 64 = 0) (h : v < 2 ^ 48) : CsrWrites k v 0x078 { k with tvec := ofN v }
  | epc (al : v % 4 = 0) : CsrWrites k v 0x090 { k with epc := ofN v }
  | readOnly (off : Nat) (h : off ∈ [0x010, 0x018, 0x030, 0x038, 0x040, 0x048, 0x068, 0x070, 0x080, 0x088, 0x0A0, 0x0A8]) :
      CsrWrites k v off k
  | mxcnt (i : Nat) (h : i < 8) : CsrWrites k v (0x108 + 0x18 * i) { k with mxcnt := k.mxcnt.put 0 i (v % 2 ^ 32) }
  | mxthr (i : Nat) (h : i < 8) : CsrWrites k v (0x110 + 0x18 * i) { k with mxthr := k.mxthr.put 0 i (v % 2 ^ 32) }
  | mxterm (i : Nat) (h : i < 16) : CsrWrites k v (0x200 + 8 * i) { k with mxterm := k.mxterm.put 0 i v }
  | mxsel (i : Nat) (h : i < 8) (cl : ∀ n, n < 31 → v % 256 = 0x10 + n → k.cl.has (.sem n) = true) :
      CsrWrites k v (0x100 + 0x18 * i) { k with mxsel := k.mxsel.put 0 i (v % 256) }
  | mxact (i : Nat) (h : i < 8) (sem : bitsOf v 18 16 = 1 → k.cl.has (.sem (bitsOf v 24 20)) = true)
      (ev : bitsOf v 18 16 = 2 → k.cl.has (.ev (bitsOf v 31 20)) = true)
      (copy : bitsOf v 18 16 = 3 → k.cl.has (.chan (bitsOf v 23 20)) = true ∧ bitsOf v 39 24 < k.tk.templates.length) :
      CsrWrites k v (0x280 + 8 * i) { k with
        mxact := k.mxact.put 0 i (v % 2 ^ 48)
        mxprev := k.mxprev.put false i ((List.range 16).any (fun j => v.testBit j && k.mxTerm j)) }
  | ringctl (halted : k.row.halted = true ∧ k.mat.halted = false) (skip : v % 8 = 1 ∨ v % 8 = 5) :
      CsrWrites k v 0x098 { k with row := { k.row with
        halted := false, rd := if v % 8 = 5 then k.row.rd + 1 else k.row.rd
        tags := if v % 8 = 5 then k.row.tags.put none k.row.rd none else k.row.tags } }

/-! ### Moves, control and synchronisation (13 R267, R271, R272, R276, R284 to R289) -/

/-- Destination, sources and result of the reads of condition bits, loop counters and control registers. -/
inductive ReadForm (s : State) (c x : Nat) : Instr → Nat → List Nat → (List W64 → W64) → Prop where
  | sel (d a b n : Nat) : ReadForm s c x (.sel d a b n) d [a, b] (two (fun u v => if (s.cx c x).c.get false n then u else v))
  | lcget (d n : Nat) : ReadForm s c x (.lcget d n) d [] (fun _ => ofN ((s.cx c x).lc.get 0 n))
  | csrr (d off v : Nat) (h : CsrReads s c off v) : ReadForm s c x (.csrr d off) d [] (fun _ => ofN v)

/-- No array of a core is in error, no injection is armed and no window is live. -/
structure Quiet (k : Core) : Prop where
  rerr : k.rerr = []
  corr : k.corr = []
  spoison : k.spoison = []
  einj : k.einj < 2 ^ 31
  wins : k.liveWins = []

/-- None of n words from word w of a structure is in uncorrectable error (06 R123). -/
def Sound (k : Core) (st w n : Nat) : Prop := ∀ p ∈ k.rerr, p.1 < errKey st w ∨ errKey st (w + n) ≤ p.1

/-- None of n words from word w of a structure holds an error that a read corrects and counts (06 R141). -/
def NoCorr (k : Core) (st w n : Nat) : Prop := ∀ p ∈ k.corr, p.1 < errKey st w ∨ errKey st (w + n) ≤ p.1

/-- n bytes of scratchpad at an address may be read: their lines are full and their words not poisoned (06 R126, R128). -/
structure SpadReadable (k : Core) (a n : Nat) : Prop where
  full : ∀ l ∈ linesOf a n, k.isEmpty l = false
  clean : ∀ w, a / 8 ≤ w → w < (a + n + 7) / 8 → k.spoison.get false w = false

/-- The same, and the read counts no error (06 R141). -/
structure Readable (k : Core) (a n : Nat) : Prop extends SpadReadable k a n where
  exact : NoCorr k 4 (a / 8) ((a + n + 7) / 8 - a / 8)

/-- A ring after the release of j words: free for the engine, or held by the open bank (06 R111, R118). -/
inductive Released (k : Core) (r : Ring) (x j : Nat) : Ring → Prop where
  | closed (h : k.bank ≠ 1 ∧ k.bank ≠ 2) : Released k r x j { r with
      rel := r.rel + j, tags := (List.range' r.rel j).foldl (fun m i => m.put none i (k.tagOf x)) r.tags }
  | bankA (h : k.bank = 1) : Released k r x j { r with bankA := r.bankA ++ List.replicate j (k.tagOf x) }
  | bankB (h : k.bank = 2) : Released k r x j { r with bankB := r.bankB ++ List.replicate j (k.tagOf x) }

/-- The state of a tile bank set in TBPWR (06 R124). -/
def powered (k : Core) (b st : Nat) : Nat := k.tbpwr - k.tbpwr / 4 ^ b % 4 * 4 ^ b + st * 4 ^ b

/-- The byte addresses of a tile bank: four tiles a bank, five in the last (06 R121, R124). -/
def inBank (b a : Nat) : Prop := 32768 * b ≤ a ∧ a < (if b = 3 then 139264 else 32768 * b + 32768)

/-- No word that is dequeued and not complete names a tile bank (06 R125). -/
def NoWordNames (k : Core) (b : Nat) : Prop :=
  (k.row.word = none ∨ b ∉ k.row.banks) ∧ ((k.mat.word = none ∧ k.followGo = false) ∨ b ∉ k.mat.banks)

/-- A context's branch register n holds v. -/
def withBr (k : Core) (x n : Nat) (v : W64) : Core := { k with cx := k.cx.upd {} x (fun q => { q with b := q.b.put 0 n v }) }

/-- Sources, the device after what the instruction does outside the core, and the core after it, for the instructions over one core's state that may stand in a delay slot. -/
inductive SyncForm (s : State) (c x : Nat) : Instr → List Nat → State → Core → Prop where
  | nop : SyncForm s c x .nop [] s (s.core c)
  | fence (sc : Nat) : SyncForm s c x (.fence sc) [] (if sc = 0 then s else (s.drainCx c x).orderHost c) (s.core c)
  | phase (sc : Nat) (w : (s.cx c x).window = none) : SyncForm s c x (.phase sc) [] ((s.publish c sc allDone).refresh c sc) (s.core c)
  | phasePub (sc : Nat) (w : (s.cx c x).window = none) : SyncForm s c x (.phasePub sc) [] (s.publish c sc allDone) (s.core c)
  | phaseRef (sc : Nat) (w : (s.cx c x).window = none) : SyncForm s c x (.phaseRef sc) [] (s.refresh c sc) (s.core c)
  | csrw (a off : Nat) (k : Core) (h : CsrWrites (s.core c) (src s c x a).toNat off k) : SyncForm s c x (.csrw a off) [a] s k
  | pbt (n imm : Nat) : SyncForm s c x (.pbt n imm) [] s
      (withBr (s.core c) x n (ofI (((s.cx c x).pc.toNat / 64 + (BitVec.ofNat 16 imm).toInt) * 64)))
  | pbr (n a : Nat) : SyncForm s c x (.pbr n a) [a] s (withBr (s.core c) x n (src s c x a))
  | relrow (a : Nat) (r : Ring) (le : (src s c x a).toNat ≤ (s.core c).row.size)
      (room : (s.core c).row.rel + (src s c x a).toNat + (s.core c).row.bankA.length + (s.core c).row.bankB.length
        ≤ (s.core c).row.rd + (s.core c).row.size)
      (h : Released (s.core c) (s.core c).row x (src s c x a).toNat r) : SyncForm s c x (.relrow a) [a] s { s.core c with row := r }
  | relmat (a : Nat) (r : Ring) (le : (src s c x a).toNat ≤ (s.core c).mat.size)
      (room : (s.core c).mat.rel + (src s c x a).toNat + (s.core c).mat.bankA.length + (s.core c).mat.bankB.length
        ≤ (s.core c).mat.rd + (s.core c).mat.size)
      (h : Released (s.core c) (s.core c).mat x (src s c x a).toNat r) : SyncForm s c x (.relmat a) [a] s { s.core c with mat := r }
  | semraise (n : Nat) (lt : n < 31) (cl : (s.core c).cl.has (.sem n) = true) (room : (s.core c).sem.get 0 n < 65535) :
      SyncForm s c x (.semraise n) [] s { s.core c with sem := (s.core c).sem.put 0 n ((s.core c).sem.get 0 n + 1) }
  | semraiseNone : SyncForm s c x (.semraise 31) [] s (s.core c)
  | semwait (n : Nat) (lt : n < 31) (cl : (s.core c).cl.has (.sem n) = true) (some : 0 < (s.core c).sem.get 0 n) :
      SyncForm s c x (.semwait n) [] s { s.core c with sem := (s.core c).sem.put 0 n ((s.core c).sem.get 0 n - 1) }
  | semwaitNone : SyncForm s c x (.semwait 31) [] s (s.core c)
  | bopen (h : (s.core c).bank = 0) : SyncForm s c x .bopen [] s { s.core c with bank := 1 }
  | bswitch (h : (s.core c).bank = 1) : SyncForm s c x .bswitch [] s { s.core c with bank := 2 }
  | bbarm (n a v : Nat) (cl : (s.core c).cl.has (.bb n) = true)
      (h : v = (if ((s.core c).bb.get {} n).overrun then 0 else ((s.core c).bb.get {} n).count) + (src s c x a).toNat) (lt : v < 2 ^ 48) :
      SyncForm s c x (.bbarm n a) [a] s { s.core c with bb := (s.core c).bb.put {} n { count := v } }
  | bbwait (n : Nat) (cl : (s.core c).cl.has (.bb n) = true) (o : ((s.core c).bb.get {} n).overrun = false)
      (z : ((s.core c).bb.get {} n).count = 0) : SyncForm s c x (.bbwait n) [] s (s.core c)
  | cbcons (n a : Nat) (cl : (s.core c).cl.has (.cb n) = true) (le : (src s c x a).toNat ≤ ((s.core c).buf n).sizem1 + 1)
      (held : (src s c x a).toNat ≤ ((s.core c).buf n).fill) :
      SyncForm s c x (.cbcons n a) [a] s ((s.core c).consume n (src s c x a).toNat)
  | cbset (n a : Nat) (d : CBuf) (cl : (s.core c).cl.has (.cb n) = true) (al : (src s c x a).toNat % 32 = 0)
      (inside : (src s c x a).toNat + 32 ≤ (s.core c).spadLimit) (ok : Readable (s.core c) (src s c x a).toNat 32)
      (w : d.wcnt = (s.core c).spad.num ((src s c x a).toNat + 28) 4) (r : d.rcnt = (s.core c).spad.num ((src s c x a).toNat + 24) 4)
      (sz : d.sizem1 = (s.core c).spad.num (src s c x a).toNat 4 / 2 ^ 9 % 2 ^ 9) (b : d.base = (s.core c).spad.num (src s c x a).toNat 4 % 2 ^ 9)
      (e : d.wcnt = d.rcnt) (fit : 1024 * (d.base + d.sizem1 + 1) ≤ (s.core c).spadLimit)
      (old : ((s.core c).buf n).wcnt = ((s.core c).buf n).rcnt) (idle : (s.core c).bufTarget n = false) :
      SyncForm s c x (.cbset n a) [a] s { s.core c with cb := (s.core c).cb.put {} n d }
  | empty (a : Nat) (al : (src s c x a).toNat % 128 = 0) (inside : (src s c x a).toNat + 128 ≤ (s.core c).spadLimit)
      (no : (s.core c).copyTargets ((src s c x a).toNat / 128) = false) :
      SyncForm s c x (.empty a) [a] s { s.core c with empty := (s.core c).empty.put false ((src s c x a).toNat / 128) true }
  | fullset (a : Nat) (al : (src s c x a).toNat % 128 = 0) (inside : (src s c x a).toNat + 128 ≤ (s.core c).spadLimit)
      (no : (s.core c).copyTargets ((src s c x a).toNat / 128) = false) :
      SyncForm s c x (.fullset a) [a] s { s.core c with empty := (s.core c).empty.put false ((src s c x a).toNat / 128) false }
  | pwrSame (b st : Nat) (cl : ∃ n, 8192 * n < 139264 ∧ inBank b (8192 * n) ∧ (s.core c).cl.has (.tile n) = true)
      (h : (s.core c).tbpwr / 4 ^ b % 4 = st) (lt : b < 4) : SyncForm s c x (.pwr b st) [] s (s.core c)
  | pwr (b st : Nat) (cl : ∃ n, 8192 * n < 139264 ∧ inBank b (8192 * n) ∧ (s.core c).cl.has (.tile n) = true) (lt : b < 4)
      (free : NoWordNames (s.core c) b) (h : (s.core c).tbpwr / 4 ^ b % 4 ≠ st) (keeps : (s.core c).tbpwr / 4 ^ b % 4 ≠ 0 ∨ st ≠ 2) :
      SyncForm s c x (.pwr b st) [] s { s.core c with tbpwr := powered (s.core c) b st }
  | pwrOn (b : Nat) (cl : ∃ n, 8192 * n < 139264 ∧ inBank b (8192 * n) ∧ (s.core c).cl.has (.tile n) = true) (lt : b < 4)
      (free : NoWordNames (s.core c) b) (h : (s.core c).tbpwr / 4 ^ b % 4 = 0) (q : Quiet (s.core c)) :
      SyncForm s c x (.pwr b 2) [] s { s.core c with
        tbpwr := powered (s.core c) b 2, tiles := (s.core c).tiles.filter (fun p => decide (p.1 < 32768 * b ∨ (if b = 3 then 139264 else 32768 * b + 32768) ≤ p.1)) }

/-- A ring after bsel (06 R119): the words of the chosen banks are released with the steps they were held under, the words of a bank not chosen are passed over or dropped. -/
structure Selected (first : Bool) (r r' : Ring) : Prop where
  rest : r' = { r with rel := r'.rel, tags := r'.tags, cancelled := r'.cancelled, bankA := [], bankB := [] }
  rel : r'.rel = r.rel + r.bankA.length + (if first then 0 else r.bankB.length)
  cancelled : r'.cancelled = r.cancelled ++ (if first then [] else List.range' r.rel r.bankA.length)
  bankA : first = true → ∀ i, i < r.bankA.length → r'.tags.get none (r.rel + i) = r.bankA.getD i none
  bankB : first = false → ∀ i, i < r.bankB.length → r'.tags.get none (r.rel + r.bankA.length + i) = r.bankB.getD i none
  older : ∀ i, i < r.rel → r'.tags.get none i = r.tags.get none i

/-! ### Control flow (13 R272 to R277, R291, R292; 12 R245) -/

/-- The bytes of the instruction a context is at: a prefix and its word, or a word (12 R239). -/
def lenOf (q : Ctx) : Nat := if q.pfx.isSome then 8 else 4

/-- A taken transfer to t: a level whose body does not hold t disarms (13 R275). -/
def Lands (q q' : Ctx) (t : Nat) : Prop :=
  q'.pc = ofN t ∧ q'.lc = q.lc ∧ q'.loops = q.loops.filter (fun l => decide (l.start ≤ t ∧ t < l.fin))

/-- Where a context continues after an instruction that transfers nothing itself (13 R273, R274, R277): the next word, the repeated instruction, the target of a pending transfer, or the start of a body whose end this is. -/
inductive Continues (q : Ctx) : Ctx → Prop where
  | straight (q' : Ctx) (p : q.pend = none) (r : q.rep = .none ∨ q.rep = .run 1) (e : ∀ l ∈ q.loops, l.fin ≠ q.pc.toNat + lenOf q)
      (pc : q'.pc = q.pc + ofN (lenOf q)) (same : q'.lc = q.lc ∧ q'.loops = q.loops ∧ q'.pend = none ∧ q'.rep = .none) : Continues q q'
  | again (q' : Ctx) (n : Nat) (r : q.rep = .run (n + 2)) (pc : q'.pc = q.pc)
      (same : q'.lc = q.lc ∧ q'.loops = q.loops ∧ q'.pend = q.pend ∧ q'.rep = .run (n + 1)) : Continues q q'
  | delay (q' : Ctx) (o : Option Nat) (p : q.pend = some (o, 2)) (r : q.rep = .none ∨ q.rep = .run 1)
      (e : ∀ l ∈ q.loops, l.fin ≠ q.pc.toNat + lenOf q) (pc : q'.pc = q.pc + ofN (lenOf q))
      (same : q'.lc = q.lc ∧ q'.loops = q.loops ∧ q'.pend = some (o, 1) ∧ q'.rep = .none) : Continues q q'
  | land (q' : Ctx) (t : Nat) (p : q.pend = some (some t, 1)) (r : q.rep = .none ∨ q.rep = .run 1) (l : Lands q q' t)
      (same : q'.pend = none ∧ q'.rep = .none) : Continues q q'
  | fall (q' : Ctx) (p : q.pend = some (none, 1)) (r : q.rep = .none ∨ q.rep = .run 1)
      (e : ∀ l ∈ q.loops, l.fin ≠ q.pc.toNat + lenOf q) (pc : q'.pc = q.pc + ofN (lenOf q))
      (same : q'.lc = q.lc ∧ q'.loops = q.loops ∧ q'.pend = none ∧ q'.rep = .none) : Continues q q'
  | loopBack (q' : Ctx) (l : LoopLv) (r : List LoopLv) (p : q.pend = none) (n : q.rep = .none ∨ q.rep = .run 1) (ls : q.loops = l :: r)
      (e : l.fin = q.pc.toNat + lenOf q) (more : 1 < q.lc.get 0 l.n) (pc : q'.pc = ofN l.start)
      (same : q'.lc = q.lc.put 0 l.n (q.lc.get 0 l.n - 1) ∧ q'.loops = q.loops ∧ q'.pend = none ∧ q'.rep = .none) : Continues q q'
  | loopExit (q' : Ctx) (l : LoopLv) (r : List LoopLv) (p : q.pend = none) (n : q.rep = .none ∨ q.rep = .run 1) (ls : q.loops = l :: r)
      (e : l.fin = q.pc.toNat + lenOf q) (last : q.lc.get 0 l.n = 1) (out : ∀ m ∈ r, m.fin ≠ q.pc.toNat + lenOf q)
      (pc : q'.pc = q.pc + ofN (lenOf q)) (same : q'.lc = q.lc.put 0 l.n 0 ∧ q'.loops = r ∧ q'.pend = none ∧ q'.rep = .none) : Continues q q'

/-- A context goes on with the next word, having no pending transfer and no repeat, and no body ends here. -/
def NextWord (q q' : Ctx) : Prop := q'.pc = q.pc + ofN (lenOf q) ∧ q'.loops = q.loops ∧ q'.lc = q.lc

/-- No armed body ends at the end of the context's instruction. -/
def NoEnd (q : Ctx) : Prop := ∀ l ∈ q.loops, l.fin ≠ q.pc.toNat + lenOf q

/-- Whether a branch is taken: bit 4 of the field always takes it, else its condition bit does, inverted by bit 3 (12 R245). -/
def branchTaken (q : Ctx) (f : Nat) : Bool := f.testBit 4 || (q.c.get false (f % 8) != f.testBit 3)

/-- An armed body that holds the branch also holds its two delay instructions (13 R275). -/
def DelayInside (s : State) (c x : Nat) : Prop :=
  ∀ l ∈ (s.cx c x).loops, l.start ≤ (s.cx c x).pc.toNat → (s.cx c x).pc.toNat < l.fin → delayEnd s c (s.cx c x).pc.toNat ≤ l.fin

/-! ### Memory (13 R264, R278 to R283; 08 R172 to R176) -/

/-- What a load gives from the n bytes it read: i8, i16 and i32 sign-extended, the others zero-extended (13 R278; 12 R242). -/
def extended (ty n : Nat) : W64 := if ty < 3 then (BitVec.ofNat (8 * 2 ^ (ty % 4)) n).signExtend 64 else ofN n

/-- The effective address of a load or store (13 R264; 12 R241). -/
def ea (s : State) (c x a disp : Nat) : Nat := (src s c x a + ofI (signedImm (s.cx c x) 12 disp)).toNat

/-- n bytes at a virtual address lie in device memory at pa within one page, which the core's task may access so and whose translation its data TLB holds (04 R62 to R69). -/
structure Mapped (s : State) (c va n pa : Nat) (need : Need) : Prop where
  high : 2 ^ 20 ≤ va
  page : va % 4096 + n ≤ 4096
  place : (sliceOfPa pa).isSome = true
  leaf : ∃ l, translate s c va need = .ok (.dev pa, l) ∧ ∀ f, l = some f → tlbHit (s.phys c).dtlb (s.core c).tk.ctx f = true

/-- The same, where context x has a request slot, or the core has one to give (04 R70). -/
structure OnDevice (s : State) (c x va n pa : Nat) (need : Need) : Prop extends Mapped s c va n pa need where
  slot : (s.cx c x).slot = true ∨ (s.core c).outstanding < 8192

/-- No write of core c is on its way to the 8-byte words that n bytes touch; those on their way elsewhere lie within their words. -/
def NothingWaits (s : State) (c pa n : Nat) : Prop :=
  ∀ x ∈ (s.phys c).dirty, (x.word < pa / 8 ∨ (pa + n - 1) / 8 < x.word) ∧ x.off + x.bs.length ≤ 8

/-- Core c has seen every write to the words of n bytes, and none of another core is on its way there: an ordinary read does not race (08 R174). -/
def NoRace (s : State) (c base pa n : Nat) : Prop :=
  ∀ w, base + pa / 8 ≤ w → w < base + (pa + n + 7) / 8 → (s.past w).length ≤ s.seenBy c w ∧ s.onTheWay c w = []

/-- n bytes from an address as core c has seen them, with its own writes over them (08 R172, R173). -/
def bytesSeen (s : State) (c base pa n : Nat) : List Byte :=
  (((List.range' (base + pa / 8) ((pa + n + 7) / 8 - pa / 8)).flatMap (s.sees c)).drop (pa % 8)).take n

/-- Core c has read its own writes of the words of n bytes that are on their way, so that a later racing read goes behind none of them (08 R174). -/
def tookWords (s : State) (c base pa n : Nat) : State :=
  (List.range' (base + pa / 8) ((pa + n + 7) / 8 - pa / 8)).foldl (fun (t : State) w => t.tookOwn c w) s

/-- The writes of core c that are on their way lie within their words. -/
def Fits (s : State) (c : Nat) : Prop := ∀ x ∈ (s.phys c).dirty, x.off + x.bs.length ≤ 8

/-- A byte of device memory as core c has seen it, with its own writes over it (08 R172, R173). -/
def byteSeen (s : State) (c a : Nat) : Byte := (s.sees c (a / 8)).getD (a % 8) 0

/-- A word with the part of a write that lies in it over what it held. -/
def overWord (base pa : Nat) (bs : List Byte) (w : Nat) (old : List Byte) : List Byte :=
  ((wordsOf base pa bs).filter (fun q => q.1 == w)).foldl (fun b q => overlay b q.2.1 q.2.2) old

/-- A core's scratchpad may be stored to at n bytes: within the SPAD claim and no undequeued word of a ring lies there (06 R111). -/
structure Storable (k : Core) (a n : Nat) : Prop where
  quiet : Quiet k
  inside : a + n ≤ k.spadLimit
  low : a < 0x80000
  row : slotBusy k.row 12 k.row.inBanks a n = false
  mat : slotBusy k.mat 24 k.mat.inBanks a n = false

/-- A core with n bytes of v in its scratchpad at an address. -/
def spadWith (k : Core) (a n v : Nat) : Core := { k with spad := k.spad.setPart a (toBytes n v) }

/-- The integer operations of the atomics (13 R280): operands, width, scope, order, and the new value from the old one and sB. -/
inductive AmoForm (d a b w sc o : Nat) : Instr → ((w : Nat) → BitVec w → BitVec w → BitVec w) → Prop where
  | add : AmoForm d a b w sc o (.amoAdd d a b w sc o) (fun _ x y => x + y)
  | swap : AmoForm d a b w sc o (.amoSwap d a b w sc o) (fun _ _ y => y)
  | and : AmoForm d a b w sc o (.amoAnd d a b w sc o) (fun _ x y => x &&& y)
  | or : AmoForm d a b w sc o (.amoOr d a b w sc o) (fun _ x y => x ||| y)
  | xor : AmoForm d a b w sc o (.amoXor d a b w sc o) (fun _ x y => x ^^^ y)
  | min : AmoForm d a b w sc o (.amoMin d a b w sc o) (fun _ x y => if x.sle y then x else y)
  | max : AmoForm d a b w sc o (.amoMax d a b w sc o) (fun _ x y => if x.sle y then y else x)
  | minu : AmoForm d a b w sc o (.amoMinu d a b w sc o) (fun _ x y => if x.ule y then x else y)
  | maxu : AmoForm d a b w sc o (.amoMaxu d a b w sc o) (fun _ x y => if x.ule y then y else x)

/-- What a release comes after: the strong writes of the context that are on their way have been performed (08 R175). -/
def releaseOf (s : State) (c x o : Nat) : State := if o.testBit 1 then s.drainCx c x else s

/-- What an acquire at a scope does once its read of a word of device memory has been made: the core knows what the releases it has read from passed on, and later reads of host memory come after (08 R175, R177). -/
def acquireOf (s : State) (c sc o pa : Nat) : State := if o.testBit 0 then (s.acquire c sc (pa / 8)).orderHost c else s

/-- The device once an atomic on n bytes at pa has read them (08 R175; 13 R280). -/
def amoRead (s : State) (c x pa n sc o : Nat) : State := acquireOf ((releaseOf s c x o).strongRead c 0 pa n).2 c sc o pa

/-- n bytes at pa of device memory hold v afterwards, and every other byte is as it was. -/
def HoldsAt (s t : State) (pa n v : Nat) : Prop :=
  t.mem.num pa n = v % 2 ^ (8 * n) ∧ ∀ a, a < pa ∨ pa + n ≤ a → t.mem.read a = s.mem.read a

/-- A strong access of n bytes that goes to device memory at pa: aligned, no window owned, nothing poisoned (13 R279, R284). -/
structure StrongAt (s : State) (c x a n pa : Nat) (need : Need) : Prop extends OnDevice s c x (src s c x a).toNat n pa need where
  window : (s.cx c x).window = none
  aligned : (src s c x a).toNat % n = 0
  clean : s.devPoison c pa n = false

/-- Between two states only memory, its history, what a release to host memory has passed on and one core's view of memory have changed. -/
structure ViewStep (s b : State) (c : Nat) : Prop where
  device : b = { s with mem := b.mem, hostMem := b.hostMem, mpoison := b.mpoison, hist := b.hist, farKnow := b.farKnow, cores := b.cores }
  others : ∀ n, n ≠ c → b.phys n = s.phys n
  own : b.phys c = { s.phys c with
    seen := (b.phys c).seen, hseen := (b.phys c).hseen, dirty := (b.phys c).dirty, pubno := (b.phys c).pubno, know := (b.phys c).know }

/-- An exact accumulator object of n bins at pa of device memory that register a addresses (13 R281; 07 R163). -/
structure ObjectAt (s : State) (c x a pa n : Nat) (need : Need) : Prop where
  high : 2 ^ 20 ≤ (src s c x a).toNat
  aligned : (src s c x a).toNat % 8 = 0
  page : (src s c x a).toNat % 4096 + 16 + 8 * n ≤ 4096
  slot : (s.cx c x).slot = true ∨ (s.core c).outstanding < 8192
  place : (sliceOfPa pa).isSome = true
  leaf : ∃ l, translate s c (src s c x a).toNat need = .ok (.dev pa, l) ∧
    ∀ f, l = some f → tlbHit (s.phys c).dtlb (s.core c).tk.ctx f = true
  window : (s.cx c x).window = none
  header : xobjBins (s.mem.num pa 16) = some n
  waits : NothingWaits s c (pa / 4096 * 4096) 4096 ∧ NothingWaits s c pa (16 + 8 * n)
  clean : s.devPoison c pa 16 = false ∧ s.devPoison c pa (16 + 8 * n) = false

/-- The signed bins of an object at pa. -/
def binsAt (s : State) (pa n : Nat) : List Int := (List.range n).map (fun i => (BitVec.ofNat 64 (s.mem.num (pa + 16 + 8 * i) 8)).toInt)

/-- x can be added to an object of `len` bins whose lowest weighs 2^e0: it is a finite value other than zero, k times that weight with k an integer, and k lies below the window's top (07 R164). -/
def Admits (e0 : Int) (len : Nat) (x : Val) (k : Int) : Prop :=
  ∃ neg m e n, x = .num neg m e ∧ m ≠ 0 ∧ n * 2 ^ (e0 - e).toNat = m * 2 ^ (e - e0).toNat ∧ n < 2 ^ (40 * (len - 1)) ∧ k = (if neg then -(n : Int) else n)

/-- Every bin below the top is a balanced base-2^40 digit (07 R164). -/
def Balanced (bins : List Int) : Prop := ∀ d ∈ bins.dropLast, -(2 ^ 39) ≤ d ∧ d < 2 ^ 39

/-- The words of major 0x01, FN and MOD as R265's table gives them. -/
inductive IntWord (d a b : Nat) : Nat → Nat → Instr → Prop where
  | add : IntWord d a b 0x00 0 (.add d a b)
  | sub : IntWord d a b 0x01 0 (.sub d a b)
  | iand : IntWord d a b 0x02 0 (.iand d a b)
  | ior : IntWord d a b 0x03 0 (.ior d a b)
  | ixor : IntWord d a b 0x04 0 (.ixor d a b)
  | sll : IntWord d a b 0x05 0 (.sll d a b)
  | srl : IntWord d a b 0x06 0 (.srl d a b)
  | sra : IntWord d a b 0x07 0 (.sra d a b)
  | mul : IntWord d a b 0x08 0 (.mul d a b)
  | mulh : IntWord d a b 0x09 0 (.mulh d a b)
  | mulhu : IntWord d a b 0x0A 0 (.mulhu d a b)
  | div : IntWord d a b 0x0B 0 (.div d a b)
  | divu : IntWord d a b 0x0C 0 (.divu d a b)
  | rem : IntWord d a b 0x0D 0 (.rem d a b)
  | remu : IntWord d a b 0x0E 0 (.remu d a b)
  | min : IntWord d a b 0x0F 0 (.min d a b)
  | max : IntWord d a b 0x10 0 (.max d a b)
  | minu : IntWord d a b 0x11 0 (.minu d a b)
  | maxu : IntWord d a b 0x12 0 (.maxu d a b)
  | clz (one : b = 0) : IntWord d a b 0x13 0 (.clz d a)
  | ctz (one : b = 0) : IntWord d a b 0x14 0 (.ctz d a)
  | popc (one : b = 0) : IntWord d a b 0x15 0 (.popc d a)
  | sext (one : b = 0) (fmt : Nat) (h : fmt < 3) : IntWord d a b 0x16 fmt (.sext d a fmt)
  | zext (one : b = 0) (fmt : Nat) (lo : 4 ≤ fmt) (h : fmt < 7) : IntWord d a b 0x17 fmt (.zext d a fmt)

/-- The event counter that local index i of the task's interface names, where the task claims it and the context owns no window (03 R42; 13 R283). -/
structure EventAt (s : State) (c x i e : Nat) : Prop where
  claim : (s.core c).cl.has (.ev i) = true
  window : (s.cx c x).window = none
  counter : e = (s.vi (s.core c).tk.vi).evbase + i

/-! ### Range coder (09 R190 to R195; 16 R347 to R354) -/

/-- An operand block of n bytes in readable scratchpad, aligned as the rule says (16 R348). -/
structure BlockAt (k : Core) (a align n : Nat) : Prop extends Readable k a n where
  aligned : a % align = 0
  inside : a + n ≤ k.spadLimit

/-- A core whose stream x is t. -/
def withStream (k : Core) (x : Nat) (t : Stream) : Core := { k with st := k.st.put {} x t }

/-- A core whose coder has written bytes at a bitstream address and stream x. -/
def emitted (k : Core) (a : Nat) (bs : List Byte) (x : Nat) (t : Stream) : Core :=
  { k with spad := k.spad.setPart a bs, st := k.st.put {} x t }

/-- Stream x of the core is claimed, of the mode, and this task's (09 R190, R191). -/
structure StreamOk (k : Core) (x mode : Nat) : Prop where
  claim : k.cl.has (.st x) = true
  mode : (k.stream x).mode = mode
  ctx : (k.stream x).ctx = k.tk.ctx

/-- Probability register y is claimed and holds a table (09 R194). -/
structure TableOk (k : Core) (y : Nat) : Prop where
  claim : k.cl.has (.cd y) = true
  full : (k.prob y).n ≠ 0

/-- The stream that an init block opens (16 R349). -/
def opened (k : Core) (mode blk : Nat) : Stream :=
  { mode := mode, range := 2 ^ 32 - 1, base := blk % 2 ^ 19, limit := blk / 2 ^ 32 % 2 ^ 19, cursor := blk % 2 ^ 19, ctx := k.tk.ctx }

/-- Whether an init block is legal (16 R349). -/
structure InitOk (k : Core) (blk : Nat) : Prop where
  low : blk / 2 ^ 19 % 2 ^ 13 = 0
  high : blk < 2 ^ 51
  order : blk % 2 ^ 19 ≤ blk / 2 ^ 32
  fits : blk / 2 ^ 32 ≤ k.spadLimit

/-- The number that an encoder's output stands for so far: the bytes emitted, the byte held back, the bytes 0xFF pending behind it and LOW (09 R190; 16 R350). -/
def coded (bs : List Byte) (t : Stream) : Nat :=
  ((ofBytesBE bs * 256 + t.cache) * 256 ^ (t.pend - 1) + (256 ^ (t.pend - 1) - 1)) * 2 ^ 32 + t.low

/-- An encoder has added to LOW and shifted n times: what its output stands for is that sum times 256^n, in the bytes emitted, held back, pending and in LOW, so that a carry reaches every byte that is not out; each byte out went to CURSOR within LIMIT (16 R350). -/
structure ShiftedOut (t t' : Stream) (bs : List Byte) (add n : Nat) : Prop where
  value : coded bs t' % 256 ^ (t.pend + n + 4) = ((coded [] t + add) * 256 ^ n) % 256 ^ (t.pend + n + 4)
  count : bs.length + t'.pend = t.pend + n
  cursor : t'.cursor = t.cursor + bs.length
  inside : bs = [] ∨ t'.cursor ≤ t.limit
  rest : t' = { t with low := t'.low, range := t'.range, cache := t'.cache, pend := t'.pend, cursor := t'.cursor }

/-- A range r is multiplied by 256 until it reaches 2^24, n times (16 R350, R352). -/
def Renormed (r n range : Nat) : Prop :=
  n ≤ 3 ∧ range = r * 256 ^ n ∧ (n = 0 ∨ r * 256 ^ (n - 1) < 2 ^ 24) ∧ (0 < r → 2 ^ 24 ≤ range)

/-- What the code is lowered by for symbol v of a table, and the range that is left (16 R350, R352). -/
def symbolLow (p : Prob) (range v : Nat) : Nat := range / 2 ^ p.p * p.cell v
def symbolRange (p : Prob) (range v : Nat) : Nat :=
  if v + 1 < p.n then range / 2 ^ p.p * (p.cell (v + 1) - p.cell v) else range - symbolLow p range v

/-- Sources and the core after the coder instructions that write no scalar register, for a context that owns no window. -/
inductive CoderForm (s : State) (c x : Nat) : Instr → List Nat → Core → Prop where
  | initEnc (n a : Nat) (cl : (s.core c).cl.has (.st n) = true) (b : BlockAt (s.core c) (src s c x a).toNat 8 8)
      (ok : InitOk (s.core c) ((s.core c).spad.num (src s c x a).toNat 8)) :
      CoderForm s c x (.rcinitEnc n a) [a]
        (withStream (s.core c) n { opened (s.core c) 1 ((s.core c).spad.num (src s c x a).toNat 8) with pend := 1 })
  | initDec (n a blk code : Nat) (cl : (s.core c).cl.has (.st n) = true) (b : BlockAt (s.core c) (src s c x a).toNat 8 8)
      (e : blk = (s.core c).spad.num (src s c x a).toNat 8) (ok : InitOk (s.core c) blk) (room : blk % 2 ^ 19 + 5 ≤ blk / 2 ^ 32)
      (full : Readable (s.core c) (blk % 2 ^ 19) 5) (zero : (s.core c).spad.read (blk % 2 ^ 19) = 0)
      (v : code = ((s.core c).spad.bytes (blk % 2 ^ 19 + 1) 4).foldl (fun v y => v * 256 + y.toNat) 0) (lt : code ≠ 2 ^ 32 - 1) :
      CoderForm s c x (.rcinitDec n a) [a] (withStream (s.core c) n { opened (s.core c) 2 blk with code := code, cursor := blk % 2 ^ 19 + 5 })
  | enc (n y a : Nat) (t : Stream) (bs : List Byte) (st : StreamOk (s.core c) n 1) (tb : TableOk (s.core c) y) (q : Quiet (s.core c))
      (h : encode1 ((s.core c).prob y) ((s.core c).stream n) n (src s c x a).toNat = .ok (t, bs)) :
      CoderForm s c x (.rcenc n y a) [a] (emitted (s.core c) ((s.core c).stream n).cursor bs n t)
  | flush (n : Nat) (t : Stream) (bs : List Byte) (st : StreamOk (s.core c) n 1) (q : Quiet (s.core c))
      (h : shiftLows 5 ((s.core c).stream n) = some (t, bs)) :
      CoderForm s c x (.rcflush n) [] (emitted (s.core c) ((s.core c).stream n).cursor bs n t)
  | save (n a : Nat) (cl : (s.core c).cl.has (.st n) = true) (al : (src s c x a).toNat % 64 = 0)
      (ok : Storable (s.core c) (src s c x a).toNat 64) :
      CoderForm s c x (.rcsave n a) [a] (spadWith (s.core c) (src s c x a).toNat 64 ((s.core c).stream n).image)
  | load (n a : Nat) (cl : (s.core c).cl.has (.st n) = true) (b : BlockAt (s.core c) (src s c x a).toNat 64 64)
      (v : streamValid (s.core c) ((s.core c).spad.num (src s c x a).toNat 64) = true) :
      CoderForm s c x (.rcload n a) [a] (withStream (s.core c) n (streamOf ((s.core c).spad.num (src s c x a).toNat 64)))
  | cdld (y a : Nat) (p : Prob) (cl : (s.core c).cl.has (.cd y) = true) (b : BlockAt (s.core c) (src s c x a).toNat 64 192)
      (v : probOf ((s.core c).spad.bytes (src s c x a).toNat 192) = some p) :
      CoderForm s c x (.cdld y a) [a] { s.core c with cd := (s.core c).cd.put {} y p }
  | cdsave (y a : Nat) (cl : (s.core c).cl.has (.cd y) = true) (al : (src s c x a).toNat % 64 = 0)
      (ok : Storable (s.core c) (src s c x a).toNat 192) :
      CoderForm s c x (.cdsave y a) [a]
        { s.core c with spad := (s.core c).spad.setPart (src s c x a).toNat ((s.core c).prob y).bytes }

/-! ### Windows and tails (10 R205 to R219; 16 R356 to R359) -/

/-- Window n of the core is claimed, open or failed, and context x owns it (16 R357). -/
structure Owns (k : Core) (x n : Nat) : Prop where
  claim : k.cl.has (.sw n) = true
  live : (k.window n).st ≠ 0
  owner : (k.window n).owner = x

/-- The number of the tail that a tjoin by register a joins: the one that it has waited for, or the one whose slot it names (10 R217). -/
def joinedTail (s : State) (c x a : Nat) : Nat :=
  match (s.cx c x).held with
  | some (.tail n) => n
  | _ => (s.cx c ((src s c x a).toNat + 1)).serial

/-- The tails that a frame popped below m joins, by their numbers: one that has ended with a frame mark below m, or one whose slot another has taken (10 R218). -/
def PoppedTail (s : State) (c m n : Nat) : Prop :=
  n ≠ 0 ∧ ∀ i, i = 1 ∨ i = 2 → (s.cx c i).serial = n → (s.cx c i).live = false ∧ (s.cx c i).fmark.toNat < m

/-- Sources, the device after what the instruction does outside the core, and the core after it, for the window instructions that write no register. -/
inductive WindowForm (s : State) (c x : Nat) : Instr → List Nat → State → Core → Prop where
  | swopen (n a : Nat) (w : Window) (cl : (s.core c).cl.has (.sw n) = true) (closed : ((s.core c).window n).st = 0)
      (none : (s.cx c x).window = none) (b : BlockAt (s.core c) (src s c x a).toNat 32 32)
      (ok : windowOf (s.core c) x ((s.core c).spad.num (src s c x a).toNat 32) = some w)
      (idle : ∀ p ∈ (s.core c).chan, p.2.phase = .idle) :
      WindowForm s c x (.swopen n a) [a] s
        { s.core c with win := (s.core c).win.put {} n { w with sopen := (s.core c).st }, cx := (s.core c).cx.upd {} x (fun q => { q with window := some n }) }
  | swstep (n : Nat) (o : Owns (s.core c) x n) (last : ((s.core c).window n).step ≠ 15)
      (room : ((s.core c).window n).lines + ((s.core c).window n).swrote.length ≤ 2048)
      (idle : (s.core c).wordsLeft n (some ((s.core c).window n).step) = false) :
      WindowForm s c x (.swstep n) [] s { s.core c with win := (s.core c).win.put {} n { (s.core c).window n with
        step := ((s.core c).window n).step + 1, lines := ((s.core c).window n).lines + ((s.core c).window n).swrote.length, swrote := []
        svers := ((s.core c).window n).svers ++ ((s.core c).window n).swrote.map (fun y => (((s.core c).window n).step, y, (s.core c).stream y)) } }
  | swabort (n : Nat) (o : Owns (s.core c) x n) (idle : (s.core c).wordsLeft n none = false) :
      WindowForm s c x (.swabort n) [] (s.abortWindow c n) ((s.abortWindow c n).core c)
  | tjoin (a : Nat) (le : (src s c x a).toNat ≤ 2) (free : (src s c x a).toNat = 2 ∨ (s.cx c ((src s c x a).toNat + 1)).live = false ∨
        ∃ n, (s.cx c x).held = some (.tail n) ∧ (s.cx c ((src s c x a).toNat + 1)).serial ≠ n) :
      WindowForm s c x (.tjoin a) [a]
        (if (src s c x a).toNat = 2 ∨ joinedTail s c x a = 0 then s
          else s.orderAfter c (fun n => n == joinedTail s c x a) (if x = 0 then 0 else (s.cx c x).serial)) (s.core c)

/-- A zeroed 64 KiB frame in the home stack of a core's context, with the tables that a page at an address needs; none where the stack is full (10 R210; 04 R63). -/
def pageAt (s : State) (c va : Nat) : Option (Nat × State) :=
  let k := s.core c
  let r := tierFrames 0 (homeSlice k.tk.ctx)
  (State.tableFor k.tk.ctx va 0 3 (s.ctx k.tk.ctx).root s).bind (fun q => q.2.takeFrame r.1 r.2 k.tk.vi k.tk.ctx)

/-- Sources, destination, device and value for the window instructions and fpop, which write a register. -/
inductive WindowReads (s : State) (c x : Nat) : Instr → List Nat → Nat → State → W64 → Prop where
  | swcommit (d n a : Nat) (o : Owns (s.core c) x n) (idle : (s.core c).wordsLeft n none = false) (st : ((s.core c).window n).st ≠ 2)
      (pos : 0 < (src s c x a).toNat) (le : (src s c x a).toNat ≤ ((s.core c).window n).step + 1) :
      WindowReads s c x (.swcommit d n a) [a] d (s.commitWindow c n (src s c x a).toNat) (src s c x a)
  | swcommitNone (d n a : Nat) (o : Owns (s.core c) x n) (idle : (s.core c).wordsLeft n none = false)
      (z : (src s c x a).toNat = 0 ∨ ((s.core c).window n).st = 2) (le : (src s c x a).toNat ≤ ((s.core c).window n).step + 1) :
      WindowReads s c x (.swcommit d n a) [a] d (s.abortWindow c n) 0
  | swallocNone (d n : Nat) (o : Owns (s.core c) x n)
      (z : ((s.core c).window n).allocVa = 0 ∨ 64 ≤ ((s.core c).window n).pages.length ∨ s.pagesLeft (s.core c).tk = 0 ∨
        s.freeIndex (s.core c).tk.ctx ((s.core c).window n) = none ∨
        ∃ p, s.freeIndex (s.core c).tk.ctx ((s.core c).window n) = some p ∧ pageAt s c (((s.core c).window n).allocVa + 65536 * p) = none) :
      WindowReads s c x (.swalloc d n) [] d s 0
  | swalloc (d n p f : Nat) (u : State) (o : Owns (s.core c) x n) (va : ((s.core c).window n).allocVa ≠ 0)
      (few : ((s.core c).window n).pages.length < 64) (left : s.pagesLeft (s.core c).tk ≠ 0)
      (ix : s.freeIndex (s.core c).tk.ctx ((s.core c).window n) = some p)
      (fr : pageAt s c (((s.core c).window n).allocVa + 65536 * p) = some (f, u)) :
      WindowReads s c x (.swalloc d n) [] d ((u.chargePages (s.core c).tk 1).updCore c (fun k => { k with win := k.win.put {} n { k.window n with
        pages := (k.window n).pages ++ [(p, f, (k.window n).step)] } })) (ofN (((s.core c).window n).allocVa + 65536 * p))
  | swstat (d n : Nat) (cl : (s.core c).cl.has (.sw n) = true) : WindowReads s c x (.swstat d n) [] d s
      (ofN (((s.core c).window n).st + ((s.core c).window n).why * 2 ^ 2 + ((s.core c).window n).step * 2 ^ 6
        + ((s.core c).window n).lines * 2 ^ 10 + ((s.core c).window n).pages.length * 2 ^ 22
        + ((s.core c).window n).scope * 2 ^ 29 + ((s.core c).window n).owner * 2 ^ 32))
  | fpop (d a : Nat) (joined : Nat → Bool) (tails : ∀ n, joined n = true ↔ PoppedTail s c (src s c x a).toNat n) (ok : x = 0 ∨ (src s c x a).toNat ≤ (s.cx c x).fmark.toNat)
      (done : ∀ i, i = 1 ∨ i = 2 → (s.cx c i).live = true → (src s c x a).toNat ≤ (s.cx c i).fmark.toNat) :
      WindowReads s c x (.fpop d a) [a] d (s.orderAfter c joined (if x = 0 then 0 else (s.cx c x).serial)) (src s c x a)

/-- The register file of a context with a release's answer in register d (10 R216). -/
def answered (q : Ctx) (d v : Nat) : Ctx := if d = 0 then q else { q with s := q.s.put 0 d (ofN v) }

/-! ### Traps (13 R294, R295) -/

/-- Context x of core c has trapped: the record is posted, no register, queue or flag has changed, and the trap waits for the kernel, waits for delivery or has ended the item. -/
structure Trapped (s t : State) (c x : Nat) (cause : Cause) (tval epc : Nat) : Prop where
  record : ∃ r, t.faults = s.faults ++ [r] ∧ r.cause = cause ∧ r.tval = tval ∧ r.epc = epc ∧ r.pcore = c ∧ r.agent = x ∧
    r.ctx = (s.core c).tk.ctx ∧ r.res = cause.resumable
  still : cause.resumable = true ∨ (s.core c).trapEnds x cause = false →
    t.mem = s.mem ∧ (t.core c).spad = (s.core c).spad ∧ (∀ n, n ≠ c → t.phys n = s.phys n) ∧ ∀ y, y ≠ x → t.cx c y = s.cx c y
  regs : (t.cx c x).s = (s.cx c x).s ∧ (t.cx c x).b = (s.cx c x).b ∧ (t.cx c x).c = (s.cx c x).c ∧ (t.cx c x).lc = (s.cx c x).lc ∧
    (t.cx c x).pc = (s.cx c x).pc ∧ (t.cx c x).pend = (s.cx c x).pend ∧ (t.cx c x).rep = (s.cx c x).rep
  queue : (t.core c).q = (s.core c).q
  flags : (t.core c).fpflags = (s.core c).fpflags
  kernel : cause.resumable = true → (∃ va, (t.cx c x).wait = .fault cause tval epc va) ∧
    (t.core c).deliveries = (s.core c).deliveries ++ [{ ready := false, x := x, cause := cause, tval := tval, epc := epc }]
  ends : cause.resumable = false → (s.core c).trapEnds x cause = true → (t.core c).phase = .ended true ∧ (t.cx c x).live = false
  waits : cause.resumable = false → (s.core c).trapEnds x cause = false → (t.cx c x).wait = .delivery ∧
    ((∀ d ∈ (s.core c).deliveries, d.x = x → d.ready = true) → (t.core c).deliveries = (s.core c).deliveries ++ [{ x := x, cause := cause, tval := tval, epc := epc }])

/-- The instructions that may stand neither in a delay slot nor under a repeat (13 R273, R277; 10 R357). -/
inductive ControlInstr : Instr → Prop where
  | br (n f : Nat) : ControlInstr (.br n f)
  | brl (n d : Nat) : ControlInstr (.brl n d)
  | loopHw (n a imm : Nat) : ControlInstr (.loopHw n a imm)
  | repA (a : Nat) : ControlInstr (.repA a)
  | repi (n : Nat) : ControlInstr (.repi n)
  | done : ControlInstr .done
  | trap (n : Nat) : ControlInstr (.trap n)
  | tret : ControlInstr .tret
  | swopen (n a : Nat) : ControlInstr (.swopen n a)
  | swstep (n : Nat) : ControlInstr (.swstep n)
  | swcommit (d n a : Nat) : ControlInstr (.swcommit d n a)
  | swabort (n : Nat) : ControlInstr (.swabort n)
  | swalloc (d n : Nat) : ControlInstr (.swalloc d n)
  | swstat (d n : Nat) : ControlInstr (.swstat d n)
  | relc (cc d a n : Nat) : ControlInstr (.relc cc d a n)
  | tjoin (a : Nat) : ControlInstr (.tjoin a)
  | fpop (d a : Nat) : ControlInstr (.fpop d a)

/-- The word of an instruction, which some causes report (13 R296). -/
def word (i : Instr) : Nat := ((encode i).getD (0, 0)).2

/-- Conditions under which an instruction of context x traps, with its cause and TVAL (13 R263, R273, R277, R296; 12 R240, R259). -/
inductive TrapForm (s : State) (c x : Nat) : Instr → Cause → Nat → Prop where
  | illegal (w : Nat) (p : (s.cx c x).pfx = none) : TrapForm s c x (.illegalInstruction w) .illegalInstruction w
  | orphan (rnd : Nat) (rv sat : Bool) (hi : Nat) (last : (s.cx c x).pc.toNat % 64 = 60) :
      TrapForm s c x (.pfx rnd rv sat hi) .orphanPrefix (word (.pfx rnd rv sat hi))
  | delaySlot (i : Instr) (h : ControlInstr i) (p : (s.cx c x).pend ≠ none) : TrapForm s c x i .controlInDelay (word i)
  | lcbDelay (a : Nat) (p : (s.cx c x).pend ≠ none) : TrapForm s c x (.lcbwait a) .controlInDelay (word (.lcbwait a))
  | repeated (i : Instr) (h : ControlInstr i) (p : (s.cx c x).pend = none) (r : (s.cx c x).rep ≠ .none) :
      TrapForm s c x i .controlValue (word i)
  | direction (i : Instr) (d q : Nat) (srcs : List Nat) (g : List W64 → W64) (f : IntForm i d ((q + 24) :: srcs) g) (run : (s.cx c x).rep ≠ .skip)
      (even : q % 2 = 0) (no : q + 24 ∉ srcs) : TrapForm s c x i .queueDirection q
  | unclaimed (i : Instr) (d q : Nat) (g : List W64 → W64) (f : IntForm i d [q + 24] g) (run : (s.cx c x).rep ≠ .skip) (lt : d < 24)
      (odd : q % 2 = 1) (free : q ≠ 7) (cl : (s.core c).cl.has (.queue q) = false) : TrapForm s c x i .unclaimed q
  | csrr (d off : Nat) (u : Usable (s.core c) x [] (some d)) (run : (s.cx c x).rep ≠ .skip) (h : off % 8 ≠ 0 ∨ 0x2C0 ≤ off) :
      TrapForm s c x (.csrr d off) .controlValue off
  | csrw (a off : Nat) (u : Usable (s.core c) x [a] none) (run : (s.cx c x).rep ≠ .skip) (h : off % 8 ≠ 0 ∨ 0x2C0 ≤ off) :
      TrapForm s c x (.csrw a off) .controlValue off
  | target (n f : Nat) (p : (s.cx c x).pend = none) (r : (s.cx c x).rep = .none) (t : branchTaken (s.cx c x) f = true)
      (bad : ((s.cx c x).b.get 0 n).toNat % 64 ≠ 0 ∨ 2 ^ 48 ≤ ((s.cx c x).b.get 0 n).toNat) :
      TrapForm s c x (.br n f) .alignment ((s.cx c x).b.get 0 n).toNat
  | misaligned (d a w sc o : Nat) (u : Usable (s.core c) x [a] (some d)) (run : (s.cx c x).rep ≠ .skip) (win : (s.cx c x).window = none)
      (h : (src s c x a).toNat % 2 ^ w ≠ 0) : TrapForm s c x (.lda d a w sc o) .misaligned (src s c x a).toNat
  | strong (d a w sc o n : Nat) (u : Usable (s.core c) x [a] (some d)) (run : (s.cx c x).rep ≠ .skip) (win : (s.cx c x).window = some n) :
      TrapForm s c x (.lda d a w sc o) .strongInWindow n
  | phase (sc n : Nat) (run : (s.cx c x).rep ≠ .skip) (win : (s.cx c x).window = some n) : TrapForm s c x (.phase sc) .strongInWindow n
  | beyond (d a ty disp : Nat) (u : Usable (s.core c) x [a] (some d)) (run : (s.cx c x).rep ≠ .skip) (p : ∀ p, (s.cx c x).pfx = some p → p.hi < 2 ^ 21)
      (low : ea s c x a disp < 0x80000) (h : (s.core c).spadLimit < ea s c x a disp + 2 ^ (ty % 4)) :
      TrapForm s c x (.ld d a ty disp) .unclaimed (ea s c x a disp)
  | hole (d a ty disp : Nat) (u : Usable (s.core c) x [a] (some d)) (run : (s.cx c x).rep ≠ .skip) (p : ∀ p, (s.cx c x).pfx = some p → p.hi < 2 ^ 21)
      (lo : 0x82000 ≤ ea s c x a disp) (hi : ea s c x a disp < 2 ^ 20) : TrapForm s c x (.ld d a ty disp) .controlValue (ea s c x a disp)
  | unmapped (d a ty disp : Nat) (u : Usable (s.core c) x [a] (some d)) (run : (s.cx c x).rep ≠ .skip) (p : ∀ p, (s.cx c x).pfx = some p → p.hi < 2 ^ 21)
      (high : 2 ^ 20 ≤ ea s c x a disp) (win : (s.core c).liveWins = [])
      (slot : (s.cx c x).slot = true ∨ (s.core c).outstanding < 8192)
      (old : ∀ o ∈ s.oldLeaves, ¬(o.core = c ∧ o.agent = x)) (no : 2 ^ 48 ≤ ea s c x a disp ∨ s.leafAt (s.core c).tk.ctx (ea s c x a disp) = none) :
      TrapForm s c x (.ld d a ty disp) .notMapped (ea s c x a disp)
  | overflow (n : Nat) (main : x = 0) (run : (s.cx c x).rep ≠ .skip) (lt : n < 31) (cl : (s.core c).cl.has (.sem n) = true)
      (full : 65535 ≤ (s.core c).sem.get 0 n) : TrapForm s c x (.semraise n) .semOverflow n
  | overrun (n : Nat) (run : (s.cx c x).rep ≠ .skip) (cl : (s.core c).cl.has (.bb n) = true) (o : ((s.core c).bb.get {} n).overrun = true) :
      TrapForm s c x (.bbwait n) .barrierOverrun n
  | banks (p : (s.cx c x).pend = none) (r : (s.cx c x).rep = .none) (h : (s.core c).bank ≠ 0) : TrapForm s c x .done .banksOpen 0
  | windowLeft (n : Nat) (p : (s.cx c x).pend = none) (r : (s.cx c x).rep = .none) (h : (s.core c).bank = 0) (w : (s.cx c x).window = some n) :
      TrapForm s c x .done .windowAtDone n
  | notHandler (p : (s.cx c x).pend = none) (r : (s.cx c x).rep = .none) (h : (s.core c).hndst ≠ 1 + 2 * x) :
      TrapForm s c x .tret .controlValue (s.core c).hndst

/-- Context x of core c has stalled: it keeps all it holds and issues the same instruction again (06 R108; 13 R263). -/
structure Stalled (s t : State) (c x : Nat) (line : Option Nat) (h : Option Held) : Prop where
  outside : OutsideSame s t c
  core : t.core c = { s.core c with cx := (t.core c).cx }
  others : ∀ y, y ≠ x → t.cx c y = s.cx c y
  own : t.cx c x = { s.cx c x with pfx := none, stalled := true, emptyAt := line, emptyFor := (t.cx c x).emptyFor, logWait := false, held := h }

/-- Conditions under which an instruction of context x stalls, with the empty scratchpad line, or the barrier or tail, that it waits for, if one (06 R108, R116, R128, R129; 10 R217; 13 R263). -/
inductive StallForm (s : State) (c x : Nat) : Instr → Option Nat → Option Held → Prop where
  | source (i : Instr) (d q : Nat) (g : List W64 → W64) (f : IntForm i d [q + 24] g) (lt : d < 24) (odd : q % 2 = 1) (free : q ≠ 7)
      (cl : (s.core c).cl.has (.queue q) = true) (e : (s.core c).queue q = []) : StallForm s c x i none none
  | destination (i : Instr) (q : Nat) (srcs : List Nat) (g : List W64 → W64) (f : IntForm i (q + 24) srcs g) (even : q % 2 = 0)
      (cl : (s.core c).cl.has (.queue q) = true) (full : qDepth q ≤ ((s.core c).queue q).length) (u : Usable (s.core c) x srcs none) :
      StallForm s c x i none none
  | semwait (n : Nat) (lt : n < 31) (cl : (s.core c).cl.has (.sem n) = true) (z : (s.core c).sem.get 0 n = 0) : StallForm s c x (.semwait n) none none
  | bbwait (n : Nat) (cl : (s.core c).cl.has (.bb n) = true) (o : ((s.core c).bb.get {} n).overrun = false)
      (z : ((s.core c).bb.get {} n).count ≠ 0) : StallForm s c x (.bbwait n) none (some (.barrier n))
  | evwait (d a b e : Nat) (u : Usable (s.core c) x [a, b] (some d)) (h : EventAt s c x (src s c x a).toNat e)
      (below : (s.counter e).toNat < (src s c x b).toNat) : StallForm s c x (.evwait d a b) none none
  | relrow (a : Nat) (u : Usable (s.core c) x [a] none) (le : (src s c x a).toNat ≤ (s.core c).row.size)
      (full : (s.core c).row.rd + (s.core c).row.size < (s.core c).row.rel + (src s c x a).toNat + (s.core c).row.bankA.length + (s.core c).row.bankB.length) :
      StallForm s c x (.relrow a) none none
  | emptyLine (d a ty disp l : Nat) (u : Usable (s.core c) x [a] (some d)) (p : ∀ p, (s.cx c x).pfx = some p → p.hi < 2 ^ 21)
      (low : ea s c x a disp < 0x80000) (inside : ea s c x a disp + 2 ^ (ty % 4) ≤ (s.core c).spadLimit)
      (first : (linesOf (ea s c x a disp) (2 ^ (ty % 4))).find? (s.core c).isEmpty = some l) : StallForm s c x (.ld d a ty disp) (some (128 * l)) none
  | tjoin (a : Nat) (u : Usable (s.core c) x [a] none) (p : (s.cx c x).pend = none) (r : (s.cx c x).rep = .none) (lt : (src s c x a).toNat < 2)
      (live : (s.cx c ((src s c x a).toNat + 1)).live = true)
      (same : ∀ n, (s.cx c x).held = some (.tail n) → (s.cx c ((src s c x a).toNat + 1)).serial = n) :
      StallForm s c x (.tjoin a) none (some (.tail (s.cx c ((src s c x a).toNat + 1)).serial))

/-! ### Row words (14 R298 to R323; 12 R249 to R252) -/

/-- The signed or unsigned number that bits hold in an integer format (07 R148). -/
def intIn (fmt x : Nat) : Int := if fmt < 4 then (BitVec.ofNat (8 * fmtBytes fmt) x).toInt else x

/-- An exact integer in an integer format: modulo 2^w, or with SAT clamped to the format's range (07 R148). -/
def intOut (fmt : Nat) (sat : Bool) (x : Int) : Nat × Nat :=
  let w := 8 * fmtBytes fmt
  let lo : Int := if fmt < 4 then -2 ^ (w - 1) else 0
  let hi : Int := if fmt < 4 then 2 ^ (w - 1) - 1 else 2 ^ w - 1
  if sat && decide (x < lo ∨ hi < x) then ((max lo (min hi x) % 2 ^ w).toNat, 32) else ((x % 2 ^ w).toNat, 0)

/-- An element of an arithmetic word: an integer result wrapped or clamped, or a float rounded once, with NV for a signalling operand (14 R305, R306). -/
def elemArith (f : RowF) (fl : Val → Val → Val → FRes) (it : Int → Int → Int) (a b d : Nat) : Nat × Nat :=
  if f.fmt < 8 then intOut f.fmt f.sat (it (intIn f.fmt a) (intIn f.fmt b))
  else
    let e := fl (valueOf f.fmt a) (valueOf f.fmt b) (valueOf f.fmt d)
    let r := roundFloat f.fmt f.rnd f.sat e.1
    (r.1, r.2 ||| e.2 ||| (valueOf f.fmt a).snan ||| (valueOf f.fmt b).snan ||| (valueOf f.fmt d).snan)

/-- Whether a value lies below another, -0 below +0 (13 R269). -/
def below (u v : Val) : Bool := cmpVal u v == some .lt || (u.isZero && v.isZero && u.isNeg && !v.isNeg)

/-- An element of vmin and vmax: one operand's bits, and the canonical NaN for two NaNs. -/
def elemPick (largest : Bool) (f : RowF) (a b : Nat) : Nat × Nat :=
  if f.fmt < 8 then
    (if largest then (if intIn f.fmt a < intIn f.fmt b then b else a) else (if intIn f.fmt b < intIn f.fmt a then b else a), 0)
  else
    let u := valueOf f.fmt a
    let v := valueOf f.fmt b
    (if u.isNan then (if v.isNan then (floatFmt f.fmt).nanCode else b) else if v.isNan then a
      else if largest then (if below u v then b else a) else (if below v u then b else a), u.snan ||| v.snan)

/-- An element of a compare: whether the relation holds, and NV (14 R309): unordered operands give onNan, and are invalid for the ordering relations. -/
def elemCompare (rel : Ordering → Bool) (onNan ordering : Bool) (f : RowF) (a b : Nat) : Bool × Nat :=
  if f.fmt < 8 then (rel (compare (intIn f.fmt a) (intIn f.fmt b)), 0)
  else
    let u := valueOf f.fmt a
    let v := valueOf f.fmt b
    match cmpVal u v with
    | some o => (rel o, 0)
    | none => (onNan, if ordering then 1 else u.snan ||| v.snan)

/-- All ones, or zero, in an element. -/
def mask (f : RowF) (r : Bool × Nat) : Nat × Nat := (if r.1 then 2 ^ (8 * f.w) - 1 else 0, r.2)

/-- An element of a transcendental word (14 R314). -/
def elemFn (fn : Func) (f : RowF) (a : Nat) : Nat × Nat :=
  let r := transc fn f.fmt f.rnd f.sat a (valueOf f.fmt a)
  (r.1, r.2 ||| (valueOf f.fmt a).snan)

/-- The bytes of every row. -/
abbrev Rows := RowAt → List Byte

/-- Element j of width w of a row (14 R301). -/
def elemAt (row : List Byte) (w j : Nat) : Nat := ofBytes ((row.drop (w * j)).take w)

/-- Element j at index i of a source: a row's, the low bytes of the broadcast entry, or 0 where the operand is absent (12 R251; 14 R301, R308). -/
def srcAt (k : Core) (rows : Rows) (o : Opnd) (w i j : Nat) : Nat :=
  match operandRow k o i with
  | some .q0 => ((k.queue 0).headD 0).toNat % 2 ^ (8 * w)
  | some r => elemAt (rows r) w j
  | none => 0

/-- Bit n of predicate p (14 R304). -/
def predBit (k : Core) (p n : Nat) : Bool := (ofBytes (k.opfile.part (8192 * p + 7168) 128)).testBit n

/-- Whether element j of width w takes part: no predicate is selected, or its bit is set (12 R250; 14 R301). -/
def active (k : Core) (f : RowF) (w j : Nat) : Bool := f.psel == 0 || predBit k (f.psel - 4) (w * j)

/-- Own entry n of a word's opcode, after the broadcast's (14 R299). -/
def ownEntry (k : Core) (f : RowF) (n : Nat) : Nat := ((k.queue 0).getD (f.hasQ0.toNat + n) 0).toNat

/-- What a word does elementwise: the index of D's row at a repetition, the elements it writes there, and the bits and flags that each takes from the rows as they are. -/
structure ElemRule where
  row : Nat → Nat
  writes : Nat → Nat → Bool
  value : Rows → Nat → Nat → Nat × Nat

/-- A word that writes the active elements of one row a repetition. -/
def perRow (k : Core) (f : RowF) (g : Rows → Nat → Nat → Nat × Nat) : ElemRule := { row := id, writes := fun _ j => active k f f.w j, value := g }

/-- A word that computes each active element from the elements of A, B and D at its place. -/
def inPlace (k : Core) (f : RowF) (g : Nat → Nat → Nat → Nat × Nat) : ElemRule :=
  perRow k f (fun rows i j => g (srcAt k rows f.aOp f.w i j) (srcAt k rows f.bOp f.w i j) (srcAt k rows f.dOp f.w i j))

/-- An element of vsmax (14 R323). -/
def softmaxAt (k : Core) (f : RowF) (rows : Rows) (i j : Nat) : Nat × Nat :=
  let t := if f.fmt = F64 then F64 else F32
  let idx := (List.range f.n).filter (active k f f.w)
  let at_ (j : Nat) : Val := valueOf f.fmt (srcAt k rows f.aOp f.w i j)
  let vs := idx.map at_
  if vs.any (fun v => v.isNan || v == .inf false) || vs.all (· == .inf true) then ((floatFmt f.fmt).nanCode, 1)
  else
    let m := vs.foldl (fun m v => if cmpVal m v = some .lt then v else m) (.inf true)
    let e (j : Nat) : Nat × Nat := transc .exp t 0 false (srcAt k rows f.aOp f.w i j) (addVal 0 (at_ j) m.neg).1
    let sum := (sumVals 0 (idx.map (fun j => valueOf t (e j).1))).1
    let r := roundFloat f.fmt f.rnd f.sat (divVal (valueOf t (e j).1) sum).1
    (r.1, r.2 ||| (e j).2)

/-- The elementwise words: operand columns and limits (14 R303), and what they do (14 R305 to R309, R311, R314, R318, R321, R323). -/
inductive ElemForm (k : Core) (f : RowF) : Instr → RowSpec → ElemRule → Prop where
  | vadd : ElemForm k f (.vadd f) { op := 0x10, fmt := fmtOk, d := .dst, a := .src, b := .src, rnd := 1, sat := true }
      (inPlace k f (fun a b _ => elemArith f (fun u v _ => addVal f.rnd u v) (· + ·) a b 0))
  | vsub : ElemForm k f (.vsub f) { op := 0x11, fmt := fmtOk, d := .dst, a := .src, b := .src, rnd := 1, sat := true }
      (inPlace k f (fun a b _ => elemArith f (fun u v _ => addVal f.rnd u v.neg) (· - ·) a b 0))
  | vmul : ElemForm k f (.vmul f) { op := 0x12, fmt := fmtOk, d := .dst, a := .src, b := .src, rnd := 1, sat := true }
      (inPlace k f (fun a b _ => elemArith f (fun u v _ => mulVal u v) (· * ·) a b 0))
  | vfma : ElemForm k f (.vfma f) { op := 0x13, fmt := isFloatFmt, d := .dst, a := .src, b := .src, rnd := 2, sat := true, useD := true }
      (inPlace k f (fun a b d => elemArith f (fun u v w => fmaVal f.rnd false u v w) (fun x _ => x) a b d))
  | vfms : ElemForm k f (.vfms f) { op := 0x14, fmt := isFloatFmt, d := .dst, a := .src, b := .src, rnd := 2, sat := true, useD := true }
      (inPlace k f (fun a b d => elemArith f (fun u v w => fmaVal f.rnd true u v w) (fun x _ => x) a b d))
  | vdiv : ElemForm k f (.vdiv f) { op := 0x15, fmt := isFloatFmt, d := .dst, a := .src, b := .src, rnd := 2, sat := true }
      (inPlace k f (fun a b _ => elemArith f (fun u v _ => divVal u v) (fun x _ => x) a b 0))
  | vsqrt : ElemForm k f (.vsqrt f) { op := 0x16, fmt := isFloatFmt, d := .dst, a := .src, b := .none, rnd := 2, sat := true }
      (inPlace k f (fun a _ _ => elemArith f (fun u _ _ => sqrtVal u) (fun x _ => x) a 0 0))
  | vmin : ElemForm k f (.vmin f) { op := 0x17, fmt := fmtOk, d := .dst, a := .src, b := .src }
      (inPlace k f (fun a b _ => elemPick false f a b))
  | vmax : ElemForm k f (.vmax f) { op := 0x18, fmt := fmtOk, d := .dst, a := .src, b := .src }
      (inPlace k f (fun a b _ => elemPick true f a b))
  | vabs : ElemForm k f (.vabs f) { op := 0x19, fmt := fmtOk, d := .dst, a := .src, b := .none, sat := true }
      (inPlace k f (fun a _ _ => elemArith f (fun u _ _ => (u.abs, 0)) (fun x _ => |x|) a 0 0))
  | vneg : ElemForm k f (.vneg f) { op := 0x1A, fmt := fmtOk, d := .dst, a := .src, b := .none, sat := true }
      (inPlace k f (fun a _ _ => elemArith f (fun u _ _ => (u.neg, 0)) (fun x _ => -x) a 0 0))
  | vand : ElemForm k f (.vand f) { op := 0x1B, fmt := isIntFmt, d := .dst, a := .src, b := .src }
      (inPlace k f (fun a b _ => (a &&& b, 0)))
  | vor : ElemForm k f (.vor f) { op := 0x1C, fmt := isIntFmt, d := .dst, a := .src, b := .src }
      (inPlace k f (fun a b _ => (a ||| b, 0)))
  | vxor : ElemForm k f (.vxor f) { op := 0x1D, fmt := isIntFmt, d := .dst, a := .src, b := .src }
      (inPlace k f (fun a b _ => (a ^^^ b, 0)))
  | vshl : ElemForm k f (.vshl f) { op := 0x1E, fmt := isIntFmt, d := .dst, a := .src, b := .src }
      (inPlace k f (fun a b _ => (a * 2 ^ (b % (8 * f.w)) % 2 ^ (8 * f.w), 0)))
  | vshr : ElemForm k f (.vshr f) { op := 0x1F, fmt := isIntFmt, d := .dst, a := .src, b := .src }
      (inPlace k f (fun a b _ => ((intIn f.fmt a / 2 ^ (b % (8 * f.w)) % 2 ^ (8 * f.w)).toNat, 0)))
  | vmov : ElemForm k f (.vmov f) { op := 0x20, fmt := fmtOk, d := .dst, a := .src, b := .none }
      (inPlace k f (fun a _ _ => (a, 0)))
  | vsel : ElemForm k f (.vsel f) { op := 0x21, fmt := fmtOk, d := .dst, a := .src, b := .src, psel := 2 }
      ( ({ row := id, writes := fun _ _ => true, value := fun rows i j =>
        (if active k f f.w j then srcAt k rows f.aOp f.w i j else srcAt k rows f.bOp f.w i j, 0) }))
  | vcmpEq (h : f.dOp.isPred = false) : ElemForm k f (.vcmpEq f) { op := 0x28, fmt := fmtOk, d := .dstVp, a := .src, b := .src }
      (inPlace k f (fun a b _ => mask f (elemCompare (· == .eq) false false f a b)))
  | vcmpNe (h : f.dOp.isPred = false) : ElemForm k f (.vcmpNe f) { op := 0x29, fmt := fmtOk, d := .dstVp, a := .src, b := .src }
      (inPlace k f (fun a b _ => mask f (elemCompare (· != .eq) true false f a b)))
  | vcmpLt (h : f.dOp.isPred = false) : ElemForm k f (.vcmpLt f) { op := 0x2A, fmt := fmtOk, d := .dstVp, a := .src, b := .src }
      (inPlace k f (fun a b _ => mask f (elemCompare (· == .lt) false true f a b)))
  | vcmpLe (h : f.dOp.isPred = false) : ElemForm k f (.vcmpLe f) { op := 0x2B, fmt := fmtOk, d := .dstVp, a := .src, b := .src }
      (inPlace k f (fun a b _ => mask f (elemCompare (· != .gt) false true f a b)))
  | vcmpGt (h : f.dOp.isPred = false) : ElemForm k f (.vcmpGt f) { op := 0x2C, fmt := fmtOk, d := .dstVp, a := .src, b := .src }
      (inPlace k f (fun a b _ => mask f (elemCompare (· == .gt) false true f a b)))
  | vcmpUn (h : f.dOp.isPred = false) : ElemForm k f (.vcmpUn f) { op := 0x2D, fmt := fmtOk, d := .dstVp, a := .src, b := .src }
      (inPlace k f (fun a b _ => mask f (elemCompare (fun _ => false) true false f a b)))
  | vcvt (wd ws n : Nat) (hd : wd = fmtBytes f.fmt) (hs : ws = fmtBytes (f.b % 64)) (hn : n = 1024 / max ws wd) :
      ElemForm k f (.vcvt f) (cvtSpec f { op := 0x38, fmt := fmtOk, d := .dst, a := .src, b := .fmt, rnd := 2, sat := true })
      { row := fun i => i * n / (1024 / wd), writes := fun i j => decide (j / n = i % (1024 / wd / n)) && active k f wd j
        value := fun rows i j =>
          convert (f.b % 64) f.fmt f.rnd f.sat (srcAt k rows f.aOp ws (i * n / (1024 / ws)) ((i * n + j % n) % (1024 / ws))) }
  | vexp : ElemForm k f (.vexp f) { op := 0x40, fmt := isFloatFmt, d := .dst, a := .src, b := .none, rnd := 2, sat := true }
      (inPlace k f (fun a _ _ => elemFn .exp f a))
  | vln : ElemForm k f (.vln f) { op := 0x41, fmt := isFloatFmt, d := .dst, a := .src, b := .none, rnd := 2, sat := true }
      (inPlace k f (fun a _ _ => elemFn .ln f a))
  | vtanh : ElemForm k f (.vtanh f) { op := 0x42, fmt := isFloatFmt, d := .dst, a := .src, b := .none, rnd := 2, sat := true }
      (inPlace k f (fun a _ _ => elemFn .tanh f a))
  | vsigm : ElemForm k f (.vsigm f) { op := 0x43, fmt := isFloatFmt, d := .dst, a := .src, b := .none, rnd := 2, sat := true }
      (inPlace k f (fun a _ _ => elemFn .sigm f a))
  | vrsqrt : ElemForm k f (.vrsqrt f) { op := 0x44, fmt := isFloatFmt, d := .dst, a := .src, b := .none, rnd := 2, sat := true }
      (inPlace k f (fun a _ _ => elemFn .rsqrt f a))
  | vrcp : ElemForm k f (.vrcp f) { op := 0x45, fmt := isFloatFmt, d := .dst, a := .src, b := .none, rnd := 2, sat := true }
      (inPlace k f (fun a _ _ => elemFn .rcp f a))
  | vsin : ElemForm k f (.vsin f) { op := 0x46, fmt := isFloatFmt, d := .dst, a := .src, b := .none, rnd := 2, sat := true }
      (inPlace k f (fun a _ _ => elemFn .sin f a))
  | vcos : ElemForm k f (.vcos f) { op := 0x47, fmt := isFloatFmt, d := .dst, a := .src, b := .none, rnd := 2, sat := true }
      (inPlace k f (fun a _ _ => elemFn .cos f a))
  | vnoise : ElemForm k f (.vnoise f) { op := 0x59, fmt := (· == F32), d := .dst, a := .none, b := .none, pops := 3 }
      (perRow k f (fun _ i j => (gumbel (ownEntry k f 0) (ownEntry k f 1) ((ownEntry k f 2 + 256 * i + j) % 2 ^ 32), 0)))
  | vperm : ElemForm k f (.vperm f) { op := 0x62, fmt := fmtOk, d := .dst, a := .src, b := .src }
      (perRow k f (fun rows i j =>
        let b := srcAt k rows f.bOp f.w i j
        (srcAt k rows f.aOp f.w i (if f.w = 1 then 256 * (j / 256) + b else b % f.n), 0)))
  | vbcast : ElemForm k f (.vbcast f) { op := 0x63, fmt := fmtOk, d := .dst, a := .src, b := .none, pops := 1 }
      (perRow k f (fun rows i _ => (srcAt k rows f.aOp f.w i (ownEntry k f 0 % f.n), 0)))
  | vext (h : ownEntry k f 0 ≤ f.n) : ElemForm k f (.vext f) { op := 0x64, fmt := fmtOk, d := .dst, a := .src, b := .src, pops := 1 }
      (perRow k f (fun rows i j =>
        let p := j + ownEntry k f 0
        (if p < f.n then srcAt k rows f.aOp f.w i p else srcAt k rows f.bOp f.w i (p - f.n), 0)))
  | vsmax : ElemForm k f (.vsmax f) { op := 0x66, fmt := isFloatFmt, d := .dst, a := .src, b := .none, rnd := 2, sat := true }
      (perRow k f (softmaxAt k f))

/-- A compare of element j of repetition 0. -/
def comparedAt (k : Core) (f : RowF) (rel : Ordering → Bool) (onNan ordering : Bool) (j : Nat) : Bool × Nat :=
  elemCompare rel onNan ordering f (srcAt k k.rowRaw f.aOp f.w 0 j) (srcAt k k.rowRaw f.bOp f.w 0 j)

/-- The flags of a compare of the active elements into a predicate. -/
def comparedFlags (k : Core) (f : RowF) (rel : Ordering → Bool) (onNan ordering : Bool) : Nat :=
  (((List.range f.n).filter (active k f f.w)).map (fun j => (comparedAt k f rel onNan ordering j).2)).foldl (· ||| ·) 0

/-- The words that write a predicate, answer a vote or do neither: entries pushed, flags, and the predicate written with its new bits (14 R303, R309, R310). -/
inductive PredForm (k : Core) (f : RowF) : Instr → RowSpec → List W64 → Nat → Option (Nat × (Nat → Bool)) → Prop where
  | rowNotify : PredForm k f (.rowNotify f) { op := 0x01, fmt := (· == 0), d := .zero, a := .zero, b := .zero, psel := 0, maxRep := 0, dRows := fun _ => 0, aRows := fun _ => 0 } [] 0 none
  | vnop : PredForm k f (.vnop f) { op := 0x02, fmt := (· == 0), d := .zero, a := .zero, b := .zero, psel := 0, maxRep := 0, dRows := fun _ => 0, aRows := fun _ => 0 } [] 0 none
  | vcmpEq (p : Nat) (h : f.dOp = .pred p) : PredForm k f (.vcmpEq f) { op := 0x28, fmt := fmtOk, d := .dstVp, a := .src, b := .src, maxRep := 0 } []
      (comparedFlags k f (· == .eq) false false) (some (p, fun n => if active k f f.w (n / f.w) then (comparedAt k f (· == .eq) false false (n / f.w)).1 else predBit k p n))
  | vcmpNe (p : Nat) (h : f.dOp = .pred p) : PredForm k f (.vcmpNe f) { op := 0x29, fmt := fmtOk, d := .dstVp, a := .src, b := .src, maxRep := 0 } []
      (comparedFlags k f (· != .eq) true false) (some (p, fun n => if active k f f.w (n / f.w) then (comparedAt k f (· != .eq) true false (n / f.w)).1 else predBit k p n))
  | vcmpLt (p : Nat) (h : f.dOp = .pred p) : PredForm k f (.vcmpLt f) { op := 0x2A, fmt := fmtOk, d := .dstVp, a := .src, b := .src, maxRep := 0 } []
      (comparedFlags k f (· == .lt) false true) (some (p, fun n => if active k f f.w (n / f.w) then (comparedAt k f (· == .lt) false true (n / f.w)).1 else predBit k p n))
  | vcmpLe (p : Nat) (h : f.dOp = .pred p) : PredForm k f (.vcmpLe f) { op := 0x2B, fmt := fmtOk, d := .dstVp, a := .src, b := .src, maxRep := 0 } []
      (comparedFlags k f (· != .gt) false true) (some (p, fun n => if active k f f.w (n / f.w) then (comparedAt k f (· != .gt) false true (n / f.w)).1 else predBit k p n))
  | vcmpGt (p : Nat) (h : f.dOp = .pred p) : PredForm k f (.vcmpGt f) { op := 0x2C, fmt := fmtOk, d := .dstVp, a := .src, b := .src, maxRep := 0 } []
      (comparedFlags k f (· == .gt) false true) (some (p, fun n => if active k f f.w (n / f.w) then (comparedAt k f (· == .gt) false true (n / f.w)).1 else predBit k p n))
  | vcmpUn (p : Nat) (h : f.dOp = .pred p) : PredForm k f (.vcmpUn f) { op := 0x2D, fmt := fmtOk, d := .dstVp, a := .src, b := .src, maxRep := 0 } []
      (comparedFlags k f (fun _ => false) true false) (some (p, fun n => if active k f f.w (n / f.w) then (comparedAt k f (fun _ => false) true false (n / f.w)).1 else predBit k p n))
  | vpand (a b p : Nat) (ha : f.aOp = .pred a) (hb : f.bOp = .pred b) (hp : f.dOp = .pred p) :
      PredForm k f (.vpand f) { op := 0x2E, fmt := (· == 0), d := .vp, a := .vp, b := .vp, psel := 0, maxRep := 0 } [] 0
      (some (p, fun n => predBit k a n && predBit k b n))
  | vpor (a b p : Nat) (ha : f.aOp = .pred a) (hb : f.bOp = .pred b) (hp : f.dOp = .pred p) :
      PredForm k f (.vpor f) { op := 0x2F, fmt := (· == 0), d := .vp, a := .vp, b := .vp, psel := 0, maxRep := 0 } [] 0
      (some (p, fun n => predBit k a n || predBit k b n))
  | vpnot (a p : Nat) (ha : f.aOp = .pred a) (hp : f.dOp = .pred p) :
      PredForm k f (.vpnot f) { op := 0x30, fmt := (· == 0), d := .vp, a := .vp, b := .none, psel := 0, maxRep := 0 } [] 0
      (some (p, fun n => !predBit k a n))
  | vvoteAny (a : Nat) (ha : f.aOp = .pred a) :
      PredForm k f (.vvoteAny f) { op := 0x31, fmt := fmtOk, d := .none, a := .vp, b := .none, pushes := 1, maxRep := 0 }
      [if ∃ j < f.n, active k f f.w j = true ∧ predBit k a (f.w * j) = true then 1 else 0] 0 none
  | vvoteAll (a : Nat) (ha : f.aOp = .pred a) :
      PredForm k f (.vvoteAll f) { op := 0x32, fmt := fmtOk, d := .none, a := .vp, b := .none, pushes := 1, maxRep := 0 }
      [if ∀ j < f.n, active k f f.w j = true → predBit k a (f.w * j) = true then 1 else 0] 0 none

/-- An active element of a reduction: its index, A and B. -/
abbrev Term := Nat × Nat × Nat

/-- The active elements at repetition i. -/
def termsAt (k : Core) (f : RowF) (rows : Rows) (i : Nat) : List Term :=
  ((List.range f.n).filter (active k f f.w)).map (fun j => (j, srcAt k rows f.aOp f.w i j, srcAt k rows f.bOp f.w i j))

/-- The sum of exact terms (07 R159), rounded once, or an integer sum wrapped or clamped (14 R316). -/
def sumOf (f : RowF) (l : List Term) (fl : Term → Val) (it : Term → Int) : Nat × Nat :=
  if f.fmt < 8 then intOut f.fmt f.sat (l.map it).sum
  else
    let e := sumVals 1 (l.map fl)
    let r := roundFloat f.fmt f.rnd f.sat e.1
    (r.1, e.2 ||| r.2)

/-- The largest or smallest active element, or what stands for none (14 R316). -/
def extremeOf (largest : Bool) (f : RowF) (l : List Term) : Nat × Nat :=
  let w := 8 * fmtBytes f.fmt
  if f.fmt < 8 then
    let lo : Int := if f.fmt < 4 then -2 ^ (w - 1) else 0
    let hi : Int := if f.fmt < 4 then 2 ^ (w - 1) - 1 else 2 ^ w - 1
    let xs := l.map (fun p => intIn f.fmt p.2.1)
    ((if largest then xs.foldl max lo else xs.foldl min hi) % 2 ^ w |>.toNat, 0)
  else
    let vs := l.map (fun p => valueOf f.fmt p.2.1)
    if vs ≠ [] ∧ vs.any Val.isNan then ((floatFmt f.fmt).nanCode, if vs.any (fun v => v.snan != 0) then 1 else 0)
    else ((roundFloat f.fmt 0 false (vs.foldl (fun m v => if largest then (if below m v then v else m) else (if below v m then v else m)) (.inf largest))).1, 0)

/-- Whether element a is below element b in a format, -0 equal to +0. -/
def lessElem (fmt a b : Nat) : Bool := if fmt < 8 then decide (intIn fmt a < intIn fmt b) else cmpVal (valueOf fmt a) (valueOf fmt b) == some .lt

/-- The lowest index among the largest active elements that are not NaN, or 0xFFFF_FFFF for none (14 R316; log 17 on zeros). -/
def ArgmaxOf (f : RowF) (l : List Term) (r : Nat × Nat) : Prop :=
  let c := l.filter (fun p => decide (f.fmt < 8) || !(valueOf f.fmt p.2.1).isNan)
  r.2 = 0 ∧ (c = [] → r.1 = 2 ^ 32 - 1) ∧
    (c ≠ [] → ∃ p ∈ c, r.1 = p.1 ∧ ∀ q ∈ c, lessElem f.fmt p.2.1 q.2.1 = false ∧ (lessElem f.fmt q.2.1 p.2.1 = false → p.1 ≤ q.1))

/-- The reductions: operand columns and limits, the width of a result, and what a result is of the active elements (14 R303, R315, R316). -/
inductive ReduceForm (f : RowF) : Instr → RowSpec → Nat → (List Term → Nat × Nat → Prop) → Prop where
  | vrsum : ReduceForm f (.vrsum f) { op := 0x50, fmt := fmtOk, d := .elem, a := .src, b := .none, rnd := 1, sat := true, dRows := fun _ => 1, pushes := if f.dOp = .none then f.rep + 1 else 0, maxRep := if f.dOp = .none then 15 else 1024 / f.w - 1 } f.w (fun l r => r = sumOf f l (fun p => valueOf f.fmt p.2.1) (fun p => intIn f.fmt p.2.1))
  | vrmax : ReduceForm f (.vrmax f) { op := 0x51, fmt := fmtOk, d := .elem, a := .src, b := .none, rnd := 0, sat := false, dRows := fun _ => 1, pushes := if f.dOp = .none then f.rep + 1 else 0, maxRep := if f.dOp = .none then 15 else 1024 / f.w - 1 } f.w (fun l r => r = extremeOf true f l)
  | vrmin : ReduceForm f (.vrmin f) { op := 0x52, fmt := fmtOk, d := .elem, a := .src, b := .none, rnd := 0, sat := false, dRows := fun _ => 1, pushes := if f.dOp = .none then f.rep + 1 else 0, maxRep := if f.dOp = .none then 15 else 1024 / f.w - 1 } f.w (fun l r => r = extremeOf false f l)
  | vrargmax : ReduceForm f (.vrargmax f) { op := 0x53, fmt := fmtOk, d := .elem, a := .src, b := .none, rnd := 0, sat := false, dRows := fun _ => 1, pushes := if f.dOp = .none then f.rep + 1 else 0, maxRep := if f.dOp = .none then 15 else 1024 / 4 - 1 } 4 (ArgmaxOf f)
  | vdot : ReduceForm f (.vdot f) { op := 0x54, fmt := fmtOk, d := .elem, a := .src, b := .src, rnd := 1, sat := true, dRows := fun _ => 1, pushes := if f.dOp = .none then f.rep + 1 else 0, maxRep := if f.dOp = .none then 15 else 1024 / f.w - 1 } f.w (fun l r => r =
      sumOf f l (fun p => (mulVal (valueOf f.fmt p.2.1) (valueOf f.fmt p.2.2)).1) (fun p => intIn f.fmt p.2.1 * intIn f.fmt p.2.2))

/-- The words of a row: the structure and the first of its 128 words (06 R140). -/
def rowWords : RowAt → Option (Nat × Nat)
  | .tile r => some (0, 128 * r)
  | .opf r => some (1, 128 * r)
  | .latch => some (2, 0)
  | .sp r => some (4, 128 * r)
  | .q0 => none

/-- A row that a word reads: of A, of B, or of D where D is a source too (14 R301, R305). -/
def ReadsRow (k : Core) (sp : RowSpec) (f : RowF) (r : RowAt) : Prop :=
  (sp.useD = true ∧ ∃ i, i ≤ f.rep ∧ operandRow k f.dOp i = some r) ∨ (∃ i, i < sp.aRows (f.rep + 1) ∧ operandRow k f.aOp i = some r) ∨
    (sp.b ≠ .fmt ∧ sp.b ≠ .zero ∧ ∃ i, i ≤ f.rep ∧ operandRow k f.bOp i = some r)

/-- A predicate that a word reads (12 R250; 14 R304). -/
def ReadsPred (f : RowF) (p : Nat) : Prop := (4 ≤ f.psel ∧ p = f.psel - 4) ∨ f.aOp = .pred p ∨ f.bOp = .pred p

/-- The row whose first 16 bytes are the trailer of the tile that a vqchk reads (14 R313). -/
def TrailerRow (sp : RowSpec) (f : RowF) (r : Nat) : Prop :=
  sp.op = 0x3A ∧ ∃ row, f.aOp = .sp row 1 ∧ r = row + (f.rep + 1) * fmtBytes (f.b % 64) / f.w

/-- A row that may be read: scratchpad is full and not poisoned, a register's words are in no uncorrectable error. -/
def RowSound (k : Core) (r : RowAt) : Prop :=
  match r with
  | .sp n => SpadReadable k (1024 * n) 1024
  | r => ∀ st w, rowWords r = some (st, w) → Sound k st w 128

/-- A word of which each write to a row of D covers whole 8-byte words: it selects no predicate, or writes every element, and it is no reduction, vcdf or vtopk. -/
def WritesWhole (sp : RowSpec) (f : RowF) : Prop := (f.psel = 0 ∨ sp.psel = 2) ∧ sp.d ≠ .elem ∧ sp.op ≠ 0x5A ∧ sp.op ≠ 0x65

/-- A row that a word writes: a row of D at an index it uses, row 7 of a predicate's operand tile, or a quantised tile's trailer row (14 R301, R304, R312). -/
def Written (k : Core) (sp : RowSpec) (f : RowF) (r : RowAt) : Prop :=
  (∃ i, i < sp.dRows (f.rep + 1) ∧ operandRow k f.dOp i = some r) ∨ (∃ p, f.dOp = .pred p ∧ r = .opf (8 * p + 7)) ∨
    (sp.op = 0x39 ∧ ∃ row, f.dOp = .sp row 1 ∧ r = .sp (row + (f.rep + 1) * f.w / fmtBytes (f.b % 64)))

/-- The scratchpad lines of the rows that a word writes. -/
def rowLines (k : Core) (sp : RowSpec) (f : RowF) : List Nat :=
  (opRows k f.dOp (sp.dRows (f.rep + 1))).flatMap (fun r => match r with | .sp r => List.range' (8 * r) 8 | _ => []) ++
    (match f.dOp with | .sp row 1 => if sp.op = 0x39 then [8 * (row + (f.rep + 1) * f.w / fmtBytes (f.b % 64))] else [] | _ => [])

/-- The windows of core c have room to log these scratchpad lines, and its home slice too (10 R209). -/
def LogFits (s : State) (c : Nat) (ls : List Nat) : Prop :=
  let k := s.core c
  let need := (k.liveWins.map (fun n => k.logNeed n false ls)).sum
  (∀ n ∈ k.liveWins, (k.window n).lines + k.logNeed n false ls ≤ 2048) ∧ (need = 0 ∨ s.sliceLog (homeSlice k.tk.ctx) + need ≤ 32768)

/-- An injection that is armed aims at none of the words (06 R142). -/
def NotAimed (k : Core) (hit : Nat → Nat → Prop) : Prop := k.einj.testBit 31 = true → ¬hit (k.einj % 16) (k.einj / 2 ^ 4 % 2 ^ 20)

/-- A row word that the engine of core c dequeues: it is well-formed for the task, its await, entries and room are there, what it reads is full and in no uncorrectable error, what it writes in part is in none, the windows have room to log what it writes, and no injection aims at it (06 R111 to R113, R123, R126, R128, R142; 10 R207, R209; 14 R298, R299). -/
structure RowStart (s : State) (c : Nat) (sp : RowSpec) (f : RowF) : Prop where
  cur : s.cur = .row c
  free : (s.core c).engineFree false = true
  fresh : (s.core c).row.word = none
  legal : rowLegal (s.core c) sp f = true
  await : f.aw ≠ 31 → 0 < (s.core c).sem.get 0 f.aw
  entries : sp.pops + f.hasQ0.toNat ≤ ((s.core c).queue 0).length
  room : ((s.core c).queue 1).length + sp.pushes ≤ 16
  reads : ∀ r, ReadsRow (s.core c) sp f r → RowSound (s.core c) r
  trailer : ∀ r, TrailerRow sp f r → SpadReadable (s.core c) (1024 * r) 16
  preds : ∀ p, ReadsPred f p ∨ (f.dOp = .pred p ∧ f.psel ≠ 0) → Sound (s.core c) 1 (1024 * p + 896) 16
  parts : WritesWhole sp f ∨ ∀ i r st w, i < sp.dRows (f.rep + 1) → operandRow (s.core c) f.dOp i = some r → rowWords r = some (st, w) →
    st ≠ 4 → Sound (s.core c) st w 128
  logs : LogFits s c (rowLines (s.core c) sp f)
  aim : NotAimed (s.core c) (fun st w => ∃ r v, Written (s.core c) sp f r ∧ rowWords r = some (st, v) ∧ v ≤ w ∧ w < v + 128)

/-- It also runs to its end: the banks it names are on or in retention and its raise does not overflow (06 R113, R124, R125). -/
structure RowGo (s : State) (c : Nat) (sp : RowSpec) (f : RowF) : Prop extends RowStart s c sp f where
  banks : ∀ b ∈ rowBanks (s.core c) sp f, (s.core c).tbpwr / 4 ^ b % 4 ≠ 0
  raise : f.rs ≠ 31 → (s.core c).sem.get 0 f.rs - (if f.aw = f.rs then 1 else 0) < 65535

/-- The banks among bs that were in retention are on, and every other bank is as it was (06 R125). -/
def Woken (k k' : Core) (bs : List Nat) : Prop :=
  ∀ b, k'.tbpwr / 4 ^ b % 4 = if b ∈ bs ∧ k.tbpwr / 4 ^ b % 4 = 1 then 2 else k.tbpwr / 4 ^ b % 4

/-- Between two states of a core, whose words that hit names may have been written, no error is new, and those of other words stay (06 R123, R126). -/
structure ErrorsEnd (k k' : Core) (hit : Nat → Nat → Prop) : Prop where
  less : (∀ p ∈ k'.rerr, p ∈ k.rerr) ∧ (∀ p ∈ k'.corr, p ∈ k.corr) ∧ ∀ w, k'.spoison.get false w = true → k.spoison.get false w = true
  kept : ∀ p, (∀ st w, p.1 = errKey st w → ¬hit st w) → (p ∈ k.rerr → p ∈ k'.rerr) ∧ (p ∈ k.corr → p ∈ k'.corr)
  poison : ∀ w, ¬hit 4 w → k'.spoison.get false w = k.spoison.get false w

/-- The windows of a core have logged lines with what they held before: each line in a region that has changed and that its step had not logged (10 R207; 08 R187). -/
def LinesLogged (k k' : Core) (written : Nat → Prop) : Prop :=
  ∀ n, ∃ new, k'.window n = { k.window n with rlog := new ++ (k.window n).rlog, lines := (k.window n).lines + new.length } ∧
    (n ∉ k.liveWins → new = []) ∧
    (∀ e ∈ new, e = k.logLine (k.window n).step e.line ∧ (k.window n).inRegion e.line = true ∧ (k.window n).logged e.line = false ∧ written e.line) ∧
    (n ∈ k.liveWins → ∀ l, (k.window n).inRegion l = true → (k.window n).logged l = false → (∀ e ∈ new, e.line ≠ l) →
      ∀ a, a / 128 = l → k'.spad.read a = k.spad.read a)

/-- A word that belongs to a row that a row word writes. -/
def WordOf (k : Core) (sp : RowSpec) (f : RowF) (st w : Nat) : Prop := ∃ r v, Written k sp f r ∧ rowWords r = some (st, v) ∧ v ≤ w ∧ w < v + 128

/-- A row word has run: RD is past it, its await is consumed and its raise made, q0 has given its entries, q1 has gained out, FPFLAGS gained fl, the banks it names are on, errors of what it wrote whole have ended, its reads count what they corrected, and only rows it writes hold anything new (06 R111 to R113, R123, R125, R141; 07 R153; 10 R207; 14 R299 to R302). -/
structure RowDone (s t : State) (c : Nat) (sp : RowSpec) (f : RowF) (out : List W64) (fl : Nat) : Prop where
  device : t = { s with
    cores := t.cores, mem := t.mem, hostMem := t.hostMem, mpoison := t.mpoison, hist := t.hist, farKnow := t.farKnow, slices := t.slices
    peerReqs := t.peerReqs, oldLeaves := t.oldLeaves, oldAtc := t.oldAtc, atsReqs := t.atsReqs }
  others : ∀ n, n ≠ c → t.phys n = s.phys n
  phys : t.phys c = { s.phys c with
    k := t.core c, seen := (t.phys c).seen, dirty := (t.phys c).dirty, pubno := (t.phys c).pubno, know := (t.phys c).know
    ecorr := (t.phys c).ecorr, elast := (t.phys c).elast }
  core : t.core c = { s.core c with
    row := { (s.core c).row with
      rd := (s.core c).row.rd + 1, banks := rowBanks (s.core c) sp f, tags := (s.core c).row.tags.put none (s.core c).row.rd none, word := none, emptyAt := none, logWait := false
      walked := [], counted := 0, notified := (s.core c).row.notified || sp.op == 1 }
    q := (t.core c).q, sem := (t.core c).sem, fpflags := (s.core c).fpflags ||| fl, mxcnt := (t.core c).mxcnt
    spad := (t.core c).spad, tiles := (t.core c).tiles, opfile := (t.core c).opfile, latch := (t.core c).latch
    tbpwr := (t.core c).tbpwr, rerr := (t.core c).rerr, corr := (t.core c).corr, spoison := (t.core c).spoison, win := (t.core c).win }
  power : Woken (s.core c) (t.core c) (rowBanks (s.core c) sp f)
  errors : ErrorsEnd (s.core c) (t.core c) (WordOf (s.core c) sp f)
  healed : WritesWhole sp f → sp.op ≠ 0x38 → sp.op ≠ 0x39 → sp.op ≠ 0x3A → ∀ i r st w, i < sp.dRows (f.rep + 1) → operandRow (s.core c) f.dOp i = some r →
    rowWords r = some (st, w) → Sound (t.core c) st w 128 ∧ NoCorr (t.core c) st w 128 ∧ ∀ v, st = 4 → v / 128 = w / 128 → (t.core c).spoison.get false v = false
  exact : (∀ r st w, ReadsRow (s.core c) sp f r → rowWords r = some (st, w) → NoCorr (s.core c) st w 128) →
    (∀ p, ReadsPred f p → NoCorr (s.core c) 1 (1024 * p + 896) 16) → (∀ r, TrailerRow sp f r → NoCorr (s.core c) 4 (128 * r) 2) →
    t.slices = s.slices ∧ (t.phys c).ecorr = (s.phys c).ecorr ∧ (t.phys c).elast = (s.phys c).elast
  logs : LinesLogged (s.core c) (t.core c) (fun l => ∃ r, Written (s.core c) sp f (.sp r) ∧ l / 8 = r)
  sem : ∀ n, n < 31 → (t.core c).sem.get 0 n =
    (s.core c).sem.get 0 n - (if n = f.aw then 1 else 0) + (if n = f.rs then 1 else 0)
  queue : ∀ n, (t.core c).queue n =
    (if n = 0 then ((s.core c).queue 0).drop (sp.pops + f.hasQ0.toNat) else (s.core c).queue n) ++ (if n = 1 then out else [])
  rows : ∀ r, ¬Written (s.core c) sp f r → (t.core c).rowRaw r = (s.core c).rowRaw r

/-- Memory as a row word that stores nothing to it leaves it: unchanged, unless its release publishes the core's writes (06 R113). -/
def NoStore (s t : State) (f : RowF) : Prop := f.rel = false → ∀ a, t.mem.read a = s.mem.read a

/-- One repetition of an elementwise word takes the rows from old to new. -/
def RowStep (k : Core) (f : RowF) (e : ElemRule) (i : Nat) (old new : Rows) : Prop :=
  ∀ r, operandRow k f.dOp (e.row i) = some r →
    (∀ j, j < f.n → elemAt (new r) f.w j = if e.writes i j then (e.value old i j).1 % 2 ^ (8 * f.w) else elemAt (old r) f.w j) ∧
    ∀ q, q ≠ r → new q = old q

/-- The flags of an elementwise word: those of the elements it writes, over its repetitions. -/
def flagsOf (f : RowF) (e : ElemRule) (rows : Nat → Rows) : Nat :=
  ((List.range (f.rep + 1)).flatMap (fun i => ((List.range f.n).filter (e.writes i)).map (fun j => (e.value (rows i) i j).2))).foldl (· ||| ·) 0

/-- One repetition of a reduction: its result goes to element i of D's first row, or nowhere in the rows. -/
def ReduceStep (k : Core) (f : RowF) (wd i v : Nat) (old new : Rows) : Prop :=
  (f.dOp = .none → new = old) ∧ ∀ r, operandRow k f.dOp 0 = some r →
    (∀ j, j < 1024 / wd → elemAt (new r) wd j = if j = i then v % 2 ^ (8 * wd) else elemAt (old r) wd j) ∧ ∀ q, q ≠ r → new q = old q

/-! ### Row words whose course depends on values (14 R312, R313, R317, R319, R320, R322) -/

/-- The bytes of row i change at its start: bs, then what stood there. -/
def HeadStep (k : Core) (f : RowF) (i : Nat) (bs : List Byte) (old new : Rows) : Prop :=
  ∀ r, operandRow k f.dOp i = some r → new r = bs ++ (old r).drop bs.length ∧ ∀ q, q ≠ r → new q = old q

/-- A word that packs converted elements of ws bytes into rows of elements of wd bytes, n a repetition (14 R311). -/
def packed (k : Core) (f : RowF) (ws n : Nat) (g : Nat → Nat × Nat) : ElemRule :=
  { row := fun i => i * n / f.n, writes := fun i j => decide (j / n = i % (f.n / n))
    value := fun rows i j => g (srcAt k rows f.aOp ws (i * n / (1024 / ws)) ((i * n + j % n) % (1024 / ws))) }

/-- An element scaled by 2^k and rounded once (14 R312, R313). -/
def scaled (f : RowF) (k : Int) (x : Nat) : Nat × Nat :=
  let v := valueOf (f.b % 64) x
  let r := roundTo f.fmt f.rnd f.sat (v.shift k)
  (r.1, r.2 ||| v.snan)

/-- The source values of a quantisation, in order, from the rows as they are before each repetition. -/
def quantSources (k : Core) (f : RowF) (rows : Nat → Rows) : List Nat :=
  (List.range (f.rep + 1)).flatMap (fun i => (List.range (1024 / fmtBytes (f.b % 64))).map (fun j => srcAt k (rows i) f.aOp (fmtBytes (f.b % 64)) i j))

/-- The largest magnitude among values that are not NaN, +0 for none (14 R312). -/
def largest (vs : List Val) : Val :=
  (vs.filter (fun v => !v.isNan)).foldl (fun m v => if cmpVal m v.abs = some .lt then v.abs else m) (.num false 0 0)

/-- SC is the scale that 14 R312 gives for M: 0 for 0 and infinity, else floor(log2 M) - Emax(d) clamped to i8. -/
def ScaleOf (d : Nat) (m : Val) (sc : Int) : Prop :=
  ((m.isZero = true ∨ m.isInf = true) → sc = 0) ∧
    ∀ neg n e, m = .num neg n e → n ≠ 0 → sc = min 127 (max (-128) ((Nat.log2 n : Int) + e - emaxOf d))

/-- The operand columns of vqnt, whose tile and trailer line lie inside the claim (14 R303, R312). -/
def quantSpec (f : RowF) : RowSpec :=
  cvtSpec f { op := 0x39, fmt := tileFmt, d := .sp, a := .src, b := .fmt, rnd := 2, sat := true, psel := 0
              extra := fun k => wideFmt (f.b % 64) && decide (f.w ≤ fmtBytes (f.b % 64)) && tileOk k f.dOp ((f.rep + 1) * f.w) (fmtBytes (f.b % 64)) }

/-- The operand columns of vqchk (14 R303, R313). -/
def checkSpec (f : RowF) : RowSpec :=
  cvtSpec f { op := 0x3A, fmt := wideFmt, d := .dst, a := .sp, b := .fmt, rnd := 2, sat := true, psel := 0
              extra := fun k => tileFmt (f.b % 64) && decide (fmtBytes (f.b % 64) ≤ f.w) && tileOk k f.aOp ((f.rep + 1) * fmtBytes (f.b % 64)) f.w }

/-- The bytes of rows a to a + n - 1 of scratchpad. -/
def spadRows (rows : Rows) (a n : Nat) : List Byte := (List.range n).flatMap (fun i => rows (.sp (a + i)))

/-- The trailer of a tile of data (07 R155; 14 R312): M rounded up to binary32, elements of the sources as converted that were saturated or made NaN, scale, format, whether the data holds a NaN or an infinity, and CRC-32C. -/
def trailerOf (f : RowF) (m : Val) (srcs : List Nat) (sc : Int) (data : List Byte) : Nat :=
  let outs := (List.range (data.length / f.w)).map (fun j => valueOf f.fmt (elemAt data f.w j))
  let lost := srcs.filter (fun x => !(valueOf (f.b % 64) x).isNan &&
    ((scaled f (-sc) x).2.testBit 5 || (isFloatFmt f.fmt && (valueOf f.fmt (scaled f (-sc) x).1).isNan)))
  (roundFloat F32 2 false m).1 + lost.length * 2 ^ 32 + (sc % 256).toNat * 2 ^ 64 + f.fmt * 2 ^ 72 +
    (isFloatFmt f.fmt && outs.any Val.isNan).toNat * 2 ^ 78 + (outs.any Val.isInf).toNat * 2 ^ 79 + crc32c data * 2 ^ 96

/-- Candidate a ranks before candidate b: NaN first, then the larger value, -0 equal to +0, then the lower index (14 R322). -/
def outranks (a b : Nat × Nat) : Bool :=
  let u := valueOf F32 a.1
  let v := valueOf F32 b.1
  if u.isNan || v.isNan then u.isNan && (!v.isNan || decide (a.2 < b.2))
  else cmpVal u v == some .gt || (cmpVal u v == some .eq && decide (a.2 < b.2))

/-- The candidates of a vtopk, NaN as the canonical NaN (14 R322). -/
def candidatesOf (k : Core) (f : RowF) : List (Nat × Nat) :=
  (List.range (f.rep + 1)).flatMap (fun i => ((List.range 256).filter (active k f 4)).map (fun j =>
    let x := srcAt k k.rowRaw f.aOp 4 i j
    (if (valueOf F32 x).isNan then 0x7FC00000 else x, (ownEntry k f 0 % 2 ^ 32 + 256 * i + j) % 2 ^ 32)))

/-- va i is the virtual address of row i of a vld or vst (14 R320). -/
def RowAddr (k : Core) (f : RowF) (va : Nat → Nat) : Prop :=
  ∀ i, i ≤ f.rep → (va i : Int) = (ownEntry k f 0 % 2 ^ 48 : Nat) + 128 * (BitVec.ofNat 16 (ownEntry k f 0 / 2 ^ 48)).toInt * i

/-- The flags of a vtopk: invalid where a logit that takes part is a signalling NaN (07 R147). -/
def candidateFlags (k : Core) (f : RowF) : Nat :=
  ((List.range (f.rep + 1)).any (fun i => ((List.range 256).filter (active k f 4)).any (fun j =>
    (valueOf F32 (srcAt k k.rowRaw f.aOp 4 i j)).snan != 0))).toNat

/-- The rows at va lie in device memory, each byte at the address pa gives, which the data TLB holds, and nothing that is read is poisoned (04 R62 to R69; 14 R320). -/
structure RowsOnDevice (s : State) (c : Nat) (f : RowF) (va pa : Nat → Nat) (need : Need) : Prop where
  addr : RowAddr (s.core c) f va
  aligned : ownEntry (s.core c) f 0 % 128 = 0
  bytes : ∀ i b, i ≤ f.rep → b < 1024 → Mapped s c (va i + b) 1 (pa (va i + b)) need ∧ (need = .read → s.devPoison c (pa (va i + b)) 1 = false)
  pages : ∀ i b, i ≤ f.rep → b < 1024 → (va i + b + 1) % 4096 ≠ 0 → pa (va i + b + 1) = pa (va i + b) + 1
  fits : Fits s c

/-- The window and step that the next row word of core c belongs to (10 R208). -/
def rowTag (s : State) (c : Nat) : Option (Nat × Nat) := (s.core c).row.tags.get none (s.core c).row.rd

/-- A byte of device memory as a word of a window's step sees it: the newest speculative store of the steps up to its own, or what the core has seen (08 R186). -/
def byteIn (k : Core) (v : State) (c : Nat) (tag : Option (Nat × Nat)) (a : Nat) : Byte :=
  match tag with
  | none => byteSeen v c a
  | some (n, i) => specByte (k.window n) i a (byteSeen v c a)

/-- The state after a word's acquire, if it has one (06 R113). -/
def acquired (s : State) (c : Nat) (f : RowF) : State := if f.acq then s.refresh c f.scope else s

/-- The signed bins of an object at pa of a memory. -/
def binsIn (m : Memory) (pa n : Nat) : List Int := (List.range n).map (fun i => (BitVec.ofNat 64 (m.num (pa + 16 + 8 * i) 8)).toInt)

/-- A memory after an exact add to the object of n bins at pa (07 R163, R164). -/
def objectAdd (m : Memory) (pa n : Nat) (x : Val) : Memory :=
  let r := xobjAdd (m.num pa 16) (binsIn m pa n) x
  (m.writeBytes pa (toBytes 16 r.1)).writeBytes (pa + 16) (r.2.flatMap (fun d => toBytes 8 (d % 2 ^ 64).toNat))

/-- The adds of a vxacc in order: virtual address of the object and operand (14 R317). -/
def exactAdds (k : Core) (f : RowF) : List (Nat × Val) :=
  (List.range (f.rep + 1)).flatMap (fun i => ((List.range f.n).filter (active k f f.w)).map (fun j =>
    (ownEntry k f 0 % 2 ^ 48 + 8 * (ownEntry k f 0 / 2 ^ 48) * (f.n * i + j), valueOf f.fmt (srcAt k k.rowRaw f.aOp f.w i j))))

/-- A virtual address holds a valid exact object of n bins at pa of device memory, which the task may read and write (13 R281; 07 R163). -/
structure ObjectHeld (s : State) (c va pa n : Nat) : Prop where
  aligned : va % 8 = 0
  page : va % 4096 + 16 + 8 * n ≤ 4096
  place : (sliceOfPa pa).isSome = true
  leaf : ∃ l, translate s c va .both = .ok (.dev pa, l) ∧ ∀ f, l = some f → tlbHit (s.phys c).dtlb (s.core c).tk.ctx f = true
  header : xobjBins (s.mem.num pa 16) = some n
  waits : NothingWaits s c (pa / 4096 * 4096) 4096 ∧ NothingWaits s c pa (16 + 8 * n)
  clean : s.devPoison c pa 16 = false ∧ s.devPoison c pa (16 + 8 * n) = false

/-! ### Engine faults (12 R260; 13 R297) -/

/-- A word of a ring has halted it with an engine fault: RD is at the word, the ring runs no further, the record carries the word and its index, the main context has a trap to take, and the accumulators named are invalid. k is the core as the word's dequeue left it. -/
structure WordHalted (s t : State) (c : Nat) (m : Bool) (k : Core) (cause : Cause) (tval bits : Nat) (accs : List Nat) : Prop where
  device : t = { s with
    cores := t.cores, faults := t.faults, peerReqs := t.peerReqs, oldLeaves := t.oldLeaves, oldAtc := t.oldAtc, atsReqs := t.atsReqs, slices := t.slices }
  others : ∀ n, n ≠ c → t.phys n = s.phys n
  phys : t.phys c = { s.phys c with
    k := t.core c, seen := (t.phys c).seen, ecorr := (t.phys c).ecorr, eunc := (t.phys c).eunc, elast := (t.phys c).elast }
  errors : cause ≠ .registerData → cause ≠ .poison → t.slices = s.slices ∧ (t.phys c).ecorr = (s.phys c).ecorr ∧
    (t.phys c).eunc = (s.phys c).eunc ∧ (t.phys c).elast = (s.phys c).elast
  counted : cause = .registerData → (t.phys c).eunc = min ((s.phys c).eunc + 1) (2 ^ 32 - 1)
  record : ∃ r, t.faults = s.faults ++ [r] ∧ r.cause = cause ∧ r.tval = tval ∧ r.pcore = c ∧ r.agent = (if m then 4 else 3) ∧ r.ext = 2 ∧
    r.res = false ∧ r.ctx = (s.core c).tk.ctx ∧ r.extData = ((s.core c).ring m).rd % 2 ^ 32 * 2 ^ 224 + bits
  core : t.core c = { k with
    row := (t.core c).row, mat := (t.core c).mat, acctag := (t.core c).acctag
    engineTraps := k.engineTraps ++ [cause.code + (if m then 2 else 1) * 2 ^ 16 + ((s.core c).ring m).rd % 2 ^ 32 * 2 ^ 32] }
  ring : (t.core c).ring m = { (s.core c).ring m with
    word := none, halted := true, held := none, emptyAt := none, logWait := false, walked := []
    banks := ((t.core c).ring m).banks, counted := ((t.core c).ring m).counted }
  other : (t.core c).ring (!m) = (s.core c).ring (!m)
  accs : ∀ n, (t.core c).acctag.get {} n = if n ∈ accs then { (s.core c).acctag.get {} n with valid := false } else (s.core c).acctag.get {} n

/-- A core whose engine has dequeued a word: its await is consumed and Marionette has counted it. -/
def Dequeued (s k : Core) (aw : Nat) : Prop :=
  k = { s with sem := k.sem, mxcnt := k.mxcnt } ∧ ∀ n, n < 31 → k.sem.get 0 n = s.sem.get 0 n - (if n = aw then 1 else 0)

/-- A row word of any of the families above, with its operand columns. -/
def RowKind (k : Core) (f : RowF) (i : Instr) (sp : RowSpec) : Prop :=
  (∃ e, ElemForm k f i sp e) ∨ (∃ out fl p, PredForm k f i sp out fl p) ∨ ∃ wd res, ReduceForm f i sp wd res

/-- The row words that the families name only under conditions on their operands, with their operand columns (14 R303). -/
inductive RowWord (f : RowF) : Instr → RowSpec → Prop where
  | vpand : RowWord f (.vpand f) { op := 0x2E, fmt := (· == 0), d := .vp, a := .vp, b := .vp, psel := 0, maxRep := 0 }
  | vpor : RowWord f (.vpor f) { op := 0x2F, fmt := (· == 0), d := .vp, a := .vp, b := .vp, psel := 0, maxRep := 0 }
  | vpnot : RowWord f (.vpnot f) { op := 0x30, fmt := (· == 0), d := .vp, a := .vp, b := .none, psel := 0, maxRep := 0 }
  | vvoteAny : RowWord f (.vvoteAny f) { op := 0x31, fmt := fmtOk, d := .none, a := .vp, b := .none, pushes := 1, maxRep := 0 }
  | vvoteAll : RowWord f (.vvoteAll f) { op := 0x32, fmt := fmtOk, d := .none, a := .vp, b := .none, pushes := 1, maxRep := 0 }
  | vqnt : RowWord f (.vqnt f) (quantSpec f)
  | vqchk : RowWord f (.vqchk f) (checkSpec f)
  | vxacc : RowWord f (.vxacc f) { op := 0x58, fmt := isFloatFmt, d := .none, a := .src, b := .none, pops := 1 }
  | vcdf : RowWord f (.vcdf f) { op := 0x5A, fmt := (· == F32), d := .dst, a := .src, b := .none, psel := 0, pops := 1 }
  | vld : RowWord f (.vld f) { op := 0x60, fmt := fmtOk, d := .dst, a := .none, b := .none, pops := 1 }
  | vst : RowWord f (.vst f) { op := 0x61, fmt := fmtOk, d := .none, a := .src, b := .none, pops := 1 }
  | vext : RowWord f (.vext f) { op := 0x64, fmt := fmtOk, d := .dst, a := .src, b := .src, pops := 1 }
  | vtopk : RowWord f (.vtopk f) { op := 0x65, fmt := (· == F32), d := .sp, a := .src, b := .none, pops := 1, dRows := fun _ => 8 }

/-- Any row word, with its operand columns. -/
def RowAny (k : Core) (f : RowF) (i : Instr) (sp : RowSpec) : Prop := RowKind k f i sp ∨ RowWord f i sp

/-- Conditions under which a row word that was dequeued faults, with its cause and TVAL (06 R113, R125; 13 R296; 14 R302). -/
inductive RowFault (k : Core) (f : RowF) : Instr → RowSpec → Cause → Nat → Prop where
  | bankOff (i : Instr) (sp : RowSpec) (b : Nat) (h : RowAny k f i sp)
      (off : (rowBanks k sp f).find? (fun b => k.tbpwr / 4 ^ b % 4 == 0) = some b) : RowFault k f i sp .tileBankOff b
  | overflow (i : Instr) (sp : RowSpec) (h : RowKind k f i sp) (on : ∀ b ∈ rowBanks k sp f, k.tbpwr / 4 ^ b % 4 ≠ 0) (n : f.rs ≠ 31)
      (full : 65535 ≤ k.sem.get 0 f.rs - (if f.aw = f.rs then 1 else 0)) : RowFault k f i sp .semOverflow f.rs
  | shift (on : ∀ b ∈ rowBanks k { op := 0x64, fmt := fmtOk, d := .dst, a := .src, b := .src, pops := 1 } f, k.tbpwr / 4 ^ b % 4 ≠ 0)
      (h : f.n < ownEntry k f 0) : RowFault k f (.vext f) { op := 0x64, fmt := fmtOk, d := .dst, a := .src, b := .src, pops := 1 } .controlValue (ownEntry k f 0)
  | address (on : ∀ b ∈ rowBanks k { op := 0x60, fmt := fmtOk, d := .dst, a := .none, b := .none, pops := 1 } f, k.tbpwr / 4 ^ b % 4 ≠ 0)
      (h : ownEntry k f 0 % 128 ≠ 0) :
      RowFault k f (.vld f) { op := 0x60, fmt := fmtOk, d := .dst, a := .none, b := .none, pops := 1 } .misaligned (ownEntry k f 0 % 2 ^ 48)
  | tile (row : Nat) (a : f.aOp = .sp row 1) (on : ∀ b ∈ rowBanks k (checkSpec f) f, k.tbpwr / 4 ^ b % 4 ≠ 0)
      (h : let sn := (f.rep + 1) * fmtBytes (f.b % 64) / f.w
           let tr := elemAt (k.rowRaw (.sp (row + sn))) 16 0
           tr / 2 ^ 96 ≠ crc32c (spadRows k.rowRaw row sn) ∨ tr / 2 ^ 72 % 64 ≠ f.b % 64) :
      RowFault k f (.vqchk f) (checkSpec f) .trailerMismatch (1024 * row)

/-! ### Matrix words (15 R324 to R334, R344; 12 R254 to R256) -/

/-- Element (i, j) of a result of n columns in the accumulator (15 R327; 07 R160). -/
def accAt (k : Core) (f : MatF) (n i j : Nat) : Nat :=
  if f.exact then k.acc.num (16384 * f.acc + 4 * (64 * i + j)) 4 + 2 ^ 32 * k.acc.num (16384 * (f.acc + 1) + 4 * (64 * i + j)) 4
  else k.acc.num (16384 * f.acc + accBytes f * (n * i + j)) (accBytes f)

/-- A byte of the accumulators that belongs to a result of m rows and n columns. -/
def InResult (f : MatF) (m n a : Nat) : Prop :=
  if f.exact then ∃ i j h, i < m ∧ j < n ∧ h < 2 ∧ 16384 * (f.acc + h) + 4 * (64 * i + j) ≤ a ∧ a < 16384 * (f.acc + h) + 4 * (64 * i + j) + 4
  else 16384 * f.acc ≤ a ∧ a < 16384 * f.acc + m * n * accBytes f

/-- Element i of outer vector o of an operand in scratchpad (15 R325). -/
def operandAt (k : Core) (fmt base str outer o i : Nat) : Nat :=
  let e := fmtBytes fmt
  let w := 1024 / e
  k.spad.num (1024 * ((base : Int) + (BitVec.ofNat 7 str).toInt * (o + outer * (i / w) : Nat)).toNat + e * (i % w)) e

/-- Element (i, x) of A, of m rows. -/
def aAt (k : Core) (f : MatF) (i x : Nat) : Nat := operandAt k f.afmt f.arow f.astr (f.mm1 + 1) i x
/-- Element (x, j) of B, of n columns. -/
def bAt (k : Core) (f : MatF) (x j : Nat) : Nat := operandAt k f.bfmt f.brow f.bstr (f.nm1 + 1) j x

/-- One element's update by its terms, g at a time: each group is summed exactly and added with one rounding (07 R158, R159). -/
def groupsSum (cf mode g : Nat) (terms : List Val) (old : Nat) : Nat × Nat :=
  (List.range ((terms.length + g - 1) / g)).foldl (fun p q =>
    let a := sumVals 1 ((terms.drop (g * q)).take g)
    let b := addVal mode (valueOf cf p.1) a.1
    let x := roundFloat cf mode false b.1
    (x.1, p.2 ||| a.2 ||| b.2 ||| x.2 ||| (valueOf cf p.1).snan)) (old, 0)

/-- The products of row i of A and column j of B. -/
def productsAt (k : Core) (f : MatF) (i j : Nat) : List Val :=
  (List.range (f.km1 + 1)).map (fun x => (mulVal (valueOf f.afmt (aAt k f i x)) (valueOf f.bfmt (bAt k f x j))).1)

/-- The exact sum of the first x products of an element in units of 2^-SC, over the element's old value (07 R161). -/
def exactSum (k : Core) (f : MatF) (i j x : Nat) : Int :=
  (if f.init then 0 else (BitVec.ofNat 64 (accAt k f (f.nm1 + 1) i j)).toInt) + (((productsAt k f i j).take x).map (Val.at (-(f.sc : Int)))).sum

/-- What a matrix word's result is (15 R329 to R334): its opcode, its rows and columns, and each element's bits and flags from its old bits. -/
inductive MatForm (k : Core) (f : MatF) : Instr → MatOp → Nat → Nat → (Nat → Nat → Nat → Nat × Nat) → Prop where
  | mnop : MatForm k f (.mnop f) .mnop 0 0 (fun _ _ _ => (0, 0))
  | matNotify : MatForm k f (.matNotify f) .notify 0 0 (fun _ _ _ => (0, 0))
  | mmul (h : f.exact = false) : MatForm k f (.mmul f) .mmul (f.mm1 + 1) (f.nm1 + 1)
      (fun i j old => groupsSum f.cfmt f.rnd (groupSize f.afmt f.bfmt) (productsAt k f i j) old)
  | mmulExact (h : f.exact = true)
      (finite : ∀ i j x, i ≤ f.mm1 → j ≤ f.nm1 → x ≤ f.km1 →
        (valueOf f.afmt (aAt k f i x)).isNan = false ∧ (valueOf f.afmt (aAt k f i x)).isInf = false ∧
        (valueOf f.bfmt (bAt k f x j)).isNan = false ∧ (valueOf f.bfmt (bAt k f x j)).isInf = false)
      (range : ∀ i j x, i ≤ f.mm1 → j ≤ f.nm1 → x ≤ f.km1 + 1 → -(2 ^ 63) ≤ exactSum k f i j x ∧ exactSum k f i j x < 2 ^ 63) :
      MatForm k f (.mmul f) .mmul (f.mm1 + 1) (f.nm1 + 1) (fun i j _ => ((exactSum k f i j (f.km1 + 1) % 2 ^ 64).toNat, 0))
  | mmv : MatForm k f (.mmv f) .mmv (f.mm1 + 1) (f.nm1 + 1)
      (fun i j old => groupsSum f.cfmt f.rnd (groupSize f.afmt f.bfmt) (productsAt k f i j) old)
  | mtr : MatForm k f (.mtr f) .mtr (f.nm1 + 1) (f.mm1 + 1) (fun i j old => groupsSum f.cfmt f.rnd 1 [valueOf f.afmt (aAt k f j i)] old)
  | mperm (h : ∀ i, i ≤ f.mm1 → k.spad.num (1024 * f.brow + 2 * i) 2 ≤ f.mm1) : MatForm k f (.mperm f) .mperm (f.mm1 + 1) (f.nm1 + 1)
      (fun i j old => groupsSum f.cfmt f.rnd 1 [valueOf f.afmt (aAt k f (k.spad.num (1024 * f.brow + 2 * i) 2) j)] old)
  | mrred : MatForm k f (.mrred f) .mrred (f.mm1 + 1) 1
      (fun i _ old => groupsSum f.cfmt f.rnd (groupSize f.afmt f.afmt) ((List.range (f.nm1 + 1)).map (fun x => valueOf f.afmt (aAt k f i x))) old)
  | mrd : MatForm k f (.mrd f) .mrd (f.mm1 + 1) (f.nm1 + 1) (fun _ _ old => (old, 0))
  | mwr : MatForm k f (.mwr f) .mwr (f.mm1 + 1) (f.nm1 + 1) (fun i j _ => (operandAt k f.cfmt f.arow f.astr (f.mm1 + 1) i j, 0))
  | mclr : MatForm k f (.mclr f) .mclr (f.mm1 + 1) (f.nm1 + 1) (fun _ _ _ => (0, 0))

/-- The bank of each tile that the store-out names (06 R124). -/
def outBank (f : MatF) (r : Nat) : Nat := min 3 ((f.orow / 16 + r / 8) / 4)

/-- The vectors of an operand may be read from scratchpad (15 R325). -/
def VectorsReadable (k : Core) (fmt base str outer inner : Nat) : Prop :=
  let w := 1024 / fmtBytes fmt
  ∀ o b, o < outer → b < (inner + w - 1) / w →
    SpadReadable k (1024 * ((base : Int) + (BitVec.ofNat 7 str).toInt * (o + outer * b : Nat)).toNat) (min w (inner - w * b) * fmtBytes fmt)

/-- The format and the width of A's vectors (15 R329 to R334). -/
def aForm (op : MatOp) (f : MatF) : Nat × Nat :=
  (if op = .mwr then f.cfmt else f.afmt, if op = .mmul ∨ op = .mmv then f.km1 + 1 else f.nm1 + 1)

/-- The scratchpad row of row r of a store-out, and the bytes of it that are written, where the result has m rows and n columns (15 R325). -/
def outSpad (f : MatF) (m n r : Nat) : Nat × Nat :=
  let w := 1024 / fmtBytes f.ofmt
  (((f.orow : Int) + (BitVec.ofNat 7 f.ostr).toInt * (r : Nat)).toNat, min w (n - w * (r / m)) * fmtBytes f.ofmt)

/-- The scratchpad lines that a store-out writes. -/
def outLines (op : MatOp) (f : MatF) : List Nat :=
  if f.outctl = 1 then (List.range (outRows op f)).flatMap (fun r =>
    let p := outSpad f (accShape op f).1 (accShape op f).2 r
    linesOf (1024 * p.1) p.2)
  else []

/-- A word that a matrix word writes: of the accumulators it names, or of a row of its store-out. -/
def OutWord (op : MatOp) (f : MatF) (st w : Nat) : Prop :=
  (st = 3 ∧ op ≠ .mrd ∧ w / 2048 ∈ accsOf op f) ∨ (st = 0 ∧ f.outctl = 2 ∧ ∃ r, r < outRows op f ∧ w / 128 = f.orow / 2 + r) ∨
    (st = 4 ∧ f.outctl = 1 ∧ ∃ r, r < outRows op f ∧ w / 128 = (outSpad f (accShape op f).1 (accShape op f).2 r).1)

/-- A matrix word that a core dequeues: it is well-formed for the task, its await is there, what it reads is full and in no uncorrectable error, what it stores in part to a tile is in none, the windows have room to log what it stores, and no injection aims at it (06 R113, R123 to R128, R142; 10 R209; 12 R260). -/
structure MatStart (s : State) (c : Nat) (op : MatOp) (f : MatF) : Prop where
  legal : matLegal (s.core c) op f = true
  fields : f.mm1 < 64 ∧ f.nm1 < 64 ∧ f.acc < 4
  await : f.aw ≠ 31 → 0 < (s.core c).sem.get 0 f.aw
  readA : op.sums = true ∨ op = .mwr → VectorsReadable (s.core c) (aForm op f).1 f.arow f.astr (f.mm1 + 1) (aForm op f).2
  readB : op = .mmul ∨ op = .mmv → VectorsReadable (s.core c) f.bfmt f.brow f.bstr (f.nm1 + 1) (f.km1 + 1)
  readIx : op = .mperm → SpadReadable (s.core c) (1024 * f.brow) (2 * (f.mm1 + 1))
  acc : op = .mrd ∨ (op.sums = true ∧ f.init = false) → ∀ p ∈ (s.core c).rerr,
    ¬(p.1 / 2 ^ 20 = 3 ∧ ∃ a, InResult f (accShape op f).1 (accShape op f).2 a ∧ a / 8 = p.1 % 2 ^ 20)
  parts : f.outctl = 2 → (accShape op f).2 * fmtBytes f.ofmt % 8 = 0 ∨ ∀ r, r < outRows op f → Sound (s.core c) 0 (128 * (f.orow / 2 + r)) 128
  logs : LogFits s c (outLines op f)
  aim : NotAimed (s.core c) (OutWord op f)

/-- It also runs to its end: the banks it stores to are on or in retention and its raise does not overflow (06 R113, R124, R125). -/
structure MatReady (s : State) (c : Nat) (op : MatOp) (f : MatF) : Prop extends MatStart s c op f where
  banks : f.outctl = 2 → ∀ r, r < outRows op f → (s.core c).tbpwr / 4 ^ outBank f r % 4 ≠ 0
  raise : f.rs ≠ 31 → (s.core c).sem.get 0 f.rs - (if f.aw = f.rs then 1 else 0) < 65535

/-- The row that holds element (i, j) of a store-out of m rows (15 R325). -/
def outRow (f : MatF) (m i j : Nat) : RowAt :=
  let r := i + m * (j / (1024 / fmtBytes f.ofmt))
  if f.outctl = 1 then .sp ((f.orow : Int) + (BitVec.ofNat 7 f.ostr).toInt * (r : Nat)).toNat else .tile (f.orow / 2 + r)

/-- An element of the result read out (15 R331; 07 R162). -/
def readOut (f : MatF) (x : Nat) : Nat × Nat :=
  roundFloat f.ofmt f.rnd f.sat (if f.exact then Val.scaled (BitVec.ofNat 64 x).toInt (-(f.sc : Int)) false else valueOf f.cfmt x)

/-- The tag of an accumulator that a word leaves (15 R328). -/
def tagAfter (op : MatOp) (f : MatF) (old : AccTag) : AccTag :=
  let scx := if f.exact && op == .mmul then some f.sc else none
  if op == .mrd then old
  else if f.init || op == .mwr || op == .mclr then { valid := true, kind := if f.exact then 2 else if f.cfmt = F64 then 1 else 0, scx := scx }
  else if f.exact then { old with scx := scx } else old

/-- A matrix word has run: the accumulator holds its result and the store-out its read-out, all other bytes are as they were, tags, flags, await and raise are as the rules say, and the ring and the follow-on words stand as given (15 R324; 06 R113). -/
structure MatDone (s t : State) (c : Nat) (op : MatOp) (f : MatF) (m n : Nat) (res : Nat → Nat → Nat → Nat × Nat) (ring : Ring) (follow : List Nat) : Prop where
  device : t = { s with
    cores := t.cores, clusters := t.clusters, mem := t.mem, hostMem := t.hostMem, mpoison := t.mpoison, hist := t.hist, farKnow := t.farKnow
    slices := t.slices, peerReqs := t.peerReqs, oldLeaves := t.oldLeaves, oldAtc := t.oldAtc, atsReqs := t.atsReqs }
  others : ∀ x, x ≠ c → t.phys x = s.phys x
  phys : t.phys c = { s.phys c with
    k := t.core c, seen := (t.phys c).seen, dirty := (t.phys c).dirty, pubno := (t.phys c).pubno, know := (t.phys c).know
    ecorr := (t.phys c).ecorr, elast := (t.phys c).elast }
  clusters : ∀ x, t.cluster x = if x = clusterOf c then { s.cluster x with rampNow := (t.cluster x).rampNow } else s.cluster x
  ramp : op = .mmul → (t.cluster (clusterOf c)).rampNow.get 0 (s.core c).tk.vi = (s.cluster (clusterOf c)).rampNow.get 0 (s.core c).tk.vi +
    ceilDiv (f.mm1 + 1) (tileEdge f.afmt f.bfmt) * ceilDiv (f.nm1 + 1) (tileEdge f.afmt f.bfmt) * ceilDiv (f.km1 + 1) (groupSize f.afmt f.bfmt)
  core : t.core c = { s.core c with
    mat := ring, follow := follow, q := (t.core c).q, sem := (t.core c).sem, fpflags := (t.core c).fpflags, mxcnt := (t.core c).mxcnt
    acc := (t.core c).acc, acctag := (t.core c).acctag, spad := (t.core c).spad, tiles := (t.core c).tiles
    tbpwr := (t.core c).tbpwr, rerr := (t.core c).rerr, corr := (t.core c).corr, spoison := (t.core c).spoison, win := (t.core c).win }
  power : Woken (s.core c) (t.core c) (outBanks op f)
  errors : ErrorsEnd (s.core c) (t.core c) (OutWord op f)
  healed : op ≠ .mrd → ∀ p, p ∈ (t.core c).rerr ∨ p ∈ (t.core c).corr →
    ¬(p.1 / 2 ^ 20 = 3 ∧ ((op = .mclr ∧ p.1 % 2 ^ 20 / 2048 ∈ accsOf op f) ∨ ∃ a, InResult f m n a ∧ a / 8 = p.1 % 2 ^ 20))
  exact : (s.core c).corr = [] → t.slices = s.slices ∧ (t.phys c).ecorr = (s.phys c).ecorr ∧ (t.phys c).elast = (s.phys c).elast
  logs : LinesLogged (s.core c) (t.core c) (· ∈ outLines op f)
  queue : ∀ x, (t.core c).queue x = (s.core c).queue x
  sem : ∀ x, x < 31 → (t.core c).sem.get 0 x = (s.core c).sem.get 0 x - (if x = f.aw then 1 else 0) + (if x = f.rs then 1 else 0)
  mem : f.rel = false → ∀ a, t.mem.read a = s.mem.read a
  result : ∀ i j, i < m → j < n → accAt (t.core c) f n i j = (res i j (if f.init then 0 else accAt (s.core c) f n i j)).1
  flags : (t.core c).fpflags = (s.core c).fpflags |||
    ((List.range m).flatMap (fun i => (List.range n).map (fun j => (res i j (if f.init then 0 else accAt (s.core c) f n i j)).2 |||
      (if f.outctl = 0 then 0 else (readOut f (accAt (t.core c) f n i j)).2)))).foldl (· ||| ·) 0
  cleared : op = .mclr → ∀ a, (t.core c).acc.read a = if a / 16384 ∈ accsOf op f then 0 else (s.core c).acc.read a
  rest : op ≠ .mclr → ∀ a, ¬InResult f m n a → (t.core c).acc.read a = (s.core c).acc.read a
  tags : ∀ a, (t.core c).acctag.get {} a = if a ∈ accsOf op f then tagAfter op f ((s.core c).acctag.get {} a) else (s.core c).acctag.get {} a
  out : f.outctl ≠ 0 → ∀ i j, i < m → j < n →
    (∀ x y, x < m → y < n → outRow f m x y = outRow f m i j → y % (1024 / fmtBytes f.ofmt) = j % (1024 / fmtBytes f.ofmt) → (x, y) = (i, j)) →
    elemAt ((t.core c).rowRaw (outRow f m i j)) (fmtBytes f.ofmt) (j % (1024 / fmtBytes f.ofmt)) = (readOut f (accAt (t.core c) f n i j)).1
  outRest : ∀ r b, (∀ i j, i < m → j < n → f.outctl ≠ 0 → outRow f m i j = r → b / fmtBytes f.ofmt ≠ j % (1024 / fmtBytes f.ofmt)) →
    ((t.core c).rowRaw r).getD b 0 = ((s.core c).rowRaw r).getD b 0

/-- Conditions under which a matrix word that was dequeued faults, with its cause and TVAL (15 R335; 06 R113; 07 R161). -/
inductive MatFault (k : Core) (f : MatF) : Instr → MatOp → Cause → Nat → Prop where
  | exact (h : f.exact = true) (i j : Nat) (hi : i ≤ f.mm1) (hj : j ≤ f.nm1)
      (bad : (∃ x, x ≤ f.km1 ∧ (valueOf f.afmt (aAt k f i x)).isNan = true) ∨
        ((∀ x, x ≤ f.km1 → (valueOf f.afmt (aAt k f i x)).isNan = false ∧ (valueOf f.afmt (aAt k f i x)).isInf = false ∧
          (valueOf f.bfmt (bAt k f x j)).isNan = false ∧ (valueOf f.bfmt (bAt k f x j)).isInf = false) ∧
          ∃ x, x ≤ f.km1 + 1 ∧ (exactSum k f i j x < -(2 ^ 63) ∨ 2 ^ 63 ≤ exactSum k f i j x))) : MatFault k f (.mmul f) .mmul .exactRange 0
  | index (i p : Nat) (hi : i ≤ f.mm1) (hp : p = k.spad.num (1024 * f.brow + 2 * i) 2) (big : f.mm1 < p)
      (first : ∀ j, j < i → k.spad.num (1024 * f.brow + 2 * j) 2 ≤ f.mm1) : MatFault k f (.mperm f) .mperm .controlValue p
  | overflow (n : f.rs ≠ 31) (full : 65535 ≤ k.sem.get 0 f.rs - (if f.aw = f.rs then 1 else 0)) : MatFault k f (.mnop f) .mnop .semOverflow f.rs

/-! ### Sampler words (16 R360 to R363; 09 R198 to R203) -/

/-- The binary32 value of a slot. -/
def slotVal (p : Nat × Nat) : Val := valueOf F32 p.1

/-- Slot a ranks before slot b: larger value, -0 equal to +0, then lower index (16 R360). -/
def slotBefore (a b : Nat × Nat) : Bool := cmpVal (slotVal a) (slotVal b) == some .gt || (cmpVal (slotVal a) (slotVal b) == some .eq && decide (a.2 < b.2))

/-- l holds the slots of c in ranking order. -/
def RankOf (c l : List (Nat × Nat)) : Prop := l.Perm c ∧ l.Pairwise (fun a b => slotBefore b a = false)

/-- The context after a word that goes on. -/
def onward (q r : Seq) : Seq := { r with pc := q.pc + 4, emptyAt := none }
/-- A context with x register d written. -/
def withX (q : Seq) (d v : Nat) : Seq := { q with x := q.x.put 0 d (BitVec.ofNat 32 v) }
/-- A context with k register d written. -/
def withK (q : Seq) (d v : Nat) : Seq := { q with k := q.k.put 0 d (v % 2 ^ 32) }

/-- n bytes at an address may be loaded by a sampler word: inside the claim, their lines full and nothing poisoned. -/
structure Loadable (k : Core) (a n : Nat) : Prop where
  inside : a + n ≤ k.spadLimit
  full : ∀ l ∈ linesOf a n, k.isEmpty l = false
  clean : k.spoison = []
  corr : k.corr = []

/-- A finite value above zero. -/
def AboveZero (v : Val) : Prop := ∃ m e, v = .num false m e ∧ m ≠ 0

/-- No slot holds a NaN. -/
def NoNan (q : Seq) : Prop := ∀ p ∈ q.cand, (slotVal p).isNan = false

/-- What topp's weights are: the value of a finite slot above zero, 0 for any other. -/
def slotWeight (p : Nat × Nat) : Val := match slotVal p with | .num false m e => .num false m e | _ => .num false 0 0

/-- The first m weights fall short of p times the total. -/
def Short (p : Val) (l : List (Nat × Nat)) (m : Nat) : Prop :=
  cmpVal (sumVals 0 ((l.take m).map slotWeight)).1 (mulVal p (sumVals 0 (l.map slotWeight)).1).1 = some .lt

/-- The exponentials of norm: the largest value is subtracted exactly (16 R363). -/
def normExp (c : List (Nat × Nat)) (p : Nat × Nat) : Nat :=
  let m := c.foldl (fun m p => if cmpVal m (slotVal p) = some .lt then slotVal p else m) (.inf true)
  (transc .exp F32 0 false p.1 (addVal 0 (slotVal p) m.neg).1).1

/-- What the words that go on leave of a context (16 R363); now is the count of moves. -/
inductive SampForm (k : Core) (q : Seq) (now : Nat) : Instr → (Seq → Prop) → Prop where
  | ldc (row n : Nat) (l : Loadable k (1024 * row) (8 * n)) : SampForm k q now (.smpLdc row n) (fun r => r =
      onward q { q with cand := (List.range n).map (fun i => (k.spad.num (1024 * row + 8 * i) 4, k.spad.num (1024 * row + 8 * i + 4) 4)) })
  | mask (a b : Nat) : SampForm k q now (.smpMask a b) (fun r => r = onward q { q with
      cand := q.cand.map (fun p => (if q.k.get 0 a ≤ p.2 ∧ p.2 < q.k.get 0 b then p.1 else 0xFF800000, p.2)) })
  | temp (a : Nat) (n : NoNan q) (h : AboveZero (valueOf F32 (q.x.get 0 a).toNat)) : SampForm k q now (.smpTemp a) (fun r => r = onward q { q with
      cand := q.cand.map (fun p => ((roundFloat F32 0 false (divVal (slotVal p) (valueOf F32 (q.x.get 0 a).toNat)).1).1, p.2)) })
  | topk (a : Nat) (n : NoNan q) : SampForm k q now (.smpTopk a) (fun r => ∃ l, RankOf q.cand l ∧ r = onward q { q with cand := l.take (q.k.get 0 a) })
  | topp (a : Nat) (n : NoNan q) (h : AboveZero (valueOf F32 (q.x.get 0 a).toNat))
      (one : cmpVal (valueOf F32 (q.x.get 0 a).toNat) (.num false 1 0) ≠ some .gt) (fin : ∀ p ∈ q.cand, slotVal p ≠ .inf false) :
      SampForm k q now (.smpTopp a) (fun r => ∃ l m, RankOf q.cand l ∧ r = onward q { q with cand := l.take m } ∧
        ((∀ p ∈ l, (slotWeight p).isZero = true) → m = l.length) ∧
        ((∃ p ∈ l, (slotWeight p).isZero = false) → 1 ≤ m ∧ ¬Short (valueOf F32 (q.x.get 0 a).toNat) l m ∧
          ∀ x, 1 ≤ x → x < m → Short (valueOf F32 (q.x.get 0 a).toNat) l x))
  | normNone (n : NoNan q) (h : ∀ p ∈ q.cand, slotVal p = .inf true) : SampForm k q now .smpNorm (fun r => r = onward q q)
  | norm (n : NoNan q) (fin : ∀ p ∈ q.cand, slotVal p ≠ .inf false) (h : ∃ p ∈ q.cand, slotVal p ≠ .inf true) :
      SampForm k q now .smpNorm (fun r => r = onward q { q with cand := q.cand.map (fun p => ((roundFloat F32 0 false
        (divVal (valueOf F32 (normExp q.cand p)) (sumVals 0 (q.cand.map (fun p => valueOf F32 (normExp q.cand p)))).1).1).1, p.2)) })
  | gumb (n : NoNan q) : SampForm k q now .smpGumb (fun r => r = onward q { q with cand := q.cand.map (fun p =>
      (if slotVal p = .inf true then p.1 else (roundFloat F32 0 false (addVal 0 (slotVal p) (valueOf F32 (gumbel q.seed q.pos p.2))).1).1, p.2)) })
  | argmax (d : Nat) (n : NoNan q) (p : Nat × Nat) (h : p ∈ q.cand) (fin : slotVal p ≠ .inf true)
      (top : ∀ x ∈ q.cand, cmpVal (slotVal p) (slotVal x) ≠ some .lt) : SampForm k q now (.smpArgmax d) (fun r => ∃ y ∈ q.cand,
        cmpVal (slotVal y) (slotVal p) = some .eq ∧ (∀ x ∈ q.cand, cmpVal (slotVal x) (slotVal y) = some .eq → y.2 ≤ x.2) ∧
        r = onward q (withK (withX q d y.1) d y.2))
  | argmaxNone (d : Nat) (h : ∀ p ∈ q.cand, slotVal p = .inf true) :
      SampForm k q now (.smpArgmax d) (fun r => r = onward q (withK (withX q d 0xFF800000) d 0xFFFFFFFF))
  | accept (d a b : Nat) (n : NoNan q) (h : AboveZero (valueOf F32 (q.x.get 0 a).toNat)) (v : Val)
      (hv : v = match q.cand.find? (fun p => p.2 == q.k.get 0 b) with
        | some p => (if slotVal p = .inf true then .num false 0 0 else slotVal p)
        | none => .num false 0 0) : SampForm k q now (.smpAccept d a b) (fun r => r = onward q (withK q d
          (if cmpVal (mulVal (gumbelU q.seed q.pos (q.k.get 0 b)) (valueOf F32 (q.x.get 0 a).toNat)).1 v = some .gt then 0 else 1)))
  | stat (d : Nat) : SampForm k q now (.smpStat d) (fun r => r = onward q (withK q d q.cand.length))
  | movx (d a : Nat) : SampForm k q now (.smpMovx d a) (fun r => r = onward q (withX q d (q.x.get 0 a).toNat))
  | movk (d a : Nat) : SampForm k q now (.smpMovk d a) (fun r => r = onward q (withK q d (q.k.get 0 a)))
  | ldx (d a : Nat) (l : Loadable k a 4) : SampForm k q now (.smpLdx d a) (fun r => r = onward q (withX q d (k.spad.num a 4)))
  | ldk (d imm : Nat) : SampForm k q now (.smpLdk d imm) (fun r => r = onward q (withK q d imm))
  | seed (a : Nat) (l : Loadable k a 16) : SampForm k q now (.smpSeed a) (fun r => r = onward q { q with seed := k.spad.num a 8, pos := k.spad.num (a + 8) 8 })
  | posadd (imm : Nat) : SampForm k q now (.smpPosadd imm) (fun r => r = onward q { q with pos := (q.pos + imm) % 2 ^ 64 })
  | endp : SampForm k q now .smpEndp (fun r => r = { q with st := 0, emptyAt := none })
  | emit (a : Nat) : SampForm k q now (.smpEmit a) (fun r => r = { q with
      reply := some (q.k.get 0 a % 2 ^ 32 + (if q.k.get 0 a = 0xFFFFFFFF then 1 else 0) * 2 ^ 32 + q.localNo * 2 ^ 40), replyAt := now, emptyAt := none })

/-- The words that halt a context with a reply: status and token (16 R361 to R363; 12 R261). -/
inductive SampHalt (k : Core) (q : Seq) : Instr → Nat → Nat → Prop where
  | illFormed (w : Nat) : SampHalt k q (.illformedSamplerWord w) 5 q.pc
  | beyond (d a : Nat) (h : k.spadLimit < a + 4) : SampHalt k q (.smpLdx d a) 5 q.pc
  | row (row n : Nat) (h : k.spadLimit < 1024 * row + 8 * n) : SampHalt k q (.smpLdc row n) 5 q.pc
  | nan (i : Instr) (h : (∃ a, i = .smpTemp a ∨ i = .smpTopk a ∨ i = .smpTopp a ∨ i = .smpArgmax a) ∨ i = .smpNorm ∨ i = .smpGumb ∨ ∃ d a b, i = .smpAccept d a b)
      (p : Nat × Nat) (first : q.cand.find? (fun p => (slotVal p).isNan) = some p) : SampHalt k q i 2 p.2
  | temp (a : Nat) (n : NoNan q) (h : ¬AboveZero (valueOf F32 (q.x.get 0 a).toNat)) : SampHalt k q (.smpTemp a) 6 q.pc
  | topp (a : Nat) (n : NoNan q) (h : ¬AboveZero (valueOf F32 (q.x.get 0 a).toNat) ∨
      cmpVal (valueOf F32 (q.x.get 0 a).toNat) (.num false 1 0) = some .gt ∨ ∃ p ∈ q.cand, slotVal p = .inf false) : SampHalt k q (.smpTopp a) 6 q.pc
  | norm (n : NoNan q) (h : ∃ p ∈ q.cand, slotVal p = .inf false) : SampHalt k q .smpNorm 6 q.pc
  | accept (d a b : Nat) (n : NoNan q) (h : ¬AboveZero (valueOf F32 (q.x.get 0 a).toNat)) : SampHalt k q (.smpAccept d a b) 6 q.pc

/-! ### The device and the host (02 R24 to R34; 03 R39 to R61) -/

/-- A legal frequency code (02 R24). -/
def LegalCode (v : Nat) : Prop := 12 ≤ v ∧ v ≤ 60

/-- What a write to a clock register, an FLL step, an LDO window and a replay make of a cluster (02 R24, R25, R27 to R30); t is the code its FLL approaches, and now the voltage its LDO holds. -/
inductive ClockForm (e : Cluster) (t now v : Nat) : Instr → Cluster → Prop where
  | cfreq (h : LegalCode (v % 64)) : ClockForm e t now v .cfreqWrite { e with
      cfreq := v % 64, refused := false, mv := if min e.cfreq e.ccap < min (v % 64) e.ccap then voltGd (min (v % 64) e.ccap) else e.mv }
  | ccap (h : LegalCode (v % 64)) : ClockForm e t now v .ccapWrite { e with
      ccap := v % 64, refused := false, mv := if min e.cfreq e.ccap < min e.cfreq (v % 64) then voltGd (min e.cfreq (v % 64)) else e.mv }
  | refused (i : Instr) (h : i = .cfreqWrite ∨ i = .ccapWrite) (bad : ¬LegalCode (v % 64)) : ClockForm e t now v i { e with refused := true }
  | replaytgt (h : v % 2 ^ 14 ≤ 10000) : ClockForm e t now v .replaytgtWrite { e with
      replaytgt := v % 2 ^ 14, refused := false, mv := if v % 2 ^ 14 = 0 ∧ min e.cfreq e.ccap ≤ e.cur then voltGd e.cur else e.mv }
  | replayRefused (h : 10000 < v % 2 ^ 14) : ClockForm e t now v .replaytgtWrite { e with refused := true }
  | up (h : e.cur < t) : ClockForm e t now v .fllStep { e with cur := e.cur + 1, mv := voltGd t }
  | down (h : t < e.cur) : ClockForm e t now v .fllStep { e with
      cur := e.cur - 1, mv := if e.replaytgt = 0 then voltGd (e.cur - 1) else voltIn (e.cur - 1) e.mv }
  | locked (h : e.cur = t) : ClockForm e t now v .fllStep e
  | held (h : e.cur ≠ t) : ClockForm e t now v .ldoWindow { e with winReplays := 0 }
  | guardBand (l : e.cur = t) (h : e.replaytgt = 0) : ClockForm e t now v .ldoWindow { e with winReplays := 0, mv := voltGd e.cur }
  | raise (l : e.cur = t) (h : e.replaytgt ≠ 0) (more : e.replaytgt * 2 ^ 20 < e.winReplays * 1000000) : ClockForm e t now v .ldoWindow { e with
      winReplays := 0, mv := voltIn e.cur (now + 5) }
  | lower (l : e.cur = t) (h : e.replaytgt ≠ 0) (less : e.winReplays * 1000000 < e.replaytgt * 2 ^ 20) : ClockForm e t now v .ldoWindow { e with
      winReplays := 0, mv := voltIn e.cur (now - 5) }
  | met (l : e.cur = t) (h : e.replaytgt ≠ 0) (same : e.winReplays * 1000000 = e.replaytgt * 2 ^ 20) : ClockForm e t now v .ldoWindow { e with
      winReplays := 0, mv := now }
  | replay : ClockForm e t now v .timingReplay { e with replaycnt := min (e.replaycnt + 1) (2 ^ 32 - 1), winReplays := e.winReplays + 1 }

/-- Key slot i is the one that verifies a stage: the lowest fused slot that is not revoked and whose key verifies its ECDSA P-521 signature (02 R32). -/
def Verifies (s : State) (g : Stage) (i : Nat) : Prop :=
  let ok (j : Nat) : Prop := s.fuseRevoked.testBit j = false ∧ onCurve (s.fuseKeys.get (0, 0) j) = true ∧
    ecdsaOk (s.fuseKeys.get (0, 0) j) g.code g.r g.s = true
  i < 4 ∧ ok i ∧ ∀ j, j < i → ¬ok j

/-- M extended with a stage's SHA-512 (02 R33). -/
def extendM (m : Nat) (g : Stage) : Nat := ofBytes (sha512 (toBytes 64 m ++ sha512 g.code))

/-- A device in the recovery state with a cause: memory, cores, contexts, launches and interfaces are as after reset, and what is fused, the flash and host memory stay (02 R32). -/
structure Recovery (s t : State) (cause : Nat) : Prop where
  boot : t.boot = 2 ∧ t.bootCause = cause
  cleared : t.mem = [] ∧ t.cores = [] ∧ t.launches = [] ∧ t.vis = [] ∧ t.ctxs = [] ∧ t.counters = []
  fused : t.fuseRevoked = s.fuseRevoked ∧ t.fuseKeys = s.fuseKeys ∧ t.idSecret = s.idSecret ∧ t.coremap = s.coremap ∧ t.serial = s.serial ∧
    t.flash = s.flash ∧ t.hostMem = s.hostMem

/-- A ready device after bring-up from step 3: kernel verified and measured, clusters at their reset codes, no memory, task, image or context held (02 R31 to R33). -/
structure Ready (s t : State) (m1 : Nat) : Prop where
  boot : t.boot = 1 ∧ t.fwKern = s.flash.kern.version ∧ t.measure = extendM m1 s.flash.kern ∧ t.measure1 = m1
  grant : t.agenda = s.agenda ++ [.event (.regWrite 5 0 0x048 (min s.flash.evcount0 4096 * 2 ^ 16 + s.flash.grant0.toNat * 2 ^ 63)) 0 0]
  cleared : t.mem = [] ∧ t.cores = [] ∧ t.launches = [] ∧ t.ctxs = [] ∧ t.counters = [] ∧ t.devid = 0xFFF
  clusters : ∀ c, c < 24 → (t.cluster c).cfreq = 0x30 ∧ (t.cluster c).ccap = 0x3C ∧ (t.cluster c).cur = 0x30 ∧ (t.cluster c).replaytgt = 0x64 ∧
    (t.cluster c).replaycnt = 0 ∧ (t.cluster c).refused = false
  vis : ∀ v, (t.vi v).run = false ∧ (t.vi v).pubrd = 0 ∧ (t.vi v).pubdepth = 16 ∧ (t.vi v).slots = []
  fused : t.fuseRevoked = s.fuseRevoked ∧ t.fuseKeys = s.fuseKeys ∧ t.idSecret = s.idSecret ∧ t.coremap = s.coremap ∧ t.serial = s.serial ∧
    t.flash = s.flash ∧ t.hostMem = s.hostMem

/-- What bring-up from step 3 comes to (02 R32). -/
def BroughtUp (s t : State) (m1 : Nat) (trainOk testOk : Bool) : Prop :=
  ((∀ i, ¬Verifies s s.flash.kern i) → Recovery s t (if s.fuseRevoked % 16 = 15 then 5 else 2)) ∧
    ∀ i, Verifies s s.flash.kern i →
      (trainOk = false → Recovery s t 3) ∧ (trainOk = true → testOk = false → Recovery s t 4) ∧ (trainOk = true → testOk = true → Ready s t m1)

/-- A HOUSE record of cluster cl that ends with this move: charged to no context, it goes to interface 0 (02 R34, R36, R38). -/
structure HouseRec (s : State) (cl : Nat) (r : EnergyRec) : Prop where
  account : r.kind = 4 ∧ r.vi = 0 ∧ r.ctx = 0 ∧ r.cluster = cl
  tend : r.tend = s.cycleAt cl (s.tick + 1)

/-- A slice has emitted record r of what it spent, named for the first cluster of its die (02 R36; log 25). -/
def housed (s : State) (sl : Nat) (r : EnergyRec) : State := s.updSlice sl (fun e => { e with erecs := e.erecs ++ [r], houseAt := s.tick + 1 })

/-- What an engineered or a due test on core c spends is in record r, and in no RUN record of its cluster's share (02 R34, R36; 06 R142). -/
def houseSpent (s : State) (c : Nat) (r : EnergyRec) : State :=
  (s.updSlice 0 (fun e => { e with erecs := e.erecs ++ [r] })).updPhys c (fun p => { p with lastE := p.lastE + r.microj })

/-- The log of window w of task k lies in slice sl, and the window is open (10 R209, R213). -/
def LogMet (k : Core) (sl w : Nat) : Prop :=
  (k.window w).st = 1 ∧ ((∃ e ∈ (k.window w).dlog, sliceOfPa e.2.1 = some sl) ∨ (k.tk.ctx % 12 = sl ∧ (k.window w).rlog ≠ []))

/-- A write of a core's EINJ that takes effect: the core is active, the kind is one or two bits, and the structure has the word (00 R1; 06 R142). -/
def EinjLegal (s : State) (c x : Nat) : Prop :=
  (c < 192 ∧ s.coremap.testBit c = true) ∧ (x / 2 ^ 24 % 4 = 1 ∨ x / 2 ^ 24 % 4 = 2) ∧
    x / 2 ^ 4 % 2 ^ 20 < [17408, 4096, 128, 8192, 65536, 8192].getD (x % 16) 0

/-- An aligned write to the service register space: its offset, and the state after it (00 R5; 01 R23; 06 R140; 13 R282). -/
inductive SvcForm (s : State) (x : Nat) : Nat → State → Prop where
  | crcerr (p : Nat) (h : p < 16) : SvcForm s x (0x10010 + 0x40 * p)
      { s with ports := s.ports.upd {} p (fun e => { e with crcerr := e.crcerr &&& (2 ^ 64 - 1 - x) }) }
  | replay (p : Nat) (h : p < 16) : SvcForm s x (0x10018 + 0x40 * p)
      { s with ports := s.ports.upd {} p (fun e => { e with replay := e.replay &&& (2 ^ 64 - 1 - x) }) }
  | feccorr (p : Nat) (h : p < 16) : SvcForm s x (0x10020 + 0x40 * p)
      { s with ports := s.ports.upd {} p (fun e => { e with feccorr := e.feccorr &&& (2 ^ 64 - 1 - x) }) }
  | perr (p : Nat) (h : p < 16) : SvcForm s x (0x10028 + 0x40 * p)
      { s with ports := s.ports.upd {} p (fun e => { e with perr := e.perr &&& (2 ^ 64 - 1 - x) }) }
  | downcnt (p : Nat) (h : p < 16) : SvcForm s x (0x10030 + 0x40 * p)
      { s with ports := s.ports.upd {} p (fun e => { e with downcnt := e.downcnt &&& (2 ^ 64 - 1 - x) }) }
  | readOnly (p r : Nat) (h : p < 16) (ro : r ∈ [0x00, 0x08, 0x38]) : SvcForm s x (0x10000 + 0x40 * p + r) s
  | cfreq (c : Nat) (h : c < 24) (e : Cluster) (f : ClockForm (s.cluster c) 0 0 x .cfreqWrite e) : SvcForm s x (0x20000 + 0x40 * c) (s.updCluster c (fun _ => e))
  | ccap (c : Nat) (h : c < 24) (e : Cluster) (f : ClockForm (s.cluster c) 0 0 x .ccapWrite e) : SvcForm s x (0x20008 + 0x40 * c) (s.updCluster c (fun _ => e))
  | replaytgt (c : Nat) (h : c < 24) (e : Cluster) (f : ClockForm (s.cluster c) 0 0 x .replaytgtWrite e) :
      SvcForm s x (0x20018 + 0x40 * c) (s.updCluster c (fun _ => e))
  | replaycnt (c : Nat) (h : c < 24) :
      SvcForm s x (0x20020 + 0x40 * c) (s.updCluster c (fun e => { e with replaycnt := e.replaycnt &&& (2 ^ 64 - 1 - x) }))
  | clockRead (c r : Nat) (h : c < 24) (ro : r ∈ [0x10, 0x28, 0x30, 0x38]) : SvcForm s x (0x20000 + 0x40 * c + r) s
  | ecorr (c : Nat) (h : c < 192) : SvcForm s x (0x30000 + 0x40 * c) (s.updPhys c (fun p => { p with ecorr := p.ecorr &&& (2 ^ 64 - 1 - x) }))
  | eunc (c : Nat) (h : c < 192) : SvcForm s x (0x30008 + 0x40 * c) (s.updPhys c (fun p => { p with eunc := p.eunc &&& (2 ^ 64 - 1 - x) }))
  | elast (c : Nat) (h : c < 192) : SvcForm s x (0x30010 + 0x40 * c) s
  | einjIgnored (c : Nat) (h : c < 192) (bad : ¬EinjLegal s c x) : SvcForm s x (0x30018 + 0x40 * c) s
  | atommode (n : Nat) (h : n < 12) :
      SvcForm s x (0x40000 + 0x40 * n) (s.updSlice n (fun e => if e.heldAdds = [] then { e with atommode := x % 2 } else e))

/-- A write of a register of BAR0 (03 R40): its offset and value, and the interface after it. -/
inductive Bar0Form (e : Vi) (x : Nat) : Nat → Vi → Prop where
  | pubbase (h : e.run = false) : Bar0Form e x 0x050 { e with pubbase := x / 64 * 64, cfgerr := false }
  | pubdepth (h : e.run = false) (n : Nat) (lo : 4 ≤ n) (hi : n ≤ 16) (d : x % 2 ^ 17 = 2 ^ n) : Bar0Form e x 0x058 { e with pubdepth := x % 2 ^ 17, cfgerr := false }
  | badDepth (h : ∀ n, 4 ≤ n → n ≤ 16 → x % 2 ^ 17 ≠ 2 ^ n) : Bar0Form e x 0x058 { e with cfgerr := true }
  | statbase (h : e.run = false) : Bar0Form e x 0x060 { e with statbase := x / 16 * 16, cfgerr := false }
  | running (off : Nat) (h : e.run = true) (o : off = 0x050 ∨ off = 0x058 ∨ off = 0x060) : Bar0Form e x off { e with cfgerr := true }
  | attnonce (i : Nat) (h : i < 8) : Bar0Form e x (0x080 + 8 * i) { e with attnonce := e.attnonce.writeBytes (8 * i) (toBytes 8 x) }
  | attaddr : Bar0Form e x 0x0C0 { e with attaddr := x / 128 * 128 }
  | erqbase : Bar0Form e x 0x0D0 { e with erqbase := x / 32 * 32, cfgerr := false }
  | erqoff (h : x % 2 ^ 17 = 0) : Bar0Form e x 0x0D8 { e with erqdepth := 0, cfgerr := false }
  | erqdepth (n : Nat) (lo : 4 ≤ n) (hi : n ≤ 16) (d : x % 2 ^ 17 = 2 ^ n) : Bar0Form e x 0x0D8 { e with erqdepth := x % 2 ^ 17, cfgerr := false }
  | erqrd : Bar0Form e x 0x0E0 { e with erqrd := x }
  | erqlost : Bar0Form e x 0x0E8 { e with erqlost := e.erqlost &&& (2 ^ 64 - 1 - x) }
  | vistat : Bar0Form e x 0x0F0 { e with vistat := e.vistat &&& (2 ^ 64 - 1 - x) }
  | evmirbase : Bar0Form e x 0x0F8 { e with evmirbase := x / 8 * 8 }
  | evvec : Bar0Form e x 0x188 { e with evvec := x % 2 ^ 7 }

/-- Counter n has nothing armed that its value would fire. -/
def Unarmed (s : State) (n : Nat) : Prop := (s.blks.get {} n).waitArmed = false ∧ (s.blks.get {} n).trigArmed = false

/-- Counter n, of which nothing is armed, grows by x, and what its maker knows of passes on to the waits on it (08 R178). -/
def counted (s : State) (n x : Nat) (know : Store Nat) : State :=
  { s with counters := s.counters.upd 0 n (· + ofN x), evKnow := s.evKnow.upd [] n (joinKnow · know) }

/-- The entry at an interface's read count that Porter may carry out: the device is ready, the ring runs and no warm restart has stopped it, and the entry has been read and waits without an effect made, or entries wait within the ring's depth (03 R45 to R47). -/
structure EntryAt (s : State) (v e kind : Nat) : Prop where
  ready : s.boot = 1 ∧ (s.vi v).run = true ∧ (s.vi v).restart = false
  entry : (s.vi v).taken = some (e, none) ∨ ((s.vi v).taken = none ∧ 0 < s.behind v ∧ s.behind v ≤ (s.vi v).pubdepth ∧
    e = s.hostMem.num ((s.vi v).pubbase + 64 * ((s.vi v).pubrd % (s.vi v).pubdepth)) 64)
  kind : e % 256 = kind

/-- Local counter i of an interface grows by x, where it is granted (03 R42). -/
def localAdd (s : State) (v i x : Nat) : State := if i < (s.vi v).evcount then s.evAdd ((s.vi v).evbase + i) x else s

/-- The entry is consumed in state b with a status code: the record with code, read count and tag is written, a failure counts in counter 1, and the read count goes up (03 R42, R45, R49). -/
def consumed (b : State) (v e code : Nat) : State :=
  let w := b.vi v
  let h := b.hostWrite (w.statbase + 16 * (w.pubrd % w.pubdepth)) (toBytes 16 (code + w.pubrd % 2 ^ 48 * 2 ^ 16 + e / 2 ^ 320 % 2 ^ 64 * 2 ^ 64))
  (if code = 0 ∨ code = 0xC then h else localAdd h v 1 1).updVi v (fun w => { w with pubrd := (w.pubrd + 1) % 2 ^ 64, taken := none })

/-- Fields of a LOAD, LAUNCH or UNLOAD entry (03 R48): context, slot, address, length. -/
def entryCtx (e : Nat) : Nat := e / 2 ^ 148 % 2 ^ 12
def entrySlot (e : Nat) : Nat := e / 2 ^ 168 % 2 ^ 6
def entryLen (e : Nat) : Nat := e / 2 ^ 384 % 2 ^ 64
def entryAddr (e : Nat) : Nat := e / 2 ^ 448 % 2 ^ 64

/-- LOADs that fail, with their codes, in the order of the checks (03 R49, R50). -/
inductive LoadFails (s : State) (v e : Nat) : Nat → Prop where
  | badctx (h : (s.ctx (entryCtx e)).live = false ∨ (s.ctx (entryCtx e)).vi ≠ v) : LoadFails s v e 0x9
  | slotbusy (ok : (s.ctx (entryCtx e)).live = true ∧ (s.ctx (entryCtx e)).vi = v) (h : ((s.vi v).slots.get {} (entrySlot e)).st ≠ 0) : LoadFails s v e 0x5
  | container (ok : (s.ctx (entryCtx e)).live = true ∧ (s.ctx (entryCtx e)).vi = v) (free : ((s.vi v).slots.get {} (entrySlot e)).st = 0)
      (h : 2 ^ 28 < entryLen e ∨ (s.hostOk (entryAddr e) (entryLen e) = true ∧ parseContainer (s.hostMem.part (entryAddr e) (entryLen e)) = none)) : LoadFails s v e 0x7
  | addrfault (ok : (s.ctx (entryCtx e)).live = true ∧ (s.ctx (entryCtx e)).vi = v) (free : ((s.vi v).slots.get {} (entrySlot e)).st = 0)
      (len : entryLen e ≤ 2 ^ 28) (h : s.hostOk (entryAddr e) (entryLen e) = false) : LoadFails s v e 0x8
  | keyrevoked (ok : (s.ctx (entryCtx e)).live = true ∧ (s.ctx (entryCtx e)).vi = v) (free : ((s.vi v).slots.get {} (entrySlot e)).st = 0)
      (len : entryLen e ≤ 2 ^ 28) (reach : s.hostOk (entryAddr e) (entryLen e) = true) (k : Container)
      (hk : parseContainer (s.hostMem.part (entryAddr e) (entryLen e)) = some k)
      (h : ((s.vi v).keys.get {} k.keySlot).revoked = true ∨ ((s.vi v).keys.get {} k.keySlot).key = none) : LoadFails s v e 0x3
  | sigfail (ok : (s.ctx (entryCtx e)).live = true ∧ (s.ctx (entryCtx e)).vi = v) (free : ((s.vi v).slots.get {} (entrySlot e)).st = 0)
      (len : entryLen e ≤ 2 ^ 28) (reach : s.hostOk (entryAddr e) (entryLen e) = true) (k : Container) (key : Nat × Nat)
      (hk : parseContainer (s.hostMem.part (entryAddr e) (entryLen e)) = some k)
      (held : ((s.vi v).keys.get {} k.keySlot) = { key := some key, revoked := false })
      (h : ecdsaOk key ((s.hostMem.part (entryAddr e) (entryLen e)).take (entryLen e - 192)) k.r k.sig = false) : LoadFails s v e 0x2

/-- LAUNCHes that fail before their trip counts are read, with their codes, in the order of the checks (03 R53; 05 R85, R86). -/
inductive LaunchFails (s : State) (v e : Nat) : Nat → Prop where
  | slotempty (h : ((s.vi v).slots.get {} (entrySlot e)).st ≠ 1) : LaunchFails s v e 0x6
  | prioceil (ok : ((s.vi v).slots.get {} (entrySlot e)).st = 1)
      (h : ((s.vi v).slots.get {} (entrySlot e)).claims.priority < e / 2 ^ 166 % 4) : LaunchFails s v e 0xB
  | badarg (ok : ((s.vi v).slots.get {} (entrySlot e)).st = 1)
      (prio : e / 2 ^ 166 % 4 ≤ ((s.vi v).slots.get {} (entrySlot e)).claims.priority)
      (h : (entryLen e ≠ 0 ∧ entryAddr e % 16 ≠ 0) ∨ 4096 < entryLen e ∨ (s.vi v).evcount ≤ e / 2 ^ 180 % 2 ^ 12) : LaunchFails s v e 0xA
  | addrfault (ok : ((s.vi v).slots.get {} (entrySlot e)).st = 1)
      (prio : e / 2 ^ 166 % 4 ≤ ((s.vi v).slots.get {} (entrySlot e)).claims.priority)
      (args : entryAddr e % 16 = 0 ∧ entryLen e ≤ 4096 ∧ e / 2 ^ 180 % 2 ^ 12 < (s.vi v).evcount)
      (h : s.hostOk (entryAddr e) (entryLen e) = false) : LaunchFails s v e 0x8

/-- What the segments of an image, and then its parameter page, have bound, page by page: at its virtual address each page of a segment holds the file's bytes and zeros after them (11 R236; 05 R86). -/
def LaidOut (mem : Memory) (file : List Byte) (paramVa : Nat) : List Segment → List (Nat × Nat) → Prop
  | [], bound => ∃ f, bound = [(paramVa, f)]
  | g :: r, bound => ∃ ps rest, bound = ps ++ rest ∧ ps.map (·.1) = (List.range g.pages).map (g.va + 65536 * ·) ∧
      (∀ i, i < 65536 * g.pages → mem.read ((ps.getD (i / 65536) (0, 0)).2 * 65536 + i % 65536) = if i < g.fsize then file.getD (g.off + i) 0 else 0) ∧
      LaidOut mem file paramVa r rest

/-- A LOAD that passes every check: the container that it brings, and the cores of its set (03 R50, R52; 11 R236). -/
structure LoadOk (s : State) (v e : Nat) (k : Container) (set : List Nat) : Prop where
  ctx : (s.ctx (entryCtx e)).live = true ∧ (s.ctx (entryCtx e)).vi = v
  free : ((s.vi v).slots.get {} (entrySlot e)).st = 0
  len : entryLen e ≤ 2 ^ 28
  reach : s.hostOk (entryAddr e) (entryLen e) = true
  parsed : parseContainer (s.hostMem.part (entryAddr e) (entryLen e)) = some k
  signed : ∃ q, (s.vi v).keys.get {} k.keySlot = { key := some q, revoked := false } ∧
    ecdsaOk q ((s.hostMem.part (entryAddr e) (entryLen e)).take (entryLen e - 192)) k.r k.sig = true
  cores : set = ((List.range 192).filter (fun c => (s.vi v).grant.testBit c && s.coremap.testBit c)).take (claimsOf k.claims).cores
  legal : s.imageOk (entryCtx e) k set = true ∧ k.inSpace = true
  quota : s.quotaOk v (claimsOf k.claims) = true
  contexts : ∀ c ∈ clustersOf set, (claimsOf k.claims).sampler ≤ (s.freeSeqs c).length

/-- Launches of an entry's slot that are unfinished (05 R86). -/
def unfinished (s : State) (v e : Nat) : Nat := (s.launches.filter (fun l => l.vi == v && l.slot == entrySlot e)).length

/-- A LAUNCH that neither records hashes nor replays, and passes every check (03 R53; 05 R85, R86). -/
structure LaunchOk (s : State) (v e : Nat) (block : List Byte) (recs : List LoopRec) : Prop where
  slot : ((s.vi v).slots.get {} (entrySlot e)).st = 1
  prio : e / 2 ^ 166 % 4 ≤ ((s.vi v).slots.get {} (entrySlot e)).claims.priority
  params : (entryLen e = 0 ∧ block = []) ∨ (entryAddr e % 16 = 0 ∧ 0 < entryLen e ∧ entryLen e ≤ 4096 ∧ block = s.hostMem.part (entryAddr e) (entryLen e))
  doneev : e / 2 ^ 180 % 2 ^ 12 < (s.vi v).evcount
  room : unfinished s v e < 16
  reach : s.hostOk (entryAddr e) (entryLen e) = true
  trips : ((s.vi v).slots.get {} (entrySlot e)).recs.mapM (resolveRec block) = some recs
  fits : ∀ r ∈ recs, r.gangTooBig ((s.vi v).slots.get {} (entrySlot e)).coreSet = false ∧ r.items ≤ 2 ^ 32
  plain : e / 2 ^ 176 % 8 = 0

/-- Word n of a privileged command: A0 in bits 63 to 8, A1 to A4 in the next words, A5 and A6 in the last two (03 R60). -/
def cmdArg (e n : Nat) : Nat := if n = 0 then e / 2 ^ 8 % 2 ^ 56 else e / 2 ^ (if n < 5 then 64 * n else 64 * (n + 1)) % 2 ^ 64

/-- Privileged commands that are carried out, with the state they leave before their entry is consumed (03 R51, R60; 01 R18, R21; 02 R25; 04 R66). -/
inductive CmdForm (s : State) (a : Nat → Nat) : Instr → Nat → State → Prop where
  | viset (v g base n : Nat) (hv : v = a 0) (hg : g = (a 1 + a 2 * 2 ^ 64 + a 3 * 2 ^ 128) % 2 ^ 192) (hb : base = a 4 % 2 ^ 12) (hn : n = a 4 / 2 ^ 16 % 2 ^ 13)
      (lt : v < 256) (empty : ∀ p ∈ (s.vi v).slots, p.2.st = 0) (range : base + n ≤ 4096) (cores : ∀ c, c < 192 → g.testBit c = true → s.coremap.testBit c = true)
      (apart : ∀ p ∈ s.vis, p.1 ≠ v → p.2.grant &&& g = 0 ∧ (n = 0 ∨ p.2.evcount = 0 ∨ base + n ≤ p.2.evbase ∨ p.2.evbase + p.2.evcount ≤ base)) :
      CmdForm s a .viset 0x10 (s.updVi v (fun e => { e with
        grant := g, evbase := base, evcount := n, ceiling := a 4 / 2 ^ 32 % 4, smpQuota := a 4 / 2 ^ 34 % 2 ^ 7, pageQuota := a 5, layQuota := a 6 }))
  | keyRevoke (h : (a 0).testBit 16 = true) (no : (a 0).testBit 17 = false) : CmdForm s a .keyset 0x11 (s.updVi (a 0 % 256) (fun e => { e with
      keys := e.keys.put {} (a 0 / 2 ^ 8 % 8) { e.keys.get {} (a 0 / 2 ^ 8 % 8) with revoked := true } }))
  | keyClear (h : (a 0).testBit 17 = true) (no : (a 0).testBit 16 = false) :
      CmdForm s a .keyset 0x11 (s.updVi (a 0 % 256) (fun e => { e with keys := e.keys.put {} (a 0 / 2 ^ 8 % 8) {} }))
  | keyWrite (q : Nat × Nat) (h : (a 0).testBit 16 = false) (no : (a 0).testBit 17 = false) (reach : s.hostOk (a 1) 132 = true)
      (hq : q = (s.hostMem.num (a 1) 66, s.hostMem.num (a 1 + 66) 66)) (curve : onCurve q = true) :
      CmdForm s a .keyset 0x11 (s.updVi (a 0 % 256) (fun e => { e with keys := e.keys.put {} (a 0 / 2 ^ 8 % 8) { key := some q, revoked := false } }))
  | ctxnew (f : Nat) (t : State) (lt : a 0 < 256) (id : a 1 % 2 ^ 12 ≠ 0) (free : (s.ctx (a 1 % 2 ^ 12)).live = false)
      (root : s.newTable (a 1 % 2 ^ 12) [] = some (f, t)) :
      CmdForm s a .ctxnew 0x12 (({ t with tables := t.tables.put [] f [] } : State).updCtx (a 1 % 2 ^ 12)
        (fun _ => { live := true, vi := a 0, pasid := a 2 % 2 ^ 20, root := f }))
  | ctxfree (u : State) (id : 0 < a 1) (lt : a 1 < 4096) (live : (s.ctx (a 1)).live = true)
      (idle : ∀ p ∈ s.vis, ∀ q ∈ p.2.slots, q.2.st = 0 ∨ q.2.ctx ≠ a 1)
      (freed : u = (s.frames.filter (fun p => decide (p.2.2 = a 1 + 1))).foldl (fun u p => u.freeFrame p.1) (s.flushCtx (a 1))) :
      CmdForm s a .ctxfree 0x13 (({ u with
        tables := u.tables.filter (fun p => decide (∀ b ∈ s.frames, b.1 = p.1 / 16 → b.2 ≠ (0, a 1 + 1)))
        cores := u.cores.mapVals {} (fun _ p => { p with
          k := { p.k with holder := p.k.holder.filter (fun n => decide (n ≠ a 1)) }
          acct := p.acct.map (fun q => if q.1 = a 1 then (a 1, true) else q) }) } : State).updCtx
          (a 1) (fun _ => {}))
  | peerset (lt : a 0 < 256) (n : a 1 < 64) (own : a 2 % 2 ^ 12 ≠ s.devid) (null : a 2 % 2 ^ 12 ≠ 0xFFF) :
      CmdForm s a .peerset 0x14 (s.updVi (a 0) (fun e =>
        { e with peers := e.peers.put 0 (a 1) (a 2 % 2 ^ 27 + a 3 * 2 ^ 64) }))
  | routeset (set : Bool) (hs : set = (a 0).testBit 55) (own : set = true → a 0 % 2 ^ 12 ≠ 0xFFF) (dev : a 1 < 0xFFF) (port : a 2 < 16 ∨ a 2 = 0xFF) :
      CmdForm s a .routeset 0x15 { s with devid := if set then a 0 % 2 ^ 12 else s.devid, route := s.route.put 0 (a 1) (if a 2 = 0xFF then 0 else a 2 + 1) }
  | clockset (cl : a 0 < 24) (e f : Cluster) (he : ClockForm (s.cluster (a 0)) 0 0 (a 1) .cfreqWrite e) (ok : LegalCode (a 1 % 64))
      (hf : ClockForm e 0 0 (a 2) .replaytgtWrite f) (rt : a 2 % 2 ^ 14 ≤ 10000) : CmdForm s a .clockset 0x16 (s.updCluster (a 0) (fun _ => f))
  | unmap (size va : Nat) (hva : va = a 1) (p : a 2 = size * 2 ^ 7) (sz : size < 4) (ctx : a 0 < 4096) (live : (s.ctx (a 0)).live = true)
      (lt : va < 2 ^ 48) (al : va % leafBytes size = 0) (free : s.windowHolds (a 0) va (leafBytes size) = false)
      (no : s.meets (a 0) va (leafBytes size) = []) : CmdForm s a .mapPage 0x17 s
  | unmapLeaf (l : Leaf) (va : Nat) (hva : va = a 1) (p : a 2 = l.size * 2 ^ 7) (sz : l.size < 4) (ctx : a 0 < 4096) (live : (s.ctx (a 0)).live = true)
      (lt : va < 2 ^ 48) (al : va % leafBytes l.size = 0) (free : s.windowHolds (a 0) va (leafBytes l.size) = false)
      (one : s.meets (a 0) va (leafBytes l.size) = [l]) (away : l.pte / 4 % 4 ≠ 1) (t : State)
      (retired : t = ((((s.dropLeaf (a 0) l).dropCached (a 0) va).retire s.tick (fun n => decide (n = a 0)) va (leafBytes l.size)).retireLeaf s.tick (a 0) l))
      (quiet : t.marked s.tick = false) : CmdForm s a .mapPage 0x17 t
  | map (t : State) (size va : Nat) (hva : va = a 1) (hp : pteLegal va (a 2) = true) (valid : (a 2).testBit 0 = true) (hs : size = a 2 / 2 ^ 7 % 4)
      (device : a 2 / 4 % 4 = 1 → s.framesOf (s.ctx (a 0)).vi (a 2 / 2 ^ 12 % 2 ^ 32 * 4096) (leafBytes size) = true ∧ s.aliases (a 0) va (a 2) = false)
      (ctx : a 0 < 4096) (live : (s.ctx (a 0)).live = true) (free : s.windowHolds (a 0) va (leafBytes size) = false)
      (no : s.meets (a 0) va (leafBytes size) = []) (added : s.addLeaf (a 0) { va := va, size := size, pte := a 2 } = some t) : CmdForm s a .mapPage 0x17 t
  | vireset (one : 0 < a 0) (lt : a 0 < 256) (ended : ((s.restart (a 0)).vi (a 0)).restart = false) : CmdForm s a .vireset 0x18 (s.restart (a 0))

/-- Privileged commands that are refused with BADARG before any effect (03 R60; 01 R18). -/
inductive CmdRefused (s : State) (a : Nat → Nat) : Instr → Nat → Prop where
  | viset (h : 256 ≤ a 0 ∨ 4096 < a 4 % 2 ^ 12 + a 4 / 2 ^ 16 % 2 ^ 13) : CmdRefused s a .viset 0x10
  | keyset (h : (a 0).testBit 16 = true) (g : (a 0).testBit 17 = true) : CmdRefused s a .keyset 0x11
  | ctxnew (h : 256 ≤ a 0 ∨ a 1 % 2 ^ 12 = 0 ∨ (s.ctx (a 1 % 2 ^ 12)).live = true ∨ s.newTable (a 1 % 2 ^ 12) [] = none) : CmdRefused s a .ctxnew 0x12
  | ctxfree (h : a 1 = 0 ∨ 4096 ≤ a 1 ∨ (s.ctx (a 1)).live = false) : CmdRefused s a .ctxfree 0x13
  | peerset (h : 64 ≤ a 1 ∨ (a 2 + a 3 * 2 ^ 64) % 2 ^ 12 = s.devid ∨ (a 2 + a 3 * 2 ^ 64) % 2 ^ 12 = 0xFFF) : CmdRefused s a .peerset 0x14
  | routeset (h : ((a 0).testBit 55 = true ∧ a 0 % 2 ^ 12 = 0xFFF) ∨ 0xFFF ≤ a 1 ∨ (16 ≤ a 2 ∧ a 2 ≠ 0xFF)) : CmdRefused s a .routeset 0x15
  | clockset (h : 24 ≤ a 0) : CmdRefused s a .clockset 0x16
  | mapPage (h : (s.ctx (a 0)).live = false ∨ 2 ^ 48 ≤ a 1 ∨ a 1 % leafBytes (a 2 / 2 ^ 7 % 4) ≠ 0 ∨ s.windowHolds (a 0) (a 1) (leafBytes (a 2 / 2 ^ 7 % 4)) = true) :
      CmdRefused s a .mapPage 0x17
  | vireset (h : a 0 = 0 ∨ 256 ≤ a 0) : CmdRefused s a .vireset 0x18

/-- A core has a task of interface v that has begun. -/
def TaskOf (s : State) (v c : Nat) : Prop :=
  (s.core c).task.isSome = true ∧ (s.core c).tk.vi = v ∧ (s.core c).phase ≠ .dispatched ∧ (s.core c).phase ≠ .free

/-- A function-level reset of interface v is over: its tasks, launches and images are gone, its counters are 0, its register block is at reset, and grants, keys and peers stay (03 R61). -/
structure Restarted (s t : State) (v : Nat) : Prop where
  tasks : ∀ c, TaskOf s v c → (t.core c).task = none
  launches : ∀ l ∈ t.launches, l.vi = v → (s.vi v).restart = true ∧ l ∈ s.launches
  counters : ∀ i, (s.vi v).evbase ≤ i → i < (s.vi v).evbase + (s.vi v).evcount → t.counter i = 0
  block : t.vi v = { evbase := (s.vi v).evbase, evcount := (s.vi v).evcount, grant := (s.vi v).grant, ceiling := (s.vi v).ceiling
                     smpQuota := (s.vi v).smpQuota, pageQuota := (s.vi v).pageQuota, layQuota := (s.vi v).layQuota, keys := (s.vi v).keys
                     peers := (s.vi v).peers, atsOff := (s.vi v).atsOff, priFail := (s.vi v).priFail
                     priAlloc := (s.vi v).priAlloc }

/-! ### Ranrum (01 R16 to R23) -/

/-- What port p puts on its link for a flit f: slots, data, addresses, channel, valid bits and TTL are f's; traffic takes the port's next SEQ; ACK is the port's, CREDIT returns up to three of what each virtual channel is owed, and the CRC is of the whole (01 R16). -/
structure Sent (s : State) (p : Nat) (f g : Flit) : Prop where
  body : g.slots = f.slots ∧ g.data = f.data ∧ g.crc = Config.crc64 (flitBody g)
  low : g.hdr % 2 ^ 32 = f.hdr % 2 ^ 32
  seq : g.hdr / 2 ^ 32 % 2 ^ 12 = (if f.hdr % 2 ^ 8 = 1 then (s.port p).txseq % 2 ^ 12 else f.hdr / 2 ^ 32 % 2 ^ 12)
  ack : g.hdr / 2 ^ 44 % 2 ^ 12 = (s.port p).rxseq % 2 ^ 12
  valid : g.hdr / 2 ^ 56 % 2 ^ 10 = f.hdr / 2 ^ 56 % 2 ^ 10
  credit : ∀ v, v < 8 → g.hdr / 2 ^ (66 + 2 * v) % 4 = min 3 ((s.port p).owed.get 0 v)
  high : g.hdr / 2 ^ 82 = f.hdr / 2 ^ 82

/-- A flit has been handed to port p: an UP port sends it, and keeps traffic until it is acknowledged; another keeps it waiting (01 R16, R20). -/
structure Handed (s t : State) (p : Nat) (f : Flit) : Prop where
  waits : (s.port p).state ≠ 2 → t = s.updPort p (fun e => { e with waiting := e.waiting ++ [f] })
  sent : (s.port p).state = 2 → ∃ g, Sent s p f g ∧ t = { s with
    tx := s.tx ++ [(p, g)]
    ports := s.ports.put {} p { s.port p with
      owed := (s.port p).owed.mapVals 0 (fun _ n => n - 3)
      unacked := (s.port p).unacked ++ (if f.hdr % 2 ^ 8 = 1 then [g] else [])
      txseq := if f.hdr % 2 ^ 8 = 1 then ((s.port p).txseq + 1) % 2 ^ 12 else (s.port p).txseq } }

/-- The flit that answers a command: its slot 0 names the operation and returns the command's context, tag, page and length, and its data slot has the data (01 R16 to R18; log 10 for its virtual channel). -/
def answerFlit (s : State) (c : PeerCmd) (op data : Nat) : Flit :=
  { hdr := 1 + c.src * 2 ^ 8 + s.devid * 2 ^ 20 + (Config.channel (c.src * 2 ^ 32 + c.paddr % 2 ^ 44 / 4096)).toNat * 2 ^ 56 + 2 ^ 59 +
      (if op = 0x08 ∨ op = 0x0A then 2 ^ 65 else 0) + 31 * 2 ^ 82
    slots := [op + c.ctx % 2 ^ 12 * 2 ^ 8 + c.tag % 2 ^ 16 * 2 ^ 20 + c.paddr % 2 ^ 44 * 2 ^ 36 + (c.len / 8 - 1) % 16 * 2 ^ 80]
    data := data }

/-- The answer to command c has gone out: nothing without a route, else one flit handed to the routed port (01 R16 to R18). -/
structure Answered (s t : State) (c : PeerCmd) (op data : Nat) : Prop where
  lost : s.route.get 0 c.src = 0 → t = s
  sent : ∀ p, s.route.get 0 c.src = p + 1 → Handed s t p (answerFlit s c op data)

/-- One step after another, each in relation R to the next thing of a list. -/
inductive Each {α : Type} (R : State → State → α → Prop) : State → State → List α → Prop where
  | nil (s : State) : Each R s s []
  | cons (s u t : State) (a : α) (l : List α) (h : R s u a) (r : Each R u t l) : Each R s t (a :: l)

/-- A peer may reach n bytes at a local address through a context: it is live and maps them in one device page with the peer grant (01 R22; 04 R64). -/
def PeerMay (s : State) (ctx pa n : Nat) : Prop :=
  (s.ctx ctx).live = true ∧ (sliceOfPa pa).isSome = true ∧ ∃ l ∈ s.leaves ctx, l.pte / 4 % 4 = 1 ∧ l.pte.testBit 11 = true ∧
    l.pte / 2 ^ 12 % 2 ^ 32 * 4096 ≤ pa ∧ pa + n ≤ l.pte / 2 ^ 12 % 2 ^ 32 * 4096 + leafBytes l.size

/-- No sector of n bytes is poisoned (01 R13). -/
def Clean (s : State) (pa n : Nat) : Prop := ∀ i, pa / 32 ≤ i → i < (pa + n + 31) / 32 → s.mpoison.get false i = false

/-- Bytes have been written at a home in device memory from outside the cores, each word of them as the write e: each word they touch has that write more in its coherence order, and the sectors written whole have lost their poison (01 R13; 08 R169). -/
structure HomeWritten (s t : State) (pa : Nat) (bs : List Byte) (e : Past) : Prop where
  rest : t = { s with mem := t.mem, hist := t.hist, mpoison := t.mpoison }
  mem : ∀ a, t.mem.read a = if pa ≤ a ∧ a < pa + bs.length then bs.getD (a - pa) 0 else s.mem.read a
  touched : ∀ w, pa < 8 * w + 8 → 8 * w < pa + bs.length → t.past w =
    { e with old := s.homeWord w, off := max pa (8 * w) - 8 * w, len := min (pa + bs.length) (8 * w + 8) - max pa (8 * w) } :: s.past w
  others : ∀ w, 8 * w + 8 ≤ pa ∨ pa + bs.length ≤ 8 * w → t.past w = s.past w
  poison : ∀ i, t.mpoison.get false i = (s.mpoison.get false i && !decide (pa ≤ 32 * i ∧ 32 * i + 32 ≤ pa + bs.length))

/-- Read command d goes on where c ends, for the same requester and context (07 R165; 01 R17). -/
def GoesOn (c d : PeerCmd) : Prop := d.op = 0x01 ∧ d.src = c.src ∧ d.ctx = c.ctx ∧ d.paddr = c.paddr + c.len

/-- A read command that no later one continues. -/
def Alone (c : PeerCmd) (r : List PeerCmd) : Prop := ∀ d l, r = d :: l → ¬GoesOn c d

/-- Commands that continue a read one after another: they make one read with it (07 R165). -/
inductive OneRead : PeerCmd → List PeerCmd → Prop where
  | nil (c : PeerCmd) : OneRead c []
  | cons (c d : PeerCmd) (l : List PeerCmd) (h : GoesOn c d) (r : OneRead d l) : OneRead c (d :: l)

/-- Whether a command is a release at system scope, the one that covers its sender (01 R17; 08 R171). -/
def releases (c : PeerCmd) : Bool := c.ord.testBit 1 && c.ord / 4 == 1

/-- The state once a command has read n bytes: where it is an acquire at system scope, the parties outside know what the releases at system scope there pass on (08 R171, R177; log 7). -/
def tookIn (s : State) (c : PeerCmd) (n : Nat) : State := if c.ord.testBit 0 ∧ c.ord / 4 = 1 then s.farAcquire c.paddr n else s

/-- What the parties outside know once they have acquired n bytes of device memory: at least what they knew, and what each release at system scope there passes on (08 R177). -/
structure FarAcquired (s t : State) (pa n : Nat) : Prop where
  rest : t = { s with farKnow := t.farKnow }
  kept : ∀ k, s.farKnow.get 0 k ≤ t.farKnow.get 0 k
  learnt : ∀ w, pa < 8 * w + 8 → 8 * w < pa + n → ∀ e ∈ s.past w, ∀ know, e.rel = some (4, know) → ∀ k, know.get 0 k ≤ t.farKnow.get 0 k

/-- A read command is answered with its bytes, or with an error where the page is not granted or a sector is poisoned (01 R17, R22). -/
def ReadAnswered (s t : State) (c : PeerCmd) : Prop :=
  (PeerMay s c.ctx c.paddr c.len → Clean s c.paddr c.len → Answered (tookIn s c c.len) t c 0x08 (s.mem.num c.paddr c.len)) ∧
    (¬(PeerMay s c.ctx c.paddr c.len ∧ Clean s c.paddr c.len) → Answered s t c 0x0F 0)

/-- The integer atomics by the number a peer command gives them (log 15). -/
inductive PeerAmo : Nat → ((w : Nat) → BitVec w → BitVec w → BitVec w) → Prop where
  | add : PeerAmo 0 (fun _ x y => x + y)
  | swap : PeerAmo 1 (fun _ _ y => y)
  | and : PeerAmo 3 (fun _ x y => x &&& y)
  | or : PeerAmo 4 (fun _ x y => x ||| y)
  | xor : PeerAmo 5 (fun _ x y => x ^^^ y)
  | min : PeerAmo 6 (fun _ x y => if x.sle y then x else y)
  | max : PeerAmo 7 (fun _ x y => if x.sle y then y else x)
  | minu : PeerAmo 8 (fun _ x y => if x.ule y then x else y)
  | maxu : PeerAmo 9 (fun _ x y => if x.ule y then y else x)

/-- The sum that a floating-point add leaves in n bytes, rounded to nearest even (13 R280). -/
def faddAt (m : Memory) (a n x : Nat) : Nat :=
  let f := if n = 4 then F32 else F64
  (roundFloat f 0 false (addVal 0 (valueOf f (m.num a n)) (valueOf f (x % 2 ^ (8 * n)))).1).1

/-- A command is not carried out: the context lets no peer reach its bytes, they are poisoned, or it breaks the rules of its operation (01 R17, R22; 07 R163). -/
inductive PeerRefused (s : State) (c : PeerCmd) : Instr → Nat → Prop where
  | read (h : ¬PeerMay s c.ctx c.paddr c.len ∨ ¬Clean s c.paddr c.len) : PeerRefused s c .peerRead 0x01
  | write (h : ¬PeerMay s c.ctx c.paddr c.len) : PeerRefused s c .peerWrite 0x02
  | atomic (n : Nat) (hn : n = 4 * (c.fn % 2 + 1)) (h : 10 < c.fn / 2 ∨ c.paddr % n ≠ 0 ∨ ¬PeerMay s c.ctx c.paddr n ∨ ¬Clean s c.paddr n) :
      PeerRefused s c .peerAtomic 0x03
  | notObject (h : c.paddr % 8 ≠ 0 ∨ 4096 < c.paddr % 4096 + 16 ∨ xobjBins (s.mem.num c.paddr 16) = none) : PeerRefused s c .exactAccumulate 0x04
  | object (b : Nat) (hb : xobjBins (s.mem.num c.paddr 16) = some b)
      (h : 4096 < c.paddr % 4096 + 16 + 8 * b ∨ ¬PeerMay s c.ctx c.paddr (16 + 8 * b) ∨ ¬Clean s c.paddr (16 + 8 * b)) : PeerRefused s c .exactAccumulate 0x04
  | counter (h : (s.ctx c.ctx).live = false ∨ (s.vi (s.ctx c.ctx).vi).evcount ≤ c.paddr % 2 ^ 12) : PeerRefused s c .eventCounterAdd 0x05

/-- Commands that are carried out: the step, their operation, the state they leave before the answer, and the answer's operation and data (01 R17, R22; 07 R164; 13 R280). -/
inductive PeerForm (s : State) (c : PeerCmd) : Instr → Nat → State → Nat → Nat → Prop where
  | read (h : PeerMay s c.ctx c.paddr c.len) (clean : Clean s c.paddr c.len) : PeerForm s c .peerRead 0x01 (tookIn s c c.len) 0x08 (s.mem.num c.paddr c.len)
  | write (u : State) (h : PeerMay s c.ctx c.paddr c.len) (w : u = s.peerWrite c.paddr (releases c) (toBytes c.len c.data)) : PeerForm s c .peerWrite 0x02 u 0x09 0
  | atomic (k n : Nat) (u : State) (g : (w : Nat) → BitVec w → BitVec w → BitVec w) (amo : PeerAmo k g) (fn : c.fn / 2 = k) (hn : n = 4 * (c.fn % 2 + 1))
      (al : c.paddr % n = 0) (h : PeerMay s c.ctx c.paddr n) (clean : Clean s c.paddr n)
      (w : u = (tookIn s c n).peerWrite c.paddr (releases c) (toBytes n (g (8 * n) (BitVec.ofNat (8 * n) (s.mem.num c.paddr n)) (BitVec.ofNat (8 * n) (c.data % 2 ^ 64))).toNat)) :
      PeerForm s c .peerAtomic 0x03 u 0x0A (s.mem.num c.paddr n)
  | swapped (n : Nat) (u : State) (fn : c.fn / 2 = 2) (hn : n = 4 * (c.fn % 2 + 1)) (al : c.paddr % n = 0) (h : PeerMay s c.ctx c.paddr n)
      (clean : Clean s c.paddr n) (eq : s.mem.num c.paddr n = c.data / 2 ^ 64 % 2 ^ (8 * n))
      (w : u = (tookIn s c n).peerWrite c.paddr (releases c) (toBytes n (c.data % 2 ^ (8 * n)))) : PeerForm s c .peerAtomic 0x03 u 0x0A (s.mem.num c.paddr n)
  | kept (n : Nat) (fn : c.fn / 2 = 2) (hn : n = 4 * (c.fn % 2 + 1)) (al : c.paddr % n = 0) (h : PeerMay s c.ctx c.paddr n)
      (clean : Clean s c.paddr n) (ne : s.mem.num c.paddr n ≠ c.data / 2 ^ 64 % 2 ^ (8 * n)) : PeerForm s c .peerAtomic 0x03 (tookIn s c n) 0x0A (s.mem.num c.paddr n)
  | fadd (n : Nat) (u : State) (fn : c.fn / 2 = 10) (hn : n = 4 * (c.fn % 2 + 1)) (al : c.paddr % n = 0) (h : PeerMay s c.ctx c.paddr n)
      (clean : Clean s c.paddr n) (w : u = (tookIn s c n).peerWrite c.paddr (releases c) (toBytes n (faddAt s.mem c.paddr n (c.data % 2 ^ 64)))) :
      PeerForm s c .peerAtomic 0x03 u 0x0A (s.mem.num c.paddr n)
  | exact (b : Nat) (u : State) (al : c.paddr % 8 = 0) (page : c.paddr % 4096 + 16 + 8 * b ≤ 4096) (bins : xobjBins (s.mem.num c.paddr 16) = some b)
      (h : PeerMay s c.ctx c.paddr (16 + 8 * b)) (clean : Clean s c.paddr (16 + 8 * b))
      (w : let r := xobjAdd (s.mem.num c.paddr 16) (binsIn s.mem c.paddr b) (valueOf F64 (c.data % 2 ^ 64))
        u = (tookIn s c (16 + 8 * b)).peerWrite c.paddr (releases c) (toBytes 16 r.1 ++ r.2.flatMap (fun d => toBytes 8 (d % 2 ^ 64).toNat))) : PeerForm s c .exactAccumulate 0x04 u 0x09 0
  | count (n : Nat) (live : (s.ctx c.ctx).live = true) (lt : c.paddr % 2 ^ 12 < (s.vi (s.ctx c.ctx).vi).evcount)
      (hn : n = (s.vi (s.ctx c.ctx).vi).evbase + c.paddr % 2 ^ 12) (quiet : Unarmed s n) :
      PeerForm s c .eventCounterAdd 0x05 (counted s n (c.data % 2 ^ 64) s.farKnow) 0x09 0

/-- The step, operation and end of each response (01 R17, R22). -/
inductive ResponseForm (c : PeerCmd) : Instr → Nat → PeerEnd → Prop where
  | read : ResponseForm c .readResponse 0x08 (.data c.data)
  | write : ResponseForm c .writeAcknowledge 0x09 (.data 0)
  | atomic : ResponseForm c .atomicResponse 0x0A (.data (c.data % 2 ^ 64))
  | error : ResponseForm c .errorResponse 0x0F (.err .peerDenied)

/-- A traffic flit keeps the rules of R17 for its valid slots: known operations and scopes, a counter add with no page and no high data, one write alone in the data slot, and data present where a command needs it. -/
structure LegalFlit (f : Flit) : Prop where
  each : ∀ i, i < 6 → f.hdr.testBit (59 + i) = true →
    let w := f.slots.getD i 0
    w % 256 ∈ [0x01, 0x02, 0x03, 0x04, 0x05, 0x08, 0x09, 0x0A, 0x0F] ∧ w / 2 ^ 86 % 4 ≤ 1 ∧
      (w % 256 = 0x05 → w / 2 ^ 48 % 2 ^ 32 = 0 ∧ f.data / 2 ^ (128 * i + 64) % 2 ^ 64 = 0) ∧
      (w % 256 ∈ [0x02, 0x08, 0x03, 0x04, 0x05, 0x0A] → f.hdr.testBit 65 = true)
  whole : ∀ i j, i < 6 → j < 6 → i ≠ j → f.hdr.testBit (59 + i) = true → f.hdr.testBit (59 + j) = true →
    f.slots.getD i 0 % 256 ∈ [0x02, 0x08] → f.slots.getD j 0 % 256 ∉ [0x02, 0x08, 0x03, 0x04, 0x05, 0x0A]

/-- The fields of a flit's header (01 R16). -/
def seqOf (f : Flit) : Nat := f.hdr / 2 ^ 32 % 4096
def ackOf (f : Flit) : Nat := f.hdr / 2 ^ 44 % 4096
def dstOf (f : Flit) : Nat := f.hdr / 2 ^ 8 % 4096
def ttlOf (f : Flit) : Nat := f.hdr / 2 ^ 82 % 64

/-- The command in slot i of a flit, with the data that belongs to it (01 R17). -/
def commandOf (f : Flit) (i : Nat) : PeerCmd :=
  let w := f.slots.getD i 0
  { src := f.hdr / 2 ^ 20 % 4096, op := w % 256, ctx := w / 2 ^ 8 % 4096, tag := w / 2 ^ 20 % 2 ^ 16, paddr := w / 2 ^ 36 % 2 ^ 44
    len := 8 * (w / 2 ^ 80 % 16 + 1), ord := w / 2 ^ 84 % 16, fn := w / 2 ^ 88 % 2 ^ 40
    data := if w % 256 ∈ [0x02, 0x08] then f.data % 2 ^ (8 * (8 * (w / 2 ^ 80 % 16 + 1)))
      else if w % 256 ∈ [0x03, 0x04, 0x05, 0x0A] then f.data / 2 ^ (128 * i) % 2 ^ 128 else 0 }

/-- The valid slots of a flit, in order. -/
def validSlots (f : Flit) : List Nat := (List.range 6).filter (fun i => f.hdr.testBit (59 + i))

/-- A counter of a port that saturates at 2^32 - 1 (01 R23). -/
def bump (n : Nat) : Nat := min (n + 1) (2 ^ 32 - 1)

/-- What a port takes from the header of a flit with a good CRC: flits up to the acknowledged one are kept no longer, and the credits come back (01 R16). -/
structure Heard (e e' : Port) (f : Flit) : Prop where
  rest : e' = { e with unacked := e'.unacked, credits := e'.credits }
  acked : ∀ pre g post, e.unacked = pre ++ g :: post → seqOf g = ackOf f → (∀ h ∈ pre, seqOf h ≠ ackOf f) → e'.unacked = post
  kept : (∀ g ∈ e.unacked, seqOf g ≠ ackOf f) → e'.unacked = e.unacked
  credits : ∀ v, v < 8 → e'.credits.get 0 v = e.credits.get 0 v + f.hdr / 2 ^ (66 + 2 * v) % 4

/-- A flit is discarded: the port counts it, and each valid command of it is answered with an error response (01 R17, R18). -/
def Discarded (u t : State) (p : Nat) (f : Flit) : Prop :=
  Each (fun s t c => Answered s t c 0x0F 0) (u.updPort p (fun e => { e with perr := bump e.perr })) t ((validSlots f).map (commandOf f))

/-- Where a flit goes from state u: to this device, which leaves state h; on by the routed port with TTL one less; or nowhere (01 R18). -/
inductive Routed (u h : State) (p : Nat) (f : Flit) : State → Prop where
  | here (ne : dstOf f ≠ 0xFFF) (own : dstOf f = u.devid) : Routed u h p f h
  | on (q : Nat) (t : State) (ne : dstOf f ≠ 0xFFF) (other : dstOf f ≠ u.devid) (route : u.route.get 0 (dstOf f) = q + 1) (ttl : 2 ≤ ttlOf f)
      (sent : Handed u t q { f with hdr := f.hdr - 2 ^ 82 }) : Routed u h p f t
  | nowhere (t : State) (no : dstOf f = 0xFFF ∨ (dstOf f ≠ u.devid ∧ (u.route.get 0 (dstOf f) = 0 ∨ ttlOf f ≤ 1))) (lost : Discarded u t p f) :
      Routed u h p f t

/-- Whether a flit that waits or is kept has the request of tag t, among requests only, of device d (01 R20). -/
def waitsFor (d t : Nat) (f : Flit) : Bool :=
  decide (f.hdr / 2 ^ 20 % 4096 = d) && (validSlots f).any (fun i => (commandOf f i).tag == t) && (validSlots f).all (fun i => decide ((commandOf f i).op < 8))

/-- A flit carries requests of another device than d, and nothing else (01 R20). -/
def PassesOn (d : Nat) (f : Flit) : Prop :=
  f.hdr / 2 ^ 20 % 4096 ≠ d ∧ validSlots f ≠ [] ∧ ∀ i ∈ validSlots f, (commandOf f i).op < 8

/-- A flit without its commands, which keeps its SEQ (log 29). -/
def blank (f : Flit) : Flit :=
  let h := f.hdr - f.hdr / 2 ^ 59 % 2 ^ 7 * 2 ^ 59
  { f with hdr := h, crc := Config.crc64 (flitBody { f with hdr := h }) }

/-- The flits of requests that have ended go out no more: those that wait are dropped, and those kept for a replay carry nothing (01 R20; log 29). -/
def noLonger (e : Port) (which : Flit → Bool) : Port :=
  { e with waiting := e.waiting.filter (fun f => !which f), unacked := e.unacked.map (fun f => if which f then blank f else f) }

/-- A request has been answered and has changed something at its peer: an exchange has where it found what it expected, and an add of 0 has not (13 R280). -/
def Acted (r : PeerReq) : Prop :=
  r.acts = true ∧ ∃ x, r.res = .data x ∧ (r.cmd.op = 3 → (r.cmd.fn = 5 → x = r.cmd.data / 2 ^ 64) ∧ (r.cmd.fn ≠ 5 → ¬(r.cmd.fn = 1 ∧ r.cmd.data = 0)))

/-! ### Translation by the host, walks and resumption (04 R69 to R80) -/

/-- The entry of a completed page walk (04 R69). -/
def walked (w : Walk) : Tlb := { id := w.ctx, va := w.leaf.va, size := leafBytes w.leaf.size, ent := w.leaf.pte }

/-- What the host's denial makes of a translation request: a page request follows, or the page is unavailable after a second denial or a Response Failure (04 R71, R72). -/
def Denied (s : State) (q : AtsReq) : AtsReq :=
  { q with st := if q.st = 4 ∨ (∃ p ∈ s.ctxs, p.2.live = true ∧ p.2.pasid = q.pasid ∧ (s.vi p.2.vi).priFail = true) then 3 else 5 }

/-- The pages for which an interface has a page request outstanding, each once: one page request serves every access that waits for its page (04 R72). -/
def pagesOut (s : State) (v : Nat) (l : List AtsReq) : List (Nat × Nat) :=
  ((l.filter (fun q => q.st == 2 && s.viOf q.pasid == v)).map (fun q => (q.pasid, q.page))).dedup

/-- Page requests that wait go out, oldest first, as far as the host lets their interface have pages outstanding, and no further one could go (04 R72). -/
structure PagesSent (s t : State) : Prop where
  rest : t = { s with atsReqs := t.atsReqs }
  length : t.atsReqs.length = s.atsReqs.length
  each : ∀ (i : Nat) (q : AtsReq), s.atsReqs[i]? = some q → t.atsReqs[i]? = some q ∨ (q.st = 5 ∧ t.atsReqs[i]? = some { q with st := 2 })
  bound : ∀ v, (pagesOut s v t.atsReqs).length ≤ max (s.vi v).priAlloc (pagesOut s v s.atsReqs).length
  all : ∀ q ∈ t.atsReqs, q.st = 5 → (q.pasid, q.page) ∉ pagesOut s (s.viOf q.pasid) t.atsReqs ∧
    (s.vi (s.viOf q.pasid)).priAlloc ≤ (pagesOut s (s.viOf q.pasid) t.atsReqs).length
  oldest : ∀ (i j : Nat) (q r : AtsReq), i < j → t.atsReqs[i]? = some q → q.st = 5 → s.atsReqs[j]? = some r → t.atsReqs[j]? = some { r with st := 2 } →
    s.viOf r.pasid = s.viOf q.pasid → (r.pasid, r.page) ∈ pagesOut s (s.viOf q.pasid) (t.atsReqs.take i ++ s.atsReqs.drop i)

/-- The translations kept when some leave the ATC: one for each access under way of its PASID that has changed something (04 R73, R76). -/
def KeptFor (s : State) (mark : Option Nat) (gone : Tlb → Prop) (kept : List OldAtc) : Prop :=
  ∀ o, o ∈ kept ↔ o.ent ∈ s.atc ∧ gone o.ent ∧ o.mark = mark ∧
    (∃ q ∈ s.peerReqs, q.acts = true ∧ q.core = o.core ∧ q.agent = o.agent) ∧ (s.ctx (s.ctxOf o.core o.agent)).pasid = o.ent.id

/-- Something that was translated through what mark m took away is still under way (04 R73, R74). -/
def UnderWay (s : State) (m : Nat) : Prop :=
  (∃ o ∈ s.oldLeaves, o.mark = m) ∨ (∃ o ∈ s.oldAtc, o.mark = some m) ∨
    ∃ p ∈ s.cores, ∃ h ∈ p.2.k.chan, ∃ l, (l ∈ h.2.flight ∨ l ∈ h.2.kept) ∧ m ∈ l.marks

/-- Core c's writes that are on their way have been performed in order: none is left, each word it wrote holds them, and no other core has changed (08 R172, R180). -/
structure Performed (s t : State) (c : Nat) : Prop where
  none : (t.phys c).dirty = []
  mem : (∀ e ∈ (s.phys c).dirty, e.word < hostWords ∧ e.off + e.bs.length ≤ 8) → ∀ a, t.mem.read a = (s.phys c).dirty.foldl
    (fun b e => if e.word = a / 8 ∧ e.off ≤ a % 8 ∧ a % 8 < e.off + e.bs.length then e.bs.getD (a % 8 - e.off) 0 else b) (s.mem.read a)
  published : ∀ w, w < hostWords → ∀ e ∈ t.past w, e.core = c + 1 → e.strong = true ∨ ∃ p ∈ e.pubs, 3 ≤ p.1

/-- Core c has taken in what is published for it at device scope (08 R172, R177). -/
def Current (s t : State) (c : Nat) : Prop :=
  ∀ w pre e post, s.past w = pre ++ e :: post → s.takesIn c 3 e = true → (e :: post).length ≤ t.seenBy c w

/-! ### The scheduler (05 R81 to R106) -/

/-- The state once the next record of a launch's trace has been set aside: it is counted, or beyond CAP the overflow bit is set (05 R105). -/
def traceTaken (s : State) (l : Launch) : State :=
  if l.flags.testBit 0 = false then s
  else if s.hostMem.num l.traceAddr 8 ≤ l.traced then
    s.hostWrite (l.traceAddr + 16) (toBytes 8 (s.hostMem.num (l.traceAddr + 16) 8 / 2 * 2 + 1))
  else s.updLaunch l.id (fun m => { m with traced := m.traced + 1 })

/-- No item has ended without the walker's note. -/
def NoneEnded (s : State) : Prop := ∀ p ∈ s.cores, ∀ f, p.2.k.phase ≠ .ended f

/-- The product of the trip counts of levels. -/
def tripProduct (ls : List Level) : Nat := ls.foldl (fun n l => n * l.trip) 1

/-- Indices of levels, outermost first, whose row-major ordinal is x (05 R87). -/
def RowMajor (ls : List Level) (idx : List Nat) (x : Nat) : Prop :=
  idx.length = ls.length ∧ (∀ i, i < ls.length → idx.getD i 0 < (ls.getD i {}).trip) ∧
    (ls.zip idx).foldl (fun a p => a * p.1.trip + p.2) 0 = x

/-- The next item of a walk (05 R87, R92): launch l comes first by priority and acceptance, its record has core levels sp without dies or gangs, between outer levels o and inner levels i, none of them of a batch, no chain waits for its next item, and j is the first spatial index not yet dispatched. set is the launch's core set. -/
structure NextItem (s : State) (l : Launch) (o sp i : List Level) (j : Nat) (set : List Nat) : Prop where
  ended : NoneEnded s
  first : ∃ pre post, s.launches = pre ++ l :: post ∧ (∀ m ∈ pre, m.prio < l.prio) ∧ ∀ m ∈ post, m.prio ≤ l.prio
  prio : ∀ m ∈ s.launches, m.prio < 4
  own : ∀ m ∈ s.launches, m.id = l.id → m = l
  record : l.ri < l.recs.length
  levels : (l.recs.getD l.ri {}).levels = o ++ sp ++ i
  kinds : (∀ m ∈ o, m.kind = 0 ∧ m.tripsrc ≠ 2) ∧ (∀ m ∈ sp, m.kind = 1 ∧ m.tripsrc ≠ 2) ∧ (∀ m ∈ i, m.kind = 0 ∧ m.tripsrc ≠ 2) ∧ (sp = [] → o = [])
  single : (l.recs.getD l.ri {}).ganglvl = 0
  walks : l.flags.testBit 1 = false
  running : ∀ ch ∈ l.running, ch.live = true ∧ ch.j ∈ l.sent
  next : j < tripProduct sp ∧ j ∉ l.sent ∧ ∀ k, k < j → k ∈ l.sent
  outer : l.outer < tripProduct o
  inner : 0 < tripProduct i
  cores : set = ((s.vi l.vi).slots.get {} l.slot).coreSet
  rising : set.Pairwise (· < ·)
  die : ∃ c ∈ set, c < 192 ∧ c / 48 = s.unit ∧ ∀ d ∈ set, s.unit ≤ d / 48

/-- A core is free for an item of launch l: it runs no task and no test is due, it holds no task saved of the same or a higher priority, and no chain of such a launch is on it (05 R92, R98; 02 R34). -/
def FreeFor (s : State) (l : Launch) (c : Nat) : Prop :=
  (s.core c).phase = .free ∧ (s.phys c).testDue = false ∧ (∀ e ∈ (s.phys c).saved, e.2 = none ∨ e.1 < l.prio) ∧
    ∀ m ∈ s.launches, l.prio ≤ m.prio → ∀ ch ∈ m.running, ch.core ≠ c

/-- The task of the item at spatial index j and inner index 0 (05 R87 to R89). -/
structure ItemTask (s : State) (l : Launch) (o sp i : List Level) (j : Nat) (t : Task) : Prop where
  ids : t.launch = l.id ∧ t.vi = l.vi ∧ t.slot = l.slot ∧ t.ctx = l.ctx ∧ t.prio = l.prio ∧ t.ordered = l.flags.testBit 3
  item : t.item = l.base + j * tripProduct i ∧ t.vcore = j % 1024 ∧ t.gang = false
  levels : ∃ a b c, t.lvl = a ++ b ++ c ∧ RowMajor o a l.outer ∧ RowMajor sp b j ∧ RowMajor i c 0
  entry : t.entry = (l.recs.getD l.ri {}).entry ∧ t.rowpc = (l.recs.getD l.ri {}).rowpc ∧ t.matpc = (l.recs.getD l.ri {}).matpc
  image : t.claims = ((s.vi l.vi).slots.get {} l.slot).claims ∧ t.templates = ((s.vi l.vi).slots.get {} l.slot).templates ∧
    t.paramVa = ((s.vi l.vi).slots.get {} l.slot).paramVa + 4096 * l.paramCopy
  trace : t.traceAt = if l.flags.testBit 0 ∧ l.traced < s.hostMem.num l.traceAddr 8 then some l.traced else none

/-- What a core holds at an item's first instruction (05 R89; 06 R110; 03 R55). k is the core as the item before left it. -/
structure ItemState (k k' : Core) : Prop where
  phase : k'.phase = .running ∧ k'.task = some k.tk ∧ k'.holder = some k.tk.ctx
  main : ∃ r, k'.cx = [(0, { live := true, pc := w64 k.tk.entry, s := r })] ∧ ∀ n, 0 < n → r.get 0 n =
    if n ≤ 6 then w64 (k.tk.lvl.getD (n - 1) 0) else if n = 7 then w64 k.tk.vcore else if n = 8 then w64 k.tk.paramVa else if n = 9 then w64 k.tk.item else 0
  rings : k'.row = { base := k.tk.rowpc, size := min 43690 ((k.tk.claims.spad - k.tk.rowpc) / 12) } ∧
    k'.mat = { base := k.tk.matpc, size := min 21845 ((k.tk.claims.spad - k.tk.matpc) / 24) }
  cleared : k'.q = [] ∧ k'.sem = [] ∧ k'.bb = [] ∧ k'.bank = 0 ∧ k'.fpflags = 0 ∧ k'.pacerow = 0 ∧ k'.pacemat = 0 ∧ k'.tvec = 0 ∧ k'.tcause = 0 ∧
    k'.tval = 0 ∧ k'.epc = 0 ∧ k'.hndst = 0 ∧ k'.mxsel = [] ∧ k'.mxcnt = [] ∧ k'.mxthr = [] ∧ k'.mxterm = [] ∧ k'.mxact = [] ∧ k'.chan = [] ∧
    k'.pwin = [] ∧ k'.deliveries = [] ∧ k'.aside = none ∧ k'.engineTraps = [] ∧ k'.copyTraps = [] ∧ k'.follow = []
  banks : ∀ b, b < 4 → ((∃ n, n < 17 ∧ inBank b (8192 * n) ∧ k.cl.has (.tile n) = true) → k'.tbpwr / 4 ^ b % 4 = 2) ∧
    ((∀ n, n < 17 → inBank b (8192 * n) → k.cl.has (.tile n) = false) → k'.tbpwr / 4 ^ b % 4 = 0)
  same : k.holder = some k.tk.ctx → k'.spad = k.spad ∧ k'.empty = k.empty ∧ k'.spoison = k.spoison ∧ k'.opfile = k.opfile ∧ k'.latch = k.latch ∧
    k'.acc = k.acc ∧ k'.acctag = k.acctag ∧ k'.cb = k.cb ∧ k'.st = k.st ∧ k'.cd = k.cd ∧ k'.win = k.win
  other : k.holder ≠ some k.tk.ctx → k'.spad = [] ∧ k'.empty = [] ∧ k'.spoison = [] ∧ k'.tiles = [] ∧ k'.opfile = [] ∧ k'.latch = [] ∧
    k'.acc = [] ∧ k'.acctag = [] ∧ k'.cb = [] ∧ k'.st = [] ∧ k'.cd = [] ∧ k'.win = []

/-- Every condition of the completion event holds (06 R114). -/
structure ItemComplete (k : Core) : Prop where
  phase : k.phase = .running
  rings : k.row.notified = true ∧ k.row.word = none ∧ k.mat.notified = true ∧ k.mat.word = none ∧ k.follow = []
  done : ∀ p ∈ k.cx, p.2.live = false
  copies : ∀ p ∈ k.chan, p.2.phase = .idle

/-- A saved task is back on its core: what it claims is as saved, and the rest as an earlier task of its context left it, or clear (05 R96, R98). -/
structure TaskBack (s t : State) (c i : Nat) (k : Core) : Prop where
  area : (t.phys c).saved.get none i = none
  whole : t.core c = { k with
    holder := k.task.map (·.ctx), einj := (s.core c).einj, spad := (t.core c).spad, empty := (t.core c).empty, spoison := (t.core c).spoison
    tiles := (t.core c).tiles, opfile := (t.core c).opfile, latch := (t.core c).latch, acc := (t.core c).acc, acctag := (t.core c).acctag
    cb := (t.core c).cb, st := (t.core c).st, cd := (t.core c).cd, rerr := (t.core c).rerr, corr := (t.core c).corr }
  spad : ∀ a, (t.core c).spad.read a = if a < k.spadLimit then k.spad.read a else if (s.core c).holder = some k.tk.ctx then (s.core c).spad.read a else 0
  tiles : ∀ n a, n < 17 → 8192 * n ≤ a → a < 8192 * (n + 1) → (t.core c).tiles.read a =
    if k.cl.has (.tile n) then k.tiles.read a else if (s.core c).holder = some k.tk.ctx then (s.core c).tiles.read a else 0
  accs : ∀ n a, n < 4 → 16384 * n ≤ a → a < 16384 * (n + 1) → (t.core c).acc.read a =
    if k.cl.has (.acc n) then k.acc.read a else if (s.core c).holder = some k.tk.ctx then (s.core c).acc.read a else 0
  errors : ∀ w, Store.wf false k.rerr = true → (t.core c).rerr.get false w =
    if k.cl.hasWord w then k.rerr.get false w else if (s.core c).holder = some k.tk.ctx then (s.core c).rerr.get false w else false
  corrected : ∀ w, Store.wf false k.corr = true → (t.core c).corr.get false w =
    if k.cl.hasWord w then k.corr.get false w else if (s.core c).holder = some k.tk.ctx then (s.core c).corr.get false w else false
  coder : ∀ n, n < 64 → (t.core c).st.get {} n =
    if k.cl.has (.st n) then k.st.get {} n else if (s.core c).holder = some k.tk.ctx then (s.core c).st.get {} n else {}

/-- A core would take back the task saved on it at priority i: it is the highest saved there, the core runs none, no test is due, and no launch of a higher priority is under way (05 R98; 02 R34). -/
structure MayReturn (s : State) (c i : Nat) (k : Core) : Prop where
  saved : i < 4 ∧ (s.phys c).saved.get none i = some k ∧ k.task.isSome = true
  highest : ∀ j, i < j → (s.phys c).saved.get none j = none
  free : (s.core c).phase = .free ∧ (s.phys c).testDue = false
  news : ∀ l ∈ s.launches, l.prio ≤ i

/-- Bytes [va, va + n) of a context lie in one device page with a right, at a physical address: the walk of its tables ends in a leaf that has them (04 R62 to R68). -/
def PageAt (s : State) (ctx va n pa : Nat) (right : Nat) : Prop :=
  ∃ l, s.leafAt ctx va = some l ∧ va + n ≤ l.va + leafBytes l.size ∧
    l.pte.testBit right = true ∧ l.pte / 4 % 4 = 1 ∧ pa = l.pte / 2 ^ 12 % 2 ^ 32 * 4096 + (va - l.va)

/-- 32 bytes that a walker reads or writes for a launch lie in one device page with a right, in memory that the address map has, and no leaf that is gone is kept for the walker (01 R11; 04 R62 to R68, R74). -/
structure WalkerAt (s : State) (l : Launch) (va pa right : Nat) : Prop where
  low : va < 2 ^ 48
  page : PageAt s l.ctx va 32 pa right
  slice : (sliceOfPa pa).isSome = true
  old : ∀ o ∈ s.oldLeaves, ¬(o.core = walkerCore ∧ o.agent = l.id)

/-- What the items that start next come after, once a walker has acquired 32 bytes: what it was, and what each release at system scope there passes on (05 R104; 08 R177). -/
def ItemsLearn (s : State) (know : Store Nat) (pa : Nat) : Prop :=
  (∀ k, s.itemKnow.get 0 k ≤ know.get 0 k) ∧
    ∀ w, pa < 8 * w + 8 → 8 * w < pa + 32 → ∀ e ∈ s.past w, ∀ m, e.rel = some (4, m) → ∀ k, m.get 0 k ≤ know.get 0 k

/-- Table f of a level is on the walk of an address through a context's tables, after the tables up: each entry on the way points to the next table, and no table comes twice (04 R63). -/
inductive TableOn (s : State) (ctx va : Nat) : Nat → Nat → List Nat → Prop where
  | root (live : (s.ctx ctx).live = true) : TableOn s ctx va 3 (s.ctx ctx).root []
  | down (l f g e : Nat) (up : List Nat) (above : TableOn s ctx va (l + 1) f up) (at_ : e = s.tableEntry f (va / (4096 * 512 ^ (l + 1)) % 512))
      (pointer : e.testBit 0 = true ∧ e / 4 % 4 = 0) (next : g = e / 2 ^ 12 % 2 ^ 32) (new : g ∉ f :: up) : TableOn s ctx va l g (f :: up)

/-- A leaf for the page that holds an address: aligned, and with an entry that is valid, no pointer, and of its size (04 R64, R65). -/
structure LeafFor (va : Nat) (l : Leaf) : Prop where
  size : l.size < 4 ∧ l.pte / 2 ^ 7 % 4 = l.size
  entry : l.pte.testBit 0 = true ∧ l.pte / 4 % 4 ≠ 0 ∧ l.pte < 2 ^ 64
  place : l.va = va / leafBytes l.size * leafBytes l.size

/-- A ring's word has failed on its wait: RD is back at the word, the ring halts, the record carries word and index, and the main context has an engine fault to take (13 R297). -/
structure RingFailed (s t : State) (c : Nat) (m : Bool) (cause : Cause) (tval w : Nat) : Prop where
  device : t = { s with cores := t.cores, faults := t.faults, peerReqs := t.peerReqs, oldLeaves := t.oldLeaves, oldAtc := t.oldAtc, atsReqs := t.atsReqs, slices := t.slices }
  others : ∀ n, n ≠ c → t.phys n = s.phys n
  ring : (t.core c).ring m = { (s.core c).ring m with rd := ((s.core c).ring m).rd - 1, word := none, halted := true, held := none, emptyAt := none, logWait := false, walked := [] }
  record : ∃ r, t.faults = s.faults ++ [r] ∧ r.cause = cause ∧ r.tval = tval ∧ r.pcore = c ∧ r.agent = (if m then 4 else 3) ∧
    r.extData = (((s.core c).ring m).rd - 1) % 2 ^ 32 * 2 ^ 224 + w
  trap : (t.core c).engineTraps = (s.core c).engineTraps ++ [cause.code + (if m then 2 else 1) * 2 ^ 16 + (((s.core c).ring m).rd - 1) % 2 ^ 32 * 2 ^ 32]
  same : (t.core c).spad = (s.core c).spad ∧ (t.core c).q = (s.core c).q ∧ (t.core c).sem = (s.core c).sem ∧ (t.core c).cx = (s.core c).cx ∧
    (t.core c).tiles = (s.core c).tiles ∧ (t.core c).acc = (s.core c).acc

/-- Marionette's action n of a kind fires: its task is on the core, and act, what MXACTn was at the change, is the oldest firing of the action that is due (06 R134). -/
def Fires (k : Core) (n kind act : Nat) : Prop :=
  (k.phase = .running ∨ k.phase = .draining) ∧ act / 2 ^ 16 % 8 = kind ∧
    ∃ pre post, k.mxdue = pre ++ (n, act) :: post ∧ ∀ d ∈ pre, d.1 ≠ n

/-- The core once action n has fired: its oldest firing is no longer due. -/
def fired (k : Core) (n : Nat) : Core := { k with mxdue := k.mxdue.eraseP (fun d => decide (d.1 = n)) }

/-- The order in which held adds apply: address, virtual core, item, context, count (13 R282). -/
def HeldInOrder (a b : HeldFadd) : Prop :=
  a.addr < b.addr ∨ (a.addr = b.addr ∧ (a.vcore < b.vcore ∨ (a.vcore = b.vcore ∧ (a.item < b.item ∨ (a.item = b.item ∧
    (a.cx < b.cx ∨ (a.cx = b.cx ∧ a.cnt ≤ b.cnt)))))))

/-! ### Copies (15 R336 to R345; 06 R127 to R136) -/

/-- A copy's start passes the checks of R339 for scratchpad and device ends without bank, layout, buffer or queue. src and dst are its addresses. -/
structure StartOk (s : State) (c x n i : Nat) (t : Template) (src dst : Nat) : Prop where
  idle : ((s.core c).chan.get {} n).phase = .idle
  channel : (s.core c).cl.has (.chan n) = true
  template : i < 2 ^ 16 ∧ (s.core c).tk.templates[i]? = some t
  kinds : t.skind < 2 ∧ t.dkind < 2 ∧ t.qidx = false
  srcAt : src = ((s.core c).pwin.get 0 (0x100 * n)).toNat % 2 ^ (if t.skind = 0 then 19 else 48)
  dstAt : dst = ((s.core c).pwin.get 0 (0x100 * n + 8)).toNat % 2 ^ (if t.dkind = 0 then 19 else 48)
  sems : (s.core c).cl.has (.sem t.aw) = true ∧ (s.core c).cl.has (.sem t.rs) = true
  barrier : t.bbv = true → (s.core c).cl.has (.bb t.bb) = true
  event : (t.evkind = 1 → (s.core c).cl.has (.ev t.evidx) = true) ∧ (t.evkind = 2 → (s.core c).cl.peer.testBit t.evwin = true)
  source : (t.skind = 0 → src % 128 = 0 ∧ ∀ g, g < t.nseg → 0 ≤ (src : Int) + t.sstride * g ∧ (src : Int) + t.sstride * g + 128 * t.seglines ≤ (s.core c).spadLimit) ∧
    (t.skind = 1 → src % 128 = 0)
  target : (t.dkind = 0 → dst % 128 = 0 ∧ ∀ g, g < t.nseg → 0 ≤ (dst : Int) + t.dstride * g ∧ (dst : Int) + t.dstride * g + 128 * t.seglines ≤ (s.core c).spadLimit) ∧
    (t.dkind = 1 → dst % 128 = 0)
  some : 0 < t.nseg
  follow : t.fov = true → t.foaddr + 24 ≤ (s.core c).spadLimit
  window : (s.cx c x).window = none

/-- The core once a copy has been captured: its channel waits for its await, and the scratchpad lines it will write are empty (15 R339; 06 R127). -/
structure CopyTaken (k k' : Core) (n x i : Nat) (t : Template) (src dst : Nat) : Prop where
  whole : k' = { k with empty := k'.empty, chan := k.chan.put {} n (
      { phase := .await, owner := x, tidx := i, t := t, src := src, dst := dst, scoord := (k.pwin.get 0 (0x100 * n + 0x10)).toNat } : Chan) }
  lines : ∀ l, k'.empty.get false l = (k.empty.get false l ||
    decide (t.dkind = 0 ∧ ∃ g, g < t.nseg ∧ ((dst : Int) + t.dstride * g).toNat / 128 ≤ l ∧ l < ((dst : Int) + t.dstride * g).toNat / 128 + t.seglines))

/-- The address of line l on a side of segments, modulo 2^64 as effective addresses are (15 R340; 13 R263). -/
def lineOf (base : Nat) (stride : Int) (seglines l : Nat) : Nat :=
  (((base : Int) + stride * ((l / seglines : Nat) : Int) + 128 * ((l % seglines : Nat) : Int)) % 2 ^ 64).toNat

/-- A copy of lines whose last line is done may finish: nothing in flight or failed, every line issued, no bank tag (15 R343). -/
structure Finishable (h : Chan) : Prop where
  phase : h.phase = .lines
  fine : h.failed = none ∧ h.flight = [] ∧ h.tag = 0 ∧ h.handed = false
  all : h.issued = h.t.seglines * h.t.nseg

/-! ### Service requests (13 R293) -/

/-- Request r of a task k, resident or saved, is the one that the kernel looks at, no earlier request of its context waits, and its block's 64 bytes are b with a code (13 R293; 03 R59). -/
structure Posted (s : State) (r : Request) (k : Core) (code b : Nat) : Prop where
  at_ : s.requests[s.unit]? = some r
  task : s.asker r = some k
  first : ∀ q ∈ s.requests.take s.unit, ∀ j, s.asker q = some j → j.tk.ctx ≠ k.tk.ctx
  block : b = k.spad.num r.blk 64
  code : b % 2 ^ 16 = code

/-- The reply to request r is ready: it is no longer posted, and its context waits with a status. -/
def replied (s : State) (r : Request) (st : Nat) : State :=
  ({ s with requests := s.requests.erase r } : State).updAsker r (fun k => { k with cx := k.cx.upd {} r.x (fun q => { q with wait := .reply st }) })

/-! ### Steps, encodings and invariants -/

/-- The instructions of the sampler's stream (12 R258). -/
inductive SamplerWord : Instr → Prop where
  | endp : SamplerWord .smpEndp
  | ldc (r n : Nat) : SamplerWord (.smpLdc r n)
  | mask (x y : Nat) : SamplerWord (.smpMask x y)
  | temp (x : Nat) : SamplerWord (.smpTemp x)
  | topk (x : Nat) : SamplerWord (.smpTopk x)
  | topp (x : Nat) : SamplerWord (.smpTopp x)
  | norm : SamplerWord .smpNorm
  | gumb : SamplerWord .smpGumb
  | argmax (d : Nat) : SamplerWord (.smpArgmax d)
  | accept (d x y : Nat) : SamplerWord (.smpAccept d x y)
  | emit (x : Nat) : SamplerWord (.smpEmit x)
  | stat (d : Nat) : SamplerWord (.smpStat d)
  | movx (d x : Nat) : SamplerWord (.smpMovx d x)
  | movk (d x : Nat) : SamplerWord (.smpMovk d x)
  | ldx (d x : Nat) : SamplerWord (.smpLdx d x)
  | ldk (d x : Nat) : SamplerWord (.smpLdk d x)
  | seed (x : Nat) : SamplerWord (.smpSeed x)
  | posadd (x : Nat) : SamplerWord (.smpPosadd x)

/-- The step at s is the move of instruction i in state u, after which the count of moves and the cores' cycles go on. -/
def Runs (s u : State) (i : Instr) : Prop := ∃ t, exec i u = .next t ∧ step s = .next t.after

/-- Context x of core c issues its next instruction: its item runs, it is live and waits for nothing, and no fault of another unit comes first (06 R108; 13 R294, R297). -/
structure IssuesNext (s : State) (c x : Nat) : Prop where
  pick : s.pick = .scalar c x
  phase : (s.core c).phase = .running
  live : (s.cx c x).live = true
  wait : (s.cx c x).wait = .none
  engine : x = 0 → (s.core c).engineTraps = []
  copies : ∀ t ∈ (s.core c).copyTraps, t.1 ≠ x

/-- A ring's next word is dequeued: its engine goes on, nothing is under way, a word is released and is not cancelled, and a matrix engine has no follow-on word (06 R111, R119; 15 R344). -/
structure NextInRing (s : State) (c : Nat) (m : Bool) : Prop where
  pick : s.pick = if m then .mat c else .row c
  engine : (s.core c).engineFree m = true
  word : ((s.core c).ring m).word = none
  follow : m = true → (s.core c).follow = []
  released : ((s.core c).ring m).rd < ((s.core c).ring m).rel
  kept : ((s.core c).ring m).rd ∉ ((s.core c).ring m).cancelled

/-- Bytes of a ring's word (06 R110). -/
abbrev wordBytes (m : Bool) : Nat := if m then 24 else 12

/-- The address of the slot of a ring's next word (06 R110). -/
def nextAt (k : Core) (m : Bool) : Nat := (k.ring m).base + wordBytes m * ((k.ring m).rd % (k.ring m).size)

/-- The bits of a ring's next word: 12 or 24 bytes of scratchpad, lowest address first (06 R110; 12 R249, R254). -/
def nextWord (k : Core) (m : Bool) : Nat := ofBytes (k.spad.part (nextAt k m) (wordBytes m))

/-- 8-byte word i holds one of n bytes at an address. -/
def InWords (a n i : Nat) : Prop := a / 8 ≤ i ∧ i < (a + n + 7) / 8

/-- Device memory and host memory are in their canonical form: addresses rise, and no entry is what an unlisted address reads as. The table of cores has one entry a core. -/
structure Canonical (s : State) : Prop where
  mem : s.mem.wf = true
  host : s.hostMem.wf = true
  cores : Store.wf {} s.cores = true

end Sys2Proof.Stated
end

