-- ==== Sys2Proof/Certificates/Slice0/Obligations.lean ====
section
/-! DEFINITION. The statements for the provers. -/

open Sys2Proof Sys2Proof.Machine Sys2Proof.Stated

/-- 13 R265: each register-register integer function without .sat completes and leaves in sD what the rule's table gives, and changes no flag. The words of R265's table decode to these functions, and a one-source word with a nonzero B decodes to none. 13 R265, 07 R148: add, sub and mul with .sat complete, clamp the exact result to the signed range, and set SAT exactly where they clamp. 13 R266, 12 R241: the register-immediate forms complete, with the immediate formed from the field and the prefix. -/
def Obligations.IntegerFunctions : Prop :=
  (∀ (s : State) (c x : Nat) (i : Instr) (d : Nat) (srcs : List Nat) (g : List W64 → W64),
     IntForm i d srcs g → Issues s c x → satOf (s.cx c x) = false → Usable (s.core c) x srcs (some d) →
     ∃ t, exec i s = .next t ∧ RegEffect s t c x srcs (some d) (g (srcs.map (src s c x))) 0) ∧
  (∀ (d a b fn m : Nat), d < 32 → a < 32 → b < 32 →
     let w := 2 ^ 26 + d * 2 ^ 21 + a * 2 ^ 16 + b * 2 ^ 11 + fn * 2 ^ 5 + m
     (∀ i, IntWord d a b fn m i → decodeScalar w = .ok i) ∧
     (∀ i, 0x13 ≤ fn → fn ≤ 0x17 → m < 32 → b ≠ 0 → decodeScalar w ≠ .ok i)) ∧
  (∀ (s : State) (c x : Nat) (i : Instr) (d a b : Nat) (g : Int → Int → Int),
     SatForm i d [a, b] g → Issues s c x → satOf (s.cx c x) = true → Usable (s.core c) x [a, b] (some d) →
     let r := g (src s c x a).toInt (src s c x b).toInt
     ∃ t, exec i s = .next t ∧
       RegEffect s t c x [a, b] (some d) (BitVec.ofInt 64 (max (-2 ^ 63) (min (2 ^ 63 - 1) r)))
         (if r < -2 ^ 63 ∨ 2 ^ 63 - 1 < r then 32 else 0)) ∧
  (∀ (s : State) (c x : Nat) (i : Instr) (d : Nat) (srcs : List Nat) (g : List W64 → W64),
     ImmForm (s.cx c x) i d srcs g → Issues s c x → (∀ p, (s.cx c x).pfx = some p → p.hi < 2 ^ 21) →
     Usable (s.core c) x srcs (some d) →
     ∃ t, exec i s = .next t ∧ RegEffect s t c x srcs (some d) (g (srcs.map (src s c x))) 0)

/-- 13 R267: the compares and the condition logic complete and write one condition bit. 13 R269: the binary64 compares complete and write one condition bit; NV is set on a signalling NaN, and by lt and le on any NaN. -/
def Obligations.Compares : Prop :=
  (∀ (s : State) (c x : Nat) (i : Instr) (n : Nat) (srcs : List Nat) (g : List W64 → Bool),
     CondForm (s.cx c x) i n srcs g → Issues s c x → Usable (s.core c) x srcs none →
     ∃ t, exec i s = .next t ∧ CondEffect s t c x srcs n (g (srcs.map (src s c x))) 0) ∧
  (∀ (s : State) (c x : Nat) (i : Instr) (n a b : Nat) (quiet : Bool) (rel : Bool → Int → Int → Bool),
     FloatCompare i n a b quiet rel → Issues s c x → Usable (s.core c) x [a, b] none →
     let va := (src s c x a).toNat
     let vb := (src s c x b).toNat
     let unordered := nan64 va || nan64 vb
     let invalid := if quiet then snan64 va || snan64 vb else unordered
     ∃ t, exec i s = .next t ∧ CondEffect s t c x [a, b] n (rel unordered (rank64 va) (rank64 vb)) invalid.toNat)

/-- 13 R269, 07 R150: the binary64 arithmetic completes: the exact result is rounded once in the word's mode, with the flags of the exact operation, of the rounding and of a signalling NaN. 13 R269, R270: minimum, maximum, sign, class and conversion complete. -/
def Obligations.FloatFunctions : Prop :=
  (∀ (s : State) (c x : Nat) (i : Instr) (d : Nat) (srcs : List Nat) (g : Nat → (Nat → Val) → FRes),
     FloatForm i d srcs g → Issues s c x → Usable (s.core c) x srcs (some d) →
     let m := modeOf (s.cx c x)
     let e := g m (fun n => valueOf F64 (src s c x (srcs.getD n 0)).toNat)
     let r := roundFloat F64 m false e.1
     ∃ t, exec i s = .next t ∧
       RegEffect s t c x srcs (some d) (ofN r.1) (r.2 ||| e.2 ||| (srcs.any (fun n => snan64 (src s c x n).toNat)).toNat)) ∧
  (∀ (s : State) (c x : Nat) (i : Instr) (d : Nat) (srcs : List Nat) (g : List Nat → Nat × Nat),
     FloatOther (modeOf (s.cx c x)) (satOf (s.cx c x)) i d srcs g → Issues s c x → Usable (s.core c) x srcs (some d) →
     let r := g (srcs.map (fun n => (src s c x n).toNat))
     ∃ t, exec i s = .next t ∧ RegEffect s t c x srcs (some d) (ofN r.1) r.2)

/-- 13 R267, R271, R276: sel, lcget and csrr complete with what they read. -/
def Obligations.Reads : Prop :=
  ∀ (s : State) (c x : Nat) (i : Instr) (d : Nat) (srcs : List Nat) (g : List W64 → W64),
    ReadForm s c x i d srcs g → Issues s c x → Usable (s.core c) x srcs (some d) →
    ∃ t, exec i s = .next t ∧ RegEffect s t c x srcs (some d) (g (srcs.map (src s c x))) 0

/-- 13 R271, R272, R284 to R289, R291: the control register write, the branch registers, the phases, the releases, semaphores, banks, byte barriers, circular buffers, full bits and bank power complete with the one change the table gives each. 06 R119, 13 R287: bsel completes, where no copy is tagged with a bank: the banks close and both rings release the chosen words together. Where this rests on the model's own choices: log 7, 46. -/
def Obligations.Synchronisation : Prop :=
  (∀ (s b : State) (c x : Nat) (i : Instr) (srcs : List Nat) (k : Core),
     SyncForm s c x i srcs b k → Issues s c x → Usable (s.core c) x srcs none →
     ∃ t, exec i s = .next t ∧ Effect b t c x (popSrcs k srcs)) ∧
  (∀ (s : State) (c x n : Nat), Issues s c x → (s.core c).bank ≠ 0 → (∀ m, m < 16 → ((s.core c).ch m).tag = 0) →
     let first := (s.cx c x).c.get false n
     ∃ t k, exec (.bsel n) s = .next t ∧ Effect s t c x k ∧ k = { s.core c with bank := 0, row := k.row, mat := k.mat } ∧
       Selected first (s.core c).row k.row ∧ Selected first (s.core c).mat k.mat)

/-- 13 R273 to R275, R277: after an instruction that transfers nothing (nop stands for all), the context continues at the next word, at the same word while a repeat runs, at the target after the second delay instruction, or at the start of a body at its end; it changes nothing else. 13 R272, R273, R275; 12 R245: br completes, taken or not, and its transfer is pending for two instructions. 13 R272, R275: brl completes: its transfer is pending and the link is the first block boundary at or after the end of its delay instructions. -/
def Obligations.FlowOfControl : Prop :=
  (∀ (s : State) (c x : Nat) (q : Ctx), Issues s c x → Continues (s.cx c x) q →
     ∃ t, exec .nop s = .next t ∧ Effect s t c x (s.core c) ∧ (t.cx c x).pc = q.pc ∧ (t.cx c x).lc = q.lc ∧
       (t.cx c x).loops = q.loops ∧ (t.cx c x).pend = q.pend ∧ (t.cx c x).rep = q.rep) ∧
  (∀ (s : State) (c x n f : Nat), IssuesControl s c x → DelayInside s c x → NoEnd (s.cx c x) →
     (branchTaken (s.cx c x) f = true → ((s.cx c x).b.get 0 n).toNat % 64 = 0 ∧ ((s.cx c x).b.get 0 n).toNat < 2 ^ 48) →
     ∃ t, exec (.br n f) s = .next t ∧ Effect s t c x (s.core c) ∧ NextWord (s.cx c x) (t.cx c x) ∧
       (t.cx c x).pend = some (if branchTaken (s.cx c x) f then some ((s.cx c x).b.get 0 n).toNat else none, 2)) ∧
  (∀ (s : State) (c x n d : Nat), IssuesControl s c x → DelayInside s c x → NoEnd (s.cx c x) →
     ((s.cx c x).b.get 0 n).toNat % 64 = 0 → ((s.cx c x).b.get 0 n).toNat < 2 ^ 48 → Usable (s.core c) x [] (some d) →
     ∃ t link, exec (.brl n d) s = .next t ∧ RegEffect s t c x [] (some d) (ofN link) 0 ∧ NextWord (s.cx c x) (t.cx c x) ∧
       (t.cx c x).pend = some (some ((s.cx c x).b.get 0 n).toNat, 2) ∧
       link % 64 = 0 ∧ delayEnd s c (s.cx c x).pc.toNat ≤ link ∧ link < delayEnd s c (s.cx c x).pc.toNat + 64)

/-- 13 R274, R275: loop completes: a nonzero count arms its level over the imm blocks after its own, innermost, and a zero count continues after the end block. 13 R277: rep and repi complete: the next instruction runs that many times, and 0 passes it by. 13 R277: the instruction after a repeat of 0 is passed over: it has no effect and the context continues after it. -/
def Obligations.LoopsAndRepeats : Prop :=
  (∀ (s : State) (c x n a imm : Nat), IssuesControl s c x → Usable (s.core c) x (if a = 0 then [] else [a]) none →
     1 ≤ imm → imm < 2 ^ 15 → (∀ l ∈ (s.cx c x).loops, l.n ≠ n) →
     let q := s.cx c x
     let blk := q.pc.toNat / 64 * 64
     let cnt := if a = 0 then q.lc.get 0 n else (src s c x a).toNat
     cnt < 2 ^ 32 → (∀ l ∈ q.loops, if cnt = 0 then l.fin ≠ blk + 64 * (imm + 1) else l.start ≤ blk + 64 ∧ blk + 64 * (imm + 1) ≤ l.fin) →
     ∃ t, exec (.loopHw n a imm) s = .next t ∧ Effect s t c x (popSrcs (s.core c) (if a = 0 then [] else [a])) ∧
       if cnt = 0 then (t.cx c x).pc = ofN (blk + 64 * (imm + 1)) ∧ (t.cx c x).loops = q.loops ∧ (t.cx c x).lc = q.lc
       else (t.cx c x).pc = q.pc + ofN (lenOf q) ∧ (t.cx c x).lc = q.lc.put 0 n cnt ∧
         (t.cx c x).loops = { n := n, start := blk + 64, fin := blk + 64 * (imm + 1) } :: q.loops) ∧
  (∀ (s : State) (c x : Nat) (i : Instr) (srcs : List Nat) (n : Nat), IssuesControl s c x →
     (i = .repi n ∧ srcs = [] ∨ ∃ a, i = .repA a ∧ srcs = [a] ∧ n = (src s c x a).toNat ∧ n < 2 ^ 16) →
     Usable (s.core c) x srcs none → (∀ l ∈ (s.cx c x).loops, l.fin ≠ (s.cx c x).pc.toNat + 4) →
     ∃ t, exec i s = .next t ∧ Effect s t c x (popSrcs (s.core c) srcs) ∧ NextWord (s.cx c x) (t.cx c x) ∧
       (t.cx c x).rep = if n = 0 then .skip else .run n) ∧
  (∀ (s : State) (c x : Nat) (i : Instr) (d : Nat) (srcs : List Nat) (g : List W64 → W64), IntForm i d srcs g →
     s.cur = .scalar c x → (s.cx c x).rep = .skip → (s.cx c x).pend = none → NoEnd (s.cx c x) →
     ∃ t, exec i s = .next t ∧ Effect s t c x (s.core c) ∧ NextWord (s.cx c x) (t.cx c x) ∧ (t.cx c x).rep = .none)

/-- 13 R291, R292; 10 R217, R219: done ends its context, and the handler that it runs, if it runs one; tret restores the transfer and the repeat set aside and resumes at EPC with no handler running. -/
def Obligations.DoneAndReturn : Prop :=
  ∀ (s : State) (c x : Nat), IssuesControl s c x →
    ((s.core c).bank = 0 → (s.cx c x).window = none →
      let handler := (s.core c).hndst = 1 + 2 * x
      ∃ t, exec .done s = .next t ∧ (t.cx c x).pc = (s.cx c x).pc ∧
        Effect s t c x { s.core c with
          hndst := if handler then 0 else (s.core c).hndst, aside := if handler then none else (s.core c).aside
          cx := (s.core c).cx.upd {} x (fun q => { q with live := false }) }) ∧
    ((s.core c).hndst = 1 + 2 * x →
      ∃ t, exec .tret s = .next t ∧ Effect s t c x { s.core c with hndst := 0, aside := none } ∧ (t.cx c x).pc = (s.core c).epc ∧
        ((t.cx c x).pend, (t.cx c x).rep) = (s.core c).aside.getD (none, .none))

/-- 13 R294, R295: taking a trap posts its record with the cause, the address and the place; registers, queues and flags keep their values; a resumable cause waits for the kernel, another waits for delivery or ends the item. 13 R292: trap n takes the software trap with TVAL n and EPC the following instruction. 13 R294, step 5: delivery, of the trap that occurred first among those whose cause the kernel does not hold, sets TCAUSE, TVAL, EPC and HNDST, sets the transfer and the repeat aside and continues the context at TVEC; no other register, context or core changes. Where this rests on the model's own choices: log 34, 38. -/
def Obligations.TrapsTaken : Prop :=
  (∀ (s : State) (c x : Nat) (cause : Cause) (tval epc : Nat), Trapped s (s.raiseTrap c x cause tval epc) c x cause tval epc) ∧
  (∀ (s : State) (c x n : Nat), IssuesControl s c x →
     ∃ t, exec (.trap n) s = .next t ∧ Trapped s t c x .softwareTrap n ((s.cx c x).pc.toNat + 4)) ∧
  (∀ (s : State) (c : Nat) (d : Delivery) (r l : List Delivery), s.cur = .event .trapDelivery c 0 →
     (s.core c).deliveries = r ++ d :: l → (∀ e ∈ r, e.ready = false) → d.ready = true → (s.core c).hndst % 2 = 0 →
     ∃ t, exec .trapDelivery s = .next t ∧ OutsideSame s t c ∧
       t.core c = { s.core c with
         deliveries := r ++ l, tcause := d.cause.code, tval := ofN d.tval, epc := ofN d.epc, hndst := 1 + 2 * d.x
         aside := some ((s.cx c d.x).pend, (s.cx c d.x).rep), cx := (t.core c).cx } ∧
       t.cx c d.x = { s.cx c d.x with pend := none, rep := .none, pc := (s.core c).tvec, wait := .none } ∧
       ∀ y, y ≠ d.x → t.cx c y = s.cx c y)

/-- 13 R264, R278; 00 R4: ld from scratchpad completes with the little-endian bytes at EA, extended as its type says. 13 R264, R278: st to scratchpad completes: the bytes at EA hold sD, little-endian, and every other byte of scratchpad and of memory stays. -/
def Obligations.ScratchpadAccess : Prop :=
  (∀ (s : State) (c x d a ty disp : Nat), Issues s c x → Usable (s.core c) x [a] (some d) →
     (∀ p, (s.cx c x).pfx = some p → p.hi < 2 ^ 21) → ty < 8 →
     let n := 2 ^ (ty % 4)
     let va := ea s c x a disp
     va < 0x80000 → va + n ≤ (s.core c).spadLimit → Readable (s.core c) va n →
     ∃ t, exec (.ld d a ty disp) s = .next t ∧
       RegEffect (s.dropReqs c x) t c x [a] (some d) (extended ty ((s.core c).spad.num va n)) 0) ∧
  (∀ (s : State) (c x d a ty disp : Nat), Issues s c x → Usable (s.core c) x [a, d] none →
     (∀ p, (s.cx c x).pfx = some p → p.hi < 2 ^ 21) → ty < 8 →
     let n := 2 ^ (ty % 4)
     let va := ea s c x a disp
     Storable (s.core c) va n →
     ∃ t, exec (.st d a ty disp) s = .next t ∧
       Effect (s.dropReqs c x) t c x (popSrcs (spadWith (s.core c) va n (src s c x d).toNat) [a, d]) ∧
       (t.core c).spad.num va n = (src s c x d).toNat % 2 ^ (8 * n) ∧
       (∀ b, b < va ∨ va + n ≤ b → (t.core c).spad.read b = (s.core c).spad.read b) ∧ ∀ b, t.mem.read b = s.mem.read b)

/-- 08 R172 to R174, 13 R278: ld from device memory completes with what the core has seen there, where no write of another core to its words races with it. 08 R172: st to device memory completes: the core sees the bytes at once, and memory does not change yet. 08 R174: each byte of a read is the core's own view of it or, where the read races, what it was after one of the writes to its word, none of them older than what the core has seen; the core never goes back behind it, nor behind a write of its own that it has read. Where this rests on the model's own choices: log 7. -/
def Obligations.DeviceAccess : Prop :=
  (∀ (s : State) (c x d a ty disp pa : Nat), Issues s c x → Usable (s.core c) x [a] (some d) →
     (∀ p, (s.cx c x).pfx = some p → p.hi < 2 ^ 21) → ty < 8 →
     let n := 2 ^ (ty % 4)
     let va := ea s c x a disp
     OnDevice s c x va n pa .read → (s.cx c x).window = none → s.devPoison c pa n = false → NoRace s c 0 pa n →
     ∃ t, exec (.ld d a ty disp) s = .next t ∧
       RegEffect ((tookWords s c 0 pa n).dropReqs c x) t c x [a] (some d) (extended ty (ofBytes (bytesSeen s c 0 pa n))) 0) ∧
  (∀ (s : State) (c x d a ty disp pa : Nat), Issues s c x → Usable (s.core c) x [a, d] none →
     (∀ p, (s.cx c x).pfx = some p → p.hi < 2 ^ 21) → ty < 8 →
     let n := 2 ^ (ty % 4)
     let va := ea s c x a disp
     let bs := toBytes n (src s c x d).toNat
     OnDevice s c x va n pa .write → (s.cx c x).window = none →
     ∃ t, exec (.st d a ty disp) s = .next t ∧
       Effect ((s.ordWrite c x 0 pa bs).dropReqs c x) t c x (popSrcs (s.core c) [a, d]) ∧
       (∀ b, t.mem.read b = s.mem.read b) ∧ ∀ w, t.sees c w = overWord 0 pa bs w (s.sees c w)) ∧
  ∀ (s : State) (c w : Nat),
    let r := s.viewWord c w
    s.seenBy c w ≤ r.2.seenBy c w ∧
    (∀ p, p < 8 → r.1.getD p 0 = (s.sees c w).getD p 0 ∨ r.1.getD p 0 = (toBytes 8 (r.2.wordAfter w (r.2.seenBy c w))).getD p 0) ∧
    ((∃ e ∈ (s.phys c).dirty, e.word = w ∧ e.read = true) → s.onTheWay c w = [] → r.1 = s.sees c w)

/-- 08 R172, R180: a publication of everything performs every ordinary write of the core at its home: memory holds the newest byte written to each address and other addresses stay; other cores have seen nothing more. 08 R172, R177: a refresh never takes back what the core has seen, and it takes in every write that it may, with those before it. 08 R177: writes that a core publishes at a scope that covers two cores reach the other through a release, an acquire and a refresh: it then sees memory. Where this rests on the model's own choices: log 7. -/
def Obligations.PublicationAndRefresh : Prop :=
  (∀ (s : State) (c sc : Nat), (∀ e ∈ (s.phys c).dirty, e.scope = none ∧ e.part = false ∧ e.word < hostWords ∧ e.off + e.bs.length ≤ 8) →
    let t := s.publish c sc allDone
    (t.phys c).dirty = [] ∧ (∀ d, d ≠ c → t.phys d = s.phys d) ∧
    (∀ a, t.mem.read a = ((s.phys c).dirty.foldl
      (fun b e => if e.word = a / 8 ∧ e.off ≤ a % 8 ∧ a % 8 < e.off + e.bs.length then e.bs.getD (a % 8 - e.off) 0 else b) (s.mem.read a))) ∧
    ∀ a, (∃ e ∈ (s.phys c).dirty, e.word = a / 8) → byteSeen t c a = t.mem.read a) ∧
  (∀ (s : State) (c sc w : Nat),
    let t := s.refresh c sc
    s.seenBy c w ≤ t.seenBy c w ∧ (∀ d, d ≠ c → t.phys d = s.phys d) ∧ (∀ a, t.mem.read a = s.mem.read a) ∧
    ∀ pre e post, s.past w = pre ++ e :: post → s.takesIn c sc e = true → (e :: post).length ≤ t.seenBy c w) ∧
  ∀ (s : State) (c d sc a : Nat), c ≠ d → covers sc d c = true →
    (∀ e ∈ (s.phys d).dirty, e.scope = none ∧ e.part = false ∧ e.word < hostWords ∧ e.off + e.bs.length ≤ 8) →
    (∃ e ∈ (s.phys d).dirty, e.word = a / 8) → (∀ e ∈ (s.phys c).dirty, e.word ≠ a / 8) →
    let t := s.publish d sc allDone
    byteSeen ((t.learn c (t.phys d).know).refresh c sc) c a = t.mem.read a

/-- 13 R279; 08 R175, R176: lda on device memory completes with what the home holds, and no byte of memory changes; with acquire, later accesses come after it. stl on device memory completes with its write on its way to the home, behind the earlier strong accesses of the context where it is a release; performed, it leaves its bytes there and no other byte changed. Where this rests on the model's own choices: log 7. -/
def Obligations.StrongAccess : Prop :=
  ∀ (s : State) (c x a d w pa sc o : Nat), Issues s c x → w < 4 → NothingWaits s c pa (2 ^ w) →
    (Usable (s.core c) x [a] (some d) → StrongAt s c x a (2 ^ w) pa .read →
      ∃ t, exec (.lda d a w sc o) s = .next t ∧
        RegEffect ((acquireOf (s.strongRead c 0 pa (2 ^ w)).2 c sc o pa).dropReqs c x) t c x [a] (some d) (ofN (s.mem.num pa (2 ^ w))) 0 ∧
        ∀ b, t.mem.read b = s.mem.read b) ∧
    (Usable (s.core c) x [a, d] none → StrongAt s c x a (2 ^ w) pa .write →
      ∃ t, exec (.stl a d w sc o) s = .next t ∧
        Effect (s.strongSend c x 0 pa sc (o.testBit 1) (toBytes (2 ^ w) (src s c x d).toNat)) t c x (popSrcs (s.core c) [a, d]) ∧
        (∀ b, t.mem.read b = (releaseOf s c x o).mem.read b) ∧
        HoldsAt t (t.performOwn c (pa / 8)) pa (2 ^ w) (src s c x d).toNat)

/-- 13 R280: the integer atomics on device memory complete: sD receives the old value, zero-extended, and the home holds the operation's result; no other byte changes but by what a release comes after. 13 R280: amo.cas completes: it stores sB where the old value equals sD as read at issue, and answers the old value. -/
def Obligations.Atomics : Prop :=
  (∀ (s : State) (c x : Nat) (i : Instr) (d a b w sc o pa : Nat) (g : (w : Nat) → BitVec w → BitVec w → BitVec w),
     AmoForm d a b w sc o i g → Issues s c x → w < 2 → Usable (s.core c) x [a, b] (some d) →
     let n := 4 * (w + 1)
     StrongAt s c x a n pa .both → NothingWaits s c pa n →
     let old := s.mem.num pa n
     let new := (g (8 * n) (BitVec.ofNat (8 * n) old) (BitVec.ofNat (8 * n) (src s c x b).toNat)).toNat
     ∃ t, exec i s = .next t ∧
       RegEffect ((amoRead s c x pa n sc o).strongWrite c x 0 pa sc (o.testBit 1) (toBytes n new)) t c x [a, b] (some d) (ofN old) 0 ∧
       HoldsAt (releaseOf s c x o) t pa n new) ∧
  (∀ (s : State) (c x d a b w pa sc o : Nat), Issues s c x → w < 2 → Usable (s.core c) x [a, b, d] (some d) →
     let n := 4 * (w + 1)
     StrongAt s c x a n pa .both → NothingWaits s c pa n →
     let old := s.mem.num pa n
     let hit := decide (old = (src s c x d).toNat % 2 ^ (8 * n))
     let new := if hit then (src s c x b).toNat % 2 ^ (8 * n) else old
     ∃ t base, exec (.amoCas d a b w sc o) s = .next t ∧
       base = (if hit then (amoRead s c x pa n sc o).strongWrite c x 0 pa sc (o.testBit 1) (toBytes n new) else amoRead s c x pa n sc o) ∧
       RegEffect base t c x [a, b, d] (some d) (ofN old) 0 ∧ HoldsAt (releaseOf s c x o) t pa n new)

/-- 13 R280, R282: amo.fadd on device memory that holds no adds completes: the home receives the sum rounded to nearest, FPFLAGS its flags, sD the old value. 13 R282: in ordered mode amo.fadd on device memory completes with sD 0 and its add held at the slice with the keys of the order; memory does not change yet. Where this rests on the model's own choices: log 35. -/
def Obligations.FloatAtomics : Prop :=
  (∀ (s : State) (c x d a b w pa sc o : Nat), Issues s c x → w < 2 → Usable (s.core c) x [a, b] (some d) →
     let n := 4 * (w + 1)
     let f := if w = 0 then F32 else F64
     StrongAt s c x a n pa .both → NothingWaits s c pa n → (s.core c).tk.ordered = false →
     (∀ sl, sliceOfPa pa = some sl → (s.slice sl).atommode = 0) →
     let old := s.mem.num pa n
     let u := valueOf f old
     let v := valueOf f (src s c x b).toNat
     let e := addVal 0 u v
     let r := roundFloat f 0 false e.1
     ∃ t base, exec (.amoFadd d a b w sc o) s = .next t ∧
       base = ((amoRead s c x pa n sc o).strongWrite c x 0 pa sc (o.testBit 1) (toBytes n r.1)).updCx c x (fun q => { q with fadds := q.fadds + 1 }) ∧
       RegEffect base t c x [a, b] (some d) (ofN old) (r.2 ||| e.2 ||| u.snan ||| v.snan) ∧ HoldsAt (releaseOf s c x o) t pa n r.1) ∧
  (∀ (s : State) (c x d a b w pa sc o sl : Nat), Issues s c x → w < 2 → Usable (s.core c) x [a, b] (some d) →
     let n := 4 * (w + 1)
     StrongAt s c x a n pa .both → sliceOfPa pa = some sl → ((s.core c).tk.ordered = true ∨ (s.slice sl).atommode = 1) →
     let tk := (s.core c).tk
     ∃ t base, exec (.amoFadd d a b w sc o) s = .next t ∧ RegEffect base t c x [a, b] (some d) 0 0 ∧
       base = ((releaseOf s c x o).updSlice sl (fun e => { e with heldAdds := e.heldAdds ++ [{
         launch := tk.launch, addr := pa, n := n, x := (src s c x b).toNat % 2 ^ (8 * n), vcore := tk.vcore, item := tk.item
         cx := x, cnt := (s.cx c x).fadds }] })).updCx c x (fun q => { q with fadds := q.fadds + 1 }) ∧
       ∀ m, t.mem.read m = (releaseOf s c x o).mem.read m)

/-- 13 R283; 08 R178: evadd, evwait and evrd complete with the counter's value; evadd adds sB after the context's earlier strong accesses and passes on what the core knows of, and evwait completes once the counter has reached sB and learns it. -/
def Obligations.EventInstructions : Prop :=
  ∀ (s : State) (c x d a b e : Nat), Issues s c x → EventAt s c x (src s c x a).toNat e →
    (Usable (s.core c) x [a, b] (some d) →
      ∃ t, exec (.evadd d a b) s = .next t ∧ RegEffect ((s.drainCx c x).evRelease c e (src s c x b).toNat) t c x [a, b] (some d) (s.counter e) 0) ∧
    (Usable (s.core c) x [a, b] (some d) → (src s c x b).toNat ≤ (s.counter e).toNat →
      ∃ t, exec (.evwait d a b) s = .next t ∧ RegEffect ((s.evAcquire c e).orderHost c) t c x [a, b] (some d) (s.counter e) 0) ∧
    (Usable (s.core c) x [a] (some d) →
      ∃ t, exec (.evrd d a) s = .next t ∧ RegEffect s t c x [a] (some d) (s.counter e) 0)

/-- 13 R281: xadd on a valid object in device memory completes: its header and bins become those of the exact add, and no other byte of memory changes but by what a release comes after. 13 R281, 07 R166: xrd on a valid object in device memory completes with the sum of its bins rounded once in the word's mode, or the NaN or infinity its flags call for; memory does not change. -/
def Obligations.ExactObjects : Prop :=
  (∀ (s : State) (c x a b pa n sc o : Nat), Issues s c x → Usable (s.core c) x [a, b] none → ObjectAt s c x a pa n .both →
     let r := xobjAdd (s.mem.num pa 16) (binsAt s pa n) (valueOf F64 (src s c x b).toNat)
     ∃ t base, exec (.xadd a b sc o) s = .next t ∧ ViewStep s base c ∧ Effect base t c x (popSrcs (s.core c) [a, b]) ∧
       t.mem.num pa 16 = r.1 % 2 ^ 128 ∧ (∀ i, i < n → t.mem.num (pa + 16 + 8 * i) 8 = (BitVec.ofInt 64 (r.2.getD i 0)).toNat) ∧
       ∀ m, m < pa ∨ pa + 16 + 8 * n ≤ m → t.mem.read m = (releaseOf s c x o).mem.read m) ∧
  (∀ (s : State) (c x d a pa n sc o : Nat), Issues s c x → Usable (s.core c) x [a] (some d) → ObjectAt s c x a pa n .read →
     let h := s.mem.num pa 16
     let sum : Int := ((List.range n).map (fun i => (binsAt s pa n).getD i 0 * 2 ^ (40 * i))).sum
     let v : Val :=
       if h.testBit 32 || h.testBit 33 || (h.testBit 34 && h.testBit 35) then .nan true
       else if h.testBit 34 then .inf false
       else if h.testBit 35 then .inf true
       else if sum = 0 then .num false 0 0
       else .num (decide (sum < 0)) sum.natAbs (BitVec.ofNat 16 h).toInt
     let r := roundFloat F64 (modeOf (s.cx c x)) false v
     ∃ t base, exec (.xrd d a sc o) s = .next t ∧ ViewStep s base c ∧ RegEffect base t c x [a] (some d) (ofN r.1) r.2 ∧
       ∀ m, t.mem.read m = s.mem.read m)

/-- 07 R164: an exact add sets NAN, PINF or NINF for a NaN or an infinity, leaves an object whose window is exceeded, and a zero changes nothing; a value that is no multiple of the lowest weight or too large sets WEXC; any other is added exactly: the sum of the bins grows by the operand, every bin below the top becomes a balanced digit, WEXC is set where the top leaves the i64 range, and the top moves by at most 1. -/
def Obligations.ExactAddIsExact : Prop :=
  ∀ (hdr : Nat) (bins : List Int), bins ≠ [] →
    let e0 := (BitVec.ofNat 16 hdr).toInt
    (∀ q, xobjAdd hdr bins (.nan q) = (hdr ||| 2 ^ 33, bins)) ∧
    (∀ neg, xobjAdd hdr bins (.inf neg) = (hdr ||| (if neg then 2 ^ 35 else 2 ^ 34), bins)) ∧
    (∀ neg m e, hdr.testBit 32 = true ∨ m = 0 → xobjAdd hdr bins (.num neg m e) = (hdr, bins)) ∧
    (∀ neg m e, hdr.testBit 32 = false → m ≠ 0 → (∀ k, ¬Admits e0 bins.length (.num neg m e) k) →
      xobjAdd hdr bins (.num neg m e) = (hdr ||| 2 ^ 32, bins)) ∧
    ∀ x k, hdr.testBit 32 = false → Admits e0 bins.length x k →
      let r := xobjAdd hdr bins x
      let top := r.2.getLastD 0
      r.1 = (if -(2 ^ 63) ≤ top ∧ top < 2 ^ 63 then hdr else hdr ||| 2 ^ 32) ∧
      r.2.length = bins.length ∧ xobjSum r.2 = xobjSum bins + k ∧ Balanced r.2 ∧
      (Balanced bins → bins.getLastD 0 - 1 ≤ top ∧ top ≤ bins.getLastD 0 + 1)

/-- 07 R165: the bins after any set of adds depend on the set and not on its order. -/
def Obligations.ExactAddsInAnyOrder : Prop :=
  ∀ (hdr : Nat) (bins : List Int) (l m : List Val), bins ≠ [] → hdr.testBit 32 = false → l.Perm m →
    (∀ x ∈ l, ∃ k, Admits (BitVec.ofNat 16 hdr).toInt bins.length x k) →
    l.foldl (fun b x => (xobjAdd hdr b x).2) bins = m.foldl (fun b x => (xobjAdd hdr b x).2) bins

/-- 16 R350 to R352: one step of the coder. Encoding adds the symbol's part of the range to what the output stands for, shifts out as many bytes as bring the range back to 2^24, with every carry, and refuses a symbol outside the table, of zero frequency or past 33 bits; a flush shifts out all of it; decoding finds the symbol whose cell holds the code, takes the same part of the range and reads as many bytes. 16 R348 to R351, R354; 09 R190 to R194: the coder instructions that write a stream, a probability register or scratchpad complete, and change nothing else. 16 R352: rcdec completes with the symbol in sD and the stream after it. 16 R353, 09 R195: rcdecn completes: each of k streams decodes one symbol under the register its nibble of q4's entry names, q4 gives that entry and q5 gains the symbols, eight to an entry. Where this rests on the model's own choices: log 46. -/
def Obligations.EntropyCoder : Prop :=
  (∀ (p : Prob) (t u : Stream) (x v : Nat) (bs : List Byte), encode1 p t x v = .ok (u, bs) → 1 ≤ t.pend →
     v < p.n ∧ p.cell (v + 1) ≠ p.cell v ∧ t.low + symbolLow p t.range v < 2 ^ 33 ∧
       ∃ n, Renormed (symbolRange p t.range v) n u.range ∧ ShiftedOut t u bs (symbolLow p t.range v) n) ∧
  (∀ (t u : Stream) (bs : List Byte), shiftLows 5 t = some (u, bs) → 1 ≤ t.pend → t.low < 2 ^ 33 →
     u.low = 0 ∧ u.cache = 0 ∧ u.pend = 1 ∧ u.range = t.range ∧ ShiftedOut t u bs 0 5) ∧
  (∀ (k : Core) (p : Prob) (t u : Stream) (x v : Nat), decode1 k p t x = .ok (v, u) → p.cell 0 = 0 → p.cell p.n = 2 ^ p.p →
     let w := min (t.code / (t.range / 2 ^ p.p)) (2 ^ p.p - 1)
     let rest := t.code - symbolLow p t.range v
     v < p.n ∧ p.cell v ≤ w ∧ w < p.cell (v + 1) ∧ symbolLow p t.range v ≤ t.code ∧ rest < symbolRange p t.range v ∧
       ∃ n, Renormed (symbolRange p t.range v) n u.range ∧ u.cursor = t.cursor + n ∧ u.cursor ≤ t.limit ∧
         u = { t with code := (List.range n).foldl (fun c i => c * 256 + (k.spad.read (t.cursor + i)).toNat) rest, range := u.range, cursor := u.cursor }) ∧
  (∀ (s : State) (c x : Nat) (i : Instr) (srcs : List Nat) (k : Core),
     CoderForm s c x i srcs k → Issues s c x → (s.cx c x).window = none → Usable (s.core c) x srcs none →
     ∃ t, exec i s = .next t ∧ Effect s t c x (popSrcs k srcs)) ∧
  (∀ (s : State) (c x d n y v : Nat) (t : Stream), Issues s c x → (s.cx c x).window = none → Usable (s.core c) x [] (some d) →
     StreamOk (s.core c) n 2 → TableOk (s.core c) y → Quiet (s.core c) →
     decode1 (s.core c) ((s.core c).prob y) ((s.core c).stream n) n = .ok (v, t) →
     ∃ u base, exec (.rcdec d n y) s = .next u ∧ base.core c = withStream (s.core c) n t ∧ OutsideSame s base c ∧
       RegEffect base u c x [] (some d) (ofN v) 0) ∧
  (∀ (s : State) (c x b n : Nat) (l : List (Nat × Stream)), Issues s c x → (s.cx c x).window = none → Quiet (s.core c) →
     (s.core c).cl.has (.queue 4) = true → (s.core c).cl.has (.queue 5) = true → (s.core c).queue 4 ≠ [] →
     ((s.core c).queue 5).length + (n + 7) / 8 ≤ 16 →
     (∀ i, i < n → StreamOk (s.core c) (b + i) 2) → decodeN (s.core c) (((s.core c).queue 4).headD 0).toNat b n 0 = .ok l →
     ∃ t k, exec (.rcdecn b n) s = .next t ∧ Effect s t c x k ∧ k = { s.core c with q := k.q, st := k.st } ∧
       k.queue 4 = ((s.core c).queue 4).tail ∧ (∀ m, m ≠ 4 → m ≠ 5 → k.queue m = (s.core c).queue m) ∧
       (∀ i, i < n → k.stream (b + i) = (l.getD i (0, {})).2) ∧ (∀ m, m < b ∨ b + n ≤ m → k.stream m = (s.core c).stream m) ∧
       k.queue 5 = (s.core c).queue 5 ++ (List.range ((n + 7) / 8)).map (fun e =>
         ofN (((List.range 8).map (fun j => (l.getD (8 * e + j) (0, {})).1 % 256 * 256 ^ j)).sum)))

/-- 10 R206, R208, R212, R217; 16 R357: swopen, swstep, swabort and tjoin complete. 10 R205, R210, R211, R218: swcommit, swalloc, swstat and fpop complete with their answer. 10 R207, R211, R212: undoing a window from step j on gives every logged scratchpad line of those steps the content, and the errors, that it had before the first of them wrote it, and leaves other lines and memory outside the freed pages alone. Where this rests on the model's own choices: log 12, 31. -/
def Obligations.Windows : Prop :=
  (∀ (s b : State) (c x : Nat) (i : Instr) (srcs : List Nat) (k : Core),
     WindowForm s c x i srcs b k → IssuesControl s c x → Usable (s.core c) x srcs none →
     ∃ t, exec i s = .next t ∧ Effect b t c x (popSrcs k srcs)) ∧
  (∀ (s b : State) (c x : Nat) (i : Instr) (srcs : List Nat) (d : Nat) (v : W64),
     WindowReads s c x i srcs d b v → IssuesControl s c x → Usable (s.core c) x srcs (some d) →
     ∃ t, exec i s = .next t ∧ RegEffect b t c x srcs (some d) v 0) ∧
  (∀ (s : State) (c n j : Nat),
     let w := (s.core c).window n
     (∀ e ∈ w.rlog, e.bs.length = 128 ∧ ∀ i ∈ e.corr, i / 16 = e.line) →
     let t := s.undoWindow c n j
     (∀ a, (∀ e ∈ w.rlog, j ≤ e.step → e.line ≠ a / 128) → (t.core c).spad.read a = (s.core c).spad.read a) ∧
     (∀ a e r, w.rlog.reverse.filter (fun e => decide (j ≤ e.step) && e.line == a / 128) = e :: r →
       (t.core c).spad.read a = e.bs.getD (a % 128) 0 ∧
       ((s.core c).einj < 2 ^ 31 → ((t.core c).spoison.get false (a / 8) = true ↔ a / 8 ∈ e.poison) ∧
         ((t.core c).corr.get false (errKey 4 (a / 8)) = true ↔ a / 8 ∈ e.corr))) ∧
     (∀ a, (∀ p ∈ w.pages, j ≤ p.2.2 → p.2.1 ≠ a / 65536) → t.mem.read a = s.mem.read a))

/-- 10 R216, 16 R359: relc gives the lowest free tail the rest of the instruction stream with the context's registers and its mark, and the caller goes on at its branch register; with no tail free it answers 2 and goes on. Where this rests on the model's own choices: log 35. -/
def Obligations.TailRelease : Prop :=
  ∀ (s : State) (c x cc d a n : Nat), IssuesControl s c x → d < 24 → a < 24 → (s.cx c x).window = none →
    let q := s.cx c x
    let dest := (q.b.get 0 n).toNat
    dest % 64 = 0 → dest < 2 ^ 48 →
    (∀ i, (s.core c).freeTail = some i → i + 1 ≠ x →
      ∃ t, exec (.relc cc d a n) s = .next t ∧ OutsideSame (s.orderAfter c (· == s.serialOf c x) ((s.core c).tails + 1)) t c ∧
        t.core c = { s.core c with cx := (t.core c).cx, mxcnt := (t.core c).mxcnt, tails := (s.core c).tails + 1 } ∧
        FlowOnly { answered q d i with c := q.c.put false cc false } (t.cx c x) ∧ Lands q (t.cx c x) dest ∧
        (t.cx c (i + 1)) = { answered q d i with
          live := true, pc := q.pc + 4, c := q.c.put false cc true, fmark := src s c x a, rep := .none, pend := none, pfx := none
          window := none, wait := .none, fadds := (s.cx c (i + 1)).fadds, stalled := false, emptyAt := none, emptyFor := none, logWait := false
          serial := (s.core c).tails + 1, held := none, slot := false, takes := [] } ∧
        ∀ y, y ≠ x → y ≠ i + 1 → t.cx c y = s.cx c y) ∧
    ((s.core c).freeTail = none → NoEnd q →
      ∃ t, exec (.relc cc d a n) s = .next t ∧ NextWord q (t.cx c x) ∧
        Effect s t c x { s.core c with cx := (s.core c).cx.upd {} x (fun q => { answered q d 2 with c := q.c.put false cc false }) })

/-- 13 R293: syscall posts its block once, after the strong accesses of the context, and waits; when the kernel has replied it completes with the status in sD. 13 R276: lcbwait completes once the flag it reads with acquire is nonzero: lc0 and lc1 take the two counts after it, and nothing else changes. -/
def Obligations.ServicesAndLoopCounts : Prop :=
  (∀ (s : State) (c x d a : Nat), IssuesControl s c x → Usable (s.core c) x [a] (some d) →
     ((s.cx c x).wait = .none → (src s c x a).toNat % 64 = 0 → (src s c x a).toNat + 64 ≤ (s.core c).spadLimit →
       (s.cx c x).window = none →
       ∃ t, exec (.syscall d a) s = .next t ∧
         Effect { s.drainCx c x with requests := s.requests ++ [{
             core := c, x := x, blk := (src s c x a).toNat, launch := (s.core c).tk.launch, item := (s.core c).tk.item }] } t c x { s.core c with cx := (s.core c).cx.upd {} x (fun q => { q with wait := .service (src s c x a).toNat }) } ∧
         (t.cx c x).pc = (s.cx c x).pc) ∧
     (∀ st, (s.cx c x).wait = .reply st →
       ∃ t, exec (.syscall d a) s = .next t ∧
         RegEffect ((s.orderHost c).updCx c x (fun q => { q with wait := .none })) t c x [a] (some d) (ofN st) 0)) ∧
  (∀ (s : State) (c x a : Nat), IssuesControl s c x → Usable (s.core c) x [a] none → (s.cx c x).loops = [] → (s.cx c x).window = none →
     let va := (src s c x a).toNat
     va % 8 = 0 → va % 4096 + 16 ≤ 4096 →
     (va < 0x80000 → va + 16 ≤ (s.core c).spadLimit → Readable (s.core c) va 16 → (s.core c).spad.num va 8 ≠ 0 →
       ∃ t, exec (.lcbwait a) s = .next t ∧ Effect (s.dropReqs c x) t c x (popSrcs (s.core c) [a]) ∧
         (t.cx c x).pc = (s.cx c x).pc + ofN (lenOf (s.cx c x)) ∧ (t.cx c x).lc.get 0 0 = (s.core c).spad.num (va + 8) 4 ∧
         (t.cx c x).lc.get 0 1 = (s.core c).spad.num (va + 12) 4) ∧
     (∀ pa, OnDevice s c x va 8 pa .read → s.devPoison c pa 16 = false → NothingWaits s c pa 16 → s.mem.num pa 8 ≠ 0 →
       let u := acquireOf (s.strongRead c 0 pa 8).2 c 3 1 pa
       ∃ t base, exec (.lcbwait a) s = .next t ∧ base = ((u.strongRead c 0 (pa + 8) 4).2.strongRead c 0 (pa + 12) 4).2.dropReqs c x ∧
         Effect base t c x (popSrcs (s.core c) [a]) ∧ (∀ m, t.mem.read m = s.mem.read m) ∧
         (t.cx c x).lc.get 0 0 = s.mem.num (pa + 8) 4 ∧ (t.cx c x).lc.get 0 1 = s.mem.num (pa + 12) 4))

/-- 13 R296 and the rules it gathers: under each of these conditions the instruction traps with the cause and the TVAL of the table and has no effect. 06 R108, R116, R128; 13 R263: under each of these conditions the instruction stalls and has no effect. Where this rests on the model's own choices: log 34. -/
def Obligations.TrapsAndStalls : Prop :=
  (∀ (s : State) (c x : Nat) (i : Instr) (cause : Cause) (tval : Nat), TrapForm s c x i cause tval → s.cur = .scalar c x →
     ∃ t, exec i s = .next t ∧ Trapped s t c x cause tval (s.cx c x).pc.toNat) ∧
  (∀ (s : State) (c x : Nat) (i : Instr) (line : Option Nat) (h : Option Held), StallForm s c x i line h → Issues s c x →
     ∃ t, exec i s = .next t ∧ Stalled s t c x line h)

/-- 12 R239 to R241: a prefix that is not last in its block and stands before no other prefix is latched for the word after it, and nothing else of the core's task changes. Where this rests on the model's own choices: log 6. -/
def Obligations.Prefix : Prop :=
  ∀ (s u : State) (c x rnd hi w : Nat) (rv sat : Bool), s.cur = .scalar c x → (s.cx c x).pc.toNat % 64 ≠ 60 →
    fetchWord c ((s.cx c x).pc.toNat + 4) s = .ok (w, u) → w / 2 ^ 26 ≠ 0x3F →
    ∃ t, exec (.pfx rnd rv sat hi) s = .next t ∧ OutsideSame u t c ∧
      t.cx c x = { u.cx c x with pfx := some { rnd := rnd, rv := rv, sat := sat, hi := hi } } ∧
      t.core c = { u.core c with cx := (t.core c).cx } ∧ ∀ y, y ≠ x → t.cx c y = u.cx c y

/-- 14 R300, R301, R305 to R309, R311, R314, R318, R321, R323: the elementwise words complete: repetition by repetition, each element that takes part gets its result and every other byte stays; flags are gathered over all repetitions. Where this rests on the model's own choices: log 11. -/
def Obligations.RowElements : Prop :=
  ∀ (s : State) (c : Nat) (f : RowF) (i : Instr) (sp : RowSpec) (e : ElemRule), ElemForm (s.core c) f i sp e → RowGo s c sp f →
    ∃ (t : State) (rows : Nat → Rows), exec i s = .next t ∧ RowDone s t c sp f [] (flagsOf f e rows) ∧ NoStore s t f ∧
      rows 0 = (s.core c).rowRaw ∧ (t.core c).rowRaw = rows (f.rep + 1) ∧
      ∀ n, n ≤ f.rep → RowStep (s.core c) f e n (rows n) (rows (n + 1))

/-- 14 R303, R304, R309, R310: notify, vnop, the compares into a predicate, the predicate words and the votes complete. -/
def Obligations.RowPredicates : Prop :=
  ∀ (s : State) (c : Nat) (f : RowF) (i : Instr) (sp : RowSpec) (out : List W64) (fl : Nat) (p : Option (Nat × (Nat → Bool))),
    PredForm (s.core c) f i sp out fl p → RowGo s c sp f →
    ∃ t, exec i s = .next t ∧ RowDone s t c sp f out fl ∧ NoStore s t f ∧
      ∀ q g, p = some (q, g) → (∀ n, n < 1024 → predBit (t.core c) q n = g n) ∧
        ((t.core c).rowRaw (.opf (8 * q + 7))).drop 128 = ((s.core c).rowRaw (.opf (8 * q + 7))).drop 128

/-- 14 R315, R316: the reductions complete: one result a repetition, to an element of D's first row or to q1. Where this rests on the model's own choices: log 17. -/
def Obligations.RowReductions : Prop :=
  ∀ (s : State) (c : Nat) (f : RowF) (i : Instr) (sp : RowSpec) (wd : Nat) (res : List Term → Nat × Nat → Prop),
    ReduceForm f i sp wd res → RowGo s c sp f →
    ∃ (t : State) (rows : Nat → Rows) (rs : List (Nat × Nat)), exec i s = .next t ∧ rs.length = f.rep + 1 ∧
      RowDone s t c sp f (if f.dOp = .none then rs.map (fun r => ofN r.1) else []) ((rs.map (·.2)).foldl (· ||| ·) 0) ∧ NoStore s t f ∧
      rows 0 = (s.core c).rowRaw ∧ (t.core c).rowRaw = rows (f.rep + 1) ∧
      ∀ n, n ≤ f.rep → res (termsAt (s.core c) f (rows n) n) (rs.getD n (0, 0)) ∧ ReduceStep (s.core c) f wd n (rs.getD n (0, 0)).1 (rows n) (rows (n + 1))

/-- 14 R319, R322: vcdf writes the cells or the register image of each repetition's weights, and vtopk the first KC candidates in rank order, filled up with minus infinity. 14 R312, R313; 07 R155: vqnt scales, rounds and packs the tile and writes its trailer; vqchk, where the trailer agrees with the data, widens the tile scaled back. -/
def Obligations.RowTables : Prop :=
  (∀ (s : State) (c : Nat) (f : RowF),
     (∀ (rows : Nat → Rows) (cum : Nat → List Nat),
       let sp : RowSpec := { op := 0x5A, fmt := (· == F32), d := .dst, a := .src, b := .none, psel := 0, pops := 1 }
       let q := ownEntry (s.core c) f 0
       let n := q % 512
       let p := q / 512 % 16
       1 ≤ n → n ≤ 256 → 10 ≤ p → p ≤ 15 → (q.testBit 16 = true → n ≤ 64) → RowGo s c sp f → rows 0 = (s.core c).rowRaw →
       (∀ i, i ≤ f.rep →
         cdfCells p ((List.range n).map (fun j => valueOf F32 (srcAt (s.core c) (rows i) f.aOp 4 i j))) = some (cum i) ∧
         HeadStep (s.core c) f i (if q.testBit 16 then ({ n := n, p := p, cum := cum i } : Prob).bytes else (cum i).flatMap (toBytes 2)) (rows i) (rows (i + 1))) →
       ∃ t, exec (.vcdf f) s = .next t ∧ RowDone s t c sp f [] 0 ∧ NoStore s t f ∧
         ∀ i r, i ≤ f.rep → operandRow (s.core c) f.dOp i = some r → (t.core c).rowRaw r = rows (f.rep + 1) r) ∧
     (let sp : RowSpec := { op := 0x65, fmt := (· == F32), d := .sp, a := .src, b := .none, pops := 1, dRows := fun _ => 8 }
       let kc := ownEntry (s.core c) f 0 / 2 ^ 32 % 2048
       let cands := candidatesOf (s.core c) f
       1 ≤ kc → kc ≤ 1024 → RowGo s c sp f →
       ∃ (t : State) (best rest all : List (Nat × Nat)) (rows : Nat → Rows), exec (.vtopk f) s = .next t ∧
         RowDone s t c sp f [] (candidateFlags (s.core c) f) ∧ NoStore s t f ∧
         (best ++ rest).Perm cands ∧ best.length = min kc cands.length ∧ best.Pairwise (fun a b => outranks b a = false) ∧
         (∀ a ∈ best, ∀ b ∈ rest, outranks b a = false) ∧
         all = best ++ List.replicate (128 * ((kc + 127) / 128) - best.length) (0xFF800000, 2 ^ 32 - 1) ∧
         rows 0 = (s.core c).rowRaw ∧ (t.core c).rowRaw = rows ((kc + 127) / 128) ∧
         ∀ i, i < (kc + 127) / 128 →
           HeadStep (s.core c) f i (((all.drop (128 * i)).take 128).flatMap (fun e => toBytes 8 (e.1 + 2 ^ 32 * e.2))) (rows i) (rows (i + 1)))) ∧
  (∀ (s : State) (c row : Nat) (f : RowF),
     let ws := fmtBytes (f.b % 64)
     (RowGo s c (quantSpec f) f → f.dOp = .sp row 1 →
       ∃ (t : State) (rows : Nat → Rows) (sc : Int), exec (.vqnt f) s = .next t ∧ NoStore s t f ∧
         let m := largest ((quantSources (s.core c) f (fun _ => (s.core c).rowRaw)).map (valueOf (f.b % 64)))
         ScaleOf f.fmt m sc ∧
         RowDone s t c (quantSpec f) f [] (flagsOf f (packed (s.core c) f ws (1024 / ws) (scaled f (-sc))) rows) ∧ rows 0 = (s.core c).rowRaw ∧
         (∀ n, n ≤ f.rep → RowStep (s.core c) f (packed (s.core c) f ws (1024 / ws) (scaled f (-sc))) n (rows n) (rows (n + 1))) ∧
         let dn := (f.rep + 1) * f.w / ws
         (∀ r, r ≠ .sp (row + dn) → (t.core c).rowRaw r = rows (f.rep + 1) r) ∧
         (t.core c).rowRaw (.sp (row + dn)) =
           toBytes 16 (trailerOf f m (quantSources (s.core c) f rows) sc (spadRows (rows (f.rep + 1)) row dn)) ++ (rows (f.rep + 1) (.sp (row + dn))).drop 16) ∧
     (RowGo s c (checkSpec f) f → f.aOp = .sp row 1 →
       let sn := (f.rep + 1) * ws / f.w
       let tr := elemAt ((s.core c).rowRaw (.sp (row + sn))) 16 0
       let e := packed (s.core c) f ws f.n (scaled f (BitVec.ofNat 8 (tr / 2 ^ 64)).toInt)
       tr / 2 ^ 96 = crc32c (spadRows (s.core c).rowRaw row sn) → tr / 2 ^ 72 % 64 = f.b % 64 →
       ∃ (t : State) (rows : Nat → Rows), exec (.vqchk f) s = .next t ∧ RowDone s t c (checkSpec f) f [] (flagsOf f e rows) ∧ NoStore s t f ∧
         rows 0 = (s.core c).rowRaw ∧ (t.core c).rowRaw = rows (f.rep + 1) ∧ ∀ n, n ≤ f.rep → RowStep (s.core c) f e n (rows n) (rows (n + 1))))

/-- 14 R320, 08 R172 to R174, R186: on device memory vld reads the rows from the core's view, with the stores of its window's steps over it, and vst writes the active elements to the core's view or, in a step of a window, to the window's log; each completes. 14 R317, 07 R163, R164: vxacc on valid objects in device memory completes, having added every active element to its object. Where this rests on the model's own choices: log 7, 33. -/
def Obligations.RowMemory : Prop :=
  (∀ (s : State) (c : Nat) (f : RowF) (va pa : Nat → Nat),
     let v := acquired s c f
     (let sp : RowSpec := { op := 0x60, fmt := fmtOk, d := .dst, a := .none, b := .none, pops := 1 }
       let e := perRow (s.core c) f (fun _ i j => (ofBytes ((List.range f.w).map (fun b => byteIn (s.core c) v c (rowTag s c) (pa (va i + (f.w * j + b))))), 0))
       RowGo s c sp f → RowsOnDevice s c f va pa .read →
       (∀ i b, i ≤ f.rep → b < 1024 → NoRace v c 0 (pa (va i + b)) 1) →
       ∃ (t : State) (rows : Nat → Rows), exec (.vld f) s = .next t ∧ RowDone s t c sp f [] 0 ∧ NoStore s t f ∧ rows 0 = (s.core c).rowRaw ∧
         (t.core c).rowRaw = rows (f.rep + 1) ∧ ∀ n, n ≤ f.rep → RowStep (s.core c) f e n (rows n) (rows (n + 1))) ∧
     (let sp : RowSpec := { op := 0x61, fmt := fmtOk, d := .none, a := .src, b := .none, pops := 1 }
       let stored (i b : Nat) : Prop := i ≤ f.rep ∧ b < 1024 ∧ active (s.core c) f f.w (b / f.w) = true
       let last (i b : Nat) : Prop := stored i b ∧ ∀ j d, i < j → stored j d → va j + d ≠ va i + b
       let byte (i b : Nat) : Nat := srcAt (s.core c) (s.core c).rowRaw f.aOp f.w i (b / f.w) / 256 ^ (b % f.w) % 256
       RowGo s c sp f → RowsOnDevice s c f va pa .write →
       (∀ i b j d, stored i b → stored j d → pa (va i + b) = pa (va j + d) → va i + b = va j + d) →
       (rowTag s c = none → ∃ t, exec (.vst f) s = .next t ∧ RowDone s t c sp f [] 0 ∧ NoStore s t f ∧
         (∀ i b, last i b → (byteSeen t c (pa (va i + b))).toNat = byte i b ∧
           (f.rel = false → ∃ e ∈ (t.phys c).dirty, e.word = pa (va i + b) / 8) ∧
           (f.rel = true → t.mem.read (pa (va i + b)) = byteSeen t c (pa (va i + b)))) ∧
         (f.rel = false → ∀ a, (∀ i b, stored i b → pa (va i + b) ≠ a) → byteSeen t c a = byteSeen v c a)) ∧
       ∀ n st, rowTag s c = some (n, st) →
         let w := (s.core c).window n
         (∀ L : List Nat, L.Nodup → (∀ l ∈ L, w.stored l = false ∧ ∃ i b, stored i b ∧ pa (va i + b) / 128 = l) →
           w.lines + L.length ≤ 2048 ∧ ∀ sl, s.sliceLog sl + L.length ≤ 32768) →
         ∃ t w', exec (.vst f) s = .next t ∧ RowDone (s.updCore c (fun k => k.updWin n (fun _ => w'))) t c sp f [] 0 ∧ NoStore s t f ∧
           (∃ new, w' = { w with dlog := new ++ w.dlog, lines := w'.lines } ∧ ∀ e ∈ new, e.1 = w.step) ∧
           (∀ i b x, last i b → (specByte w' w.step (pa (va i + b)) x).toNat = byte i b) ∧
           (∀ a j x, (∀ i b, stored i b → pa (va i + b) ≠ a) → specByte w' j a x = specByte w j a x) ∧
           (f.rel = false → ∀ a, byteSeen t c a = byteSeen v c a))) ∧
  (∀ (s : State) (c : Nat) (f : RowF) (pa nb : Nat → Nat),
     let sp : RowSpec := { op := 0x58, fmt := isFloatFmt, d := .none, a := .src, b := .none, pops := 1 }
     RowGo s c sp f → rowTag s c = none →
     (∀ e ∈ exactAdds (s.core c) f, ObjectHeld s c e.1 (pa e.1) (nb e.1)) →
     ∃ t, exec (.vxacc f) s = .next t ∧
       RowDone s t c sp f [] ((exactAdds (s.core c) f).foldl (fun fl e => fl ||| e.2.snan) 0) ∧
       (f.rel = false → ∀ a, t.mem.read a = ((exactAdds (s.core c) f).foldl (fun m e => objectAdd m (pa e.1) (nb e.1) e.2) s.mem).read a))

/-- 12 R260, 13 R297: a word that is ill-formed halts its ring before anything of it takes effect: one with a reserved opcode, and a row word that is not well-formed for the task. -/
def Obligations.IllFormedWords : Prop :=
  ∀ (s : State) (c : Nat), s.c = c → (s.cx c 0).live = true →
    (∀ ring w, (s.core c).engineFree (ring == 1) = true → ((s.core c).ring (ring == 1)).word = none →
      ∃ t, exec (.illFormedWord ring w) s = .next t ∧ WordHalted s t c (ring == 1) (s.core c) .illFormed 0 w []) ∧
    ∀ (f : RowF) (i : Instr) (sp : RowSpec), RowAny (s.core c) f i sp → s.cur = .row c → (s.core c).engineFree false = true →
      (s.core c).row.word = none → rowLegal (s.core c) sp f = false →
      ∃ t, exec i s = .next t ∧ WordHalted s t c false (s.core c) .illFormed 0 (encRow sp.op f) []

/-- 14 R302, 13 R297: under each of these conditions a row word that was dequeued faults: its ring halts at it, its await is consumed and nothing else of it takes effect. 06 R113, 14 R299: a row word whose await, entries or room is not there stays where it is, and nothing changes. -/
def Obligations.RowFaults : Prop :=
  (∀ (s : State) (c : Nat) (f : RowF) (i : Instr) (sp : RowSpec) (cause : Cause) (tval : Nat),
     RowFault (s.core c) f i sp cause tval → RowStart s c sp f → (s.cx c 0).live = true →
     ∃ t k, exec i s = .next t ∧ Dequeued (s.core c) k f.aw ∧ WordHalted s t c false k cause tval (encRow sp.op f) []) ∧
  (∀ (s : State) (c : Nat) (f : RowF) (i : Instr) (sp : RowSpec), RowAny (s.core c) f i sp → s.cur = .row c →
     (s.core c).engineFree false = true → (s.core c).row.word = none → rowLegal (s.core c) sp f = true →
     ((f.aw ≠ 31 ∧ (s.core c).sem.get 0 f.aw = 0) ∨ ((s.core c).queue 0).length < sp.pops + f.hasQ0.toNat ∨
       16 < ((s.core c).queue 1).length + sp.pushes) →
     exec i s = .next s)

/-- 15 R324 to R334: a matrix word completes: its result, its store-out, its tags and its flags are what the rules give, and all else stays. Where this rests on the model's own choices: log 30. -/
def Obligations.MatrixWords : Prop :=
  ∀ (s : State) (c : Nat) (f : MatF) (i : Instr) (op : MatOp) (m n : Nat) (res : Nat → Nat → Nat → Nat × Nat),
    MatForm (s.core c) f i op m n res → MatReady s c op f → s.cur = .mat c → (s.core c).engineFree true = true →
    (s.core c).mat.word = none →
    ∃ t, exec i s = .next t ∧ MatDone s t c op f m n res { (s.core c).mat with
      rd := (s.core c).mat.rd + 1, tags := (s.core c).mat.tags.put none (s.core c).mat.rd none, word := none, emptyAt := none, logWait := false
      walked := [], counted := 0, banks := outBanks op f, notified := (s.core c).mat.notified || op == .notify } (s.core c).follow

/-- 15 R344: the oldest word that copies handed over runs at a word boundary with the effects of its ring word, and leaves RD and REL. Where this rests on the model's own choices: log 30. -/
def Obligations.FollowOnWords : Prop :=
  ∀ (s : State) (c w : Nat) (rest : List Nat) (f : MatF) (i : Instr) (op : MatOp) (m n : Nat) (res : Nat → Nat → Nat → Nat × Nat),
    MatForm (s.core c) f i op m n res → MatReady s c op f → s.cur = .event .followOnWord c 0 → (s.core c).phase = .running →
    (s.core c).mat.halted = false → (s.core c).mat.word = none → (s.core c).followGo = false → (s.core c).follow = w :: rest →
    w < 2 ^ 192 → decodeMat w = .ok i → op ≠ .notify →
    ∃ t, exec .followOnWord s = .next t ∧
      MatDone s t c op f m n res { (s.core c).mat with emptyAt := none, logWait := false, banks := outBanks op f } rest

/-- 12 R260, 15 R335, 13 R297: a matrix word that is ill-formed, or that faults after its dequeue, halts its ring at it and marks the accumulators it names invalid; nothing else of it takes effect. Where this rests on the model's own choices: log 30. -/
def Obligations.MatrixFaults : Prop :=
  ∀ (s : State) (c : Nat) (f : MatF) (i : Instr) (op : MatOp), s.cur = .mat c → (s.core c).engineFree true = true →
    (s.core c).mat.word = none → (s.cx c 0).live = true →
    (∀ m n res, MatForm (s.core c) f i op m n res → matLegal (s.core c) op f = false →
      ∃ t, exec i s = .next t ∧ WordHalted s t c true (s.core c) .illFormed 0 (encMat op.code f) (accsOf op f)) ∧
    ∀ cause tval, MatFault (s.core c) f i op cause tval → MatStart s c op f →
      ∃ t k, exec i s = .next t ∧ Dequeued (s.core c) k f.aw ∧ WordHalted s t c true k cause tval (encMat op.code f) (accsOf op f)

/-- 16 R360, R363: a sampler word of a running context completes: the context takes what the table gives the word, and nothing else of the device changes. Where this rests on the model's own choices: log 11. -/
def Obligations.SamplerWords : Prop :=
  ∀ (s : State) (n : Nat) (i : Instr) (P : Seq → Prop), s.cur = .sampler n → seqRuns s (s.seq n) = true → (s.seq n).reply = none →
    SampForm (s.core (s.seq n).core) (s.seq n) s.tick i P → ∃ r, P r ∧ exec i s = .next (s.updSeq n (fun _ => r))

/-- 16 R361 to R363, 12 R261, 09 R200: a sampler word that is ill-formed, meets a NaN or has a bad argument leaves its registers and slots and places a reply; one that meets an empty line waits for it, and past the limit is given up with status STALLED. 09 R200, 16 R361: the head entry of q6 starts an idle context, waits for a running one, and is refused with BADSTART or HALTED; the reply of a core that has waited longest enters q7 when it has room, after which the context goes on or is halted. Where this rests on the model's own choices: log 37. -/
def Obligations.SamplerFlow : Prop :=
  (∀ (s : State) (n : Nat), seqRuns s (s.seq n) = true → (s.seq n).reply = none →
     let q := s.seq n
     let replied (status token : Nat) : Seq := { q with reply := some (token % 2 ^ 32 + status * 2 ^ 32 + q.localNo * 2 ^ 40), replyAt := s.tick, emptyAt := none }
     (∀ i status token, s.cur = .sampler n → SampHalt (s.core q.core) q i status token →
       exec i s = .next (s.updSeq n (fun _ => replied status token))) ∧
     (∀ d a l, s.cur = .sampler n → a + 4 ≤ (s.core q.core).spadLimit → (linesOf a 4).find? (s.core q.core).isEmpty = some l →
       exec (.smpLdx d a) s = .next (s.updSeq n (fun _ => { q with emptyAt := some (128 * l) }))) ∧
     ∀ l a, s.cur = .event .samplerStallTimeout n a → q.emptyAt = some l →
       exec .samplerStallTimeout s = .next (s.updSeq n (fun _ => replied 7 l))) ∧
  (∀ (s : State),
     (∀ c a e r, s.cur = .event .samplerStart c a → (s.core c).phase = .running → (s.core c).queue 6 = e :: r →
       let sq := e.toNat / 2 ^ 32 % 64
       let pc := e.toNat % 2 ^ 19
       let n := localSeq s c sq
       let good := (s.core c).cl.has (.seq sq) = true ∧ pc % 4 = 0 ∧ pc + 4 ≤ (s.core c).spadLimit
       let refused (t : State) (status : Nat) : Prop :=
         OutsideSame s t c ∧ t.core c = { s.core c with q := (t.core c).q, mxcnt := (t.core c).mxcnt } ∧
           ∀ m, (t.core c).queue m = if m = 6 then r else if m = 7 then (s.core c).queue 7 ++ [ofN (status * 2 ^ 32 + sq * 2 ^ 40)] else (s.core c).queue m
       (good → (s.seq n).st = 0 → exec .samplerStart s = .next ((s.updCore c (fun k => { k with q := k.q.put [] 6 r })).updSeq n (fun q =>
         { q with st := 1, pc := pc, k := q.k.put 0 0 (e.toNat / 2 ^ 48), core := c, launch := (s.core c).tk.launch, item := (s.core c).tk.item }))) ∧
       (good → (s.seq n).st = 1 → exec .samplerStart s = .next s) ∧
       (((s.core c).queue 7).length < 4 → ¬good → ∃ t, exec .samplerStart s = .next t ∧ refused t 3) ∧
       (((s.core c).queue 7).length < 4 → good → (s.seq n).st = 2 → ∃ t, exec .samplerStart s = .next t ∧ refused t 4) ∧
       (4 ≤ ((s.core c).queue 7).length → ¬good → exec .samplerStart s = .next s)) ∧
     ∀ n a e, s.cur = .event .samplerReply n a → (s.seq n).reply = some e → seqRuns s (s.seq n) = true →
       let c := (s.seq n).core
       let first := ∀ p ∈ s.seqs, ¬(p.2.core = c ∧ seqRuns s p.2 = true ∧ p.2.reply ≠ none ∧ p.2.replyAt < (s.seq n).replyAt)
       (¬first → exec .samplerReply s = .next s) ∧
       (first → ((s.core c).queue 7).length < 4 → ∃ t, exec .samplerReply s = .next t ∧ t = { s with cores := t.cores, seqs := t.seqs } ∧
         t.core c = { s.core c with q := (t.core c).q, mxcnt := (t.core c).mxcnt } ∧ (∀ m, m ≠ c → t.phys m = s.phys m) ∧
         (∀ m, (t.core c).queue m = if m = 7 then (s.core c).queue 7 ++ [ofN e] else (s.core c).queue m) ∧
         t.seq n = (if e / 2 ^ 32 % 16 < 2 then { s.seq n with reply := none, pc := (s.seq n).pc + 4 } else { s.seq n with reply := none, st := 2 }) ∧
         ∀ m, m ≠ n → t.seq m = s.seq m) ∧
       (4 ≤ ((s.core c).queue 7).length → exec .samplerReply s = .next s))

/-- 02 R24, R25, R27 to R30: writes of the clock registers, the FLL step, the LDO window and a timing replay complete and change their cluster alone; without a running gang the FLL approaches the lower of request and ceiling; the supply of a cluster with an active core is the guard band of the target while the code rises, and else lies in the range of the code, at its guard band with a replay target of 0. Where this rests on the model's own choices: log 3, 19. -/
def Obligations.ClusterClocks : Prop :=
  ∀ (s : State) (cl v : Nat),
    (∀ (i : Instr) (f : Cluster), ClockForm (s.cluster cl) (s.fllTarget cl) (s.supply cl) v i f → s.cur = .event i cl v →
      exec i s = .next (s.updCluster cl (fun _ => f))) ∧
    (let e := s.cluster cl
     let t := s.fllTarget cl
     ((∀ c, c / 8 = cl → ¬(c < 192 ∧ s.coremap.testBit c = true)) → s.supply cl = 0) ∧
     ((∃ c, c / 8 = cl ∧ c < 192 ∧ s.coremap.testBit c = true) →
       (e.cur < t → s.supply cl = voltGd t) ∧ (t ≤ e.cur → e.replaytgt = 0 → s.supply cl = voltGd e.cur) ∧
       (t ≤ e.cur → voltLo e.cur ≤ s.supply cl ∧ s.supply cl ≤ voltHi e.cur))) ∧
    ((∀ c, c / 8 = cl → (s.core c).phase ≠ .running ∨ (s.core c).tk.gang = false) → s.fllTarget cl = min (s.cluster cl).cfreq (s.cluster cl).ccap) ∧
    ∀ n, voltLo n ≤ voltIn n v ∧ voltIn n v ≤ voltHi n ∧ (voltLo n ≤ v → v ≤ voltHi n → voltIn n v = v)

/-- 02 R31 to R33; 03 R61: cold reset, device reset and a firmware update complete; so do warm restart and hot reset, at once where no task has an access under way that a peer has already changed something for, and else by draining to such a boundary first. 02 R34, R38; 01 R13; 03 R57; 06 R142; 13 R282: error injection, the ordered mode, the patrol scrub, the in-field test and the energy queue complete. Where this rests on the model's own choices: log 1, 13, 24, 25, 26, 36. -/
def Obligations.Resets : Prop :=
  (∀ (s : State) (trainOk testOk : Bool),
     (s.fuseRevoked % 16 = 15 → ∃ t, exec (.coldReset trainOk testOk) s = .next t ∧ Recovery s t 5) ∧
     (s.fuseRevoked % 16 ≠ 15 → (∀ i, ¬Verifies s s.flash.stage1 i) → ∃ t, exec (.coldReset trainOk testOk) s = .next t ∧ Recovery s t 1) ∧
     (∀ i, Verifies s s.flash.stage1 i → ∃ t, exec (.coldReset trainOk testOk) s = .next t ∧ t.keySlot = i ∧
       t.fwStage1 = s.flash.stage1.version ∧ BroughtUp s t (extendM 0 s.flash.stage1) trainOk testOk) ∧
     ((s.boot = 1 ∨ (s.boot = 2 ∧ s.bootCause ≠ 1 ∧ s.bootCause ≠ 5)) →
       ∃ t, exec (.deviceReset trainOk testOk) s = .next t ∧ BroughtUp s t s.measure1 trainOk testOk) ∧
     ((s.boot = 0 ∨ (s.boot = 2 ∧ (s.bootCause = 1 ∨ s.bootCause = 5))) → exec (.deviceReset trainOk testOk) s = .next s) ∧
     (∀ f, s.boot = 2 → exec (.firmwareUpdate f) s = .next { s with flash := f }) ∧
     (∀ f, s.boot ≠ 2 → exec (.firmwareUpdate f) s = .next s) ∧
     (∀ v a, s.cur = .event .warmRestart v a → s.boot = 1 → 1 ≤ v → v < 256 →
       ((∀ c ∈ s.coresOf v, ∀ r ∈ s.peerReqs, r.core = c → r.acts = false) → ∃ t, exec .warmRestart s = .next t ∧ Restarted s t v) ∧
       ((∃ c, c < 192 ∧ TaskOf s v c ∧ ∃ r ∈ s.peerReqs, r.core = c ∧ r.acts = true) → ∃ t, exec .warmRestart s = .next t ∧ (t.vi v).restart = true ∧
         ((s.vi v).restart = false → (∀ l ∈ t.launches, l.vi ≠ v) ∧ ∀ c, TaskOf s v c → (s.core c).phase = .running → (t.core c).phase = .draining))) ∧
     (s.boot = 1 → (∀ v ∈ s.interfaces, (s.vi v).restart = false) → ∃ t, exec .hotReset s = .next t ∧
       (∀ v ∈ s.interfaces, (∀ l ∈ t.launches, l.vi ≠ v) ∧ ((t.vi v).restart = true ∨ ((t.vi v).run = false ∧ (t.vi v).slots = []))) ∧
       ((∀ r ∈ s.peerReqs, r.acts = false) → (∀ c, t.leaves c = []) ∧ ∀ v ∈ s.interfaces, (t.vi v).restart = false))) ∧
  (∀ (s : State) (u a : Nat),
     (s.cur = .event .einjWrite u a →
       (EinjLegal s u a → ∃ r, HouseRec s (u / 8) r ∧
         let t := houseSpent (s.updCore u (fun k => { k with einj := a % 2 ^ 26 + a / 2 ^ 31 % 2 * 2 ^ 31 })) u r
         exec .einjWrite s = .next t ∧ ∀ v, s.boot = 1 → exec (.regWrite 4 v (0x30018 + 0x40 * u) a) s = .next t) ∧
       (¬EinjLegal s u a → exec .einjWrite s = .next s)) ∧
     (s.cur = .event .atommodeWrite u a →
       exec .atommodeWrite s = .next (s.updSlice u (fun e => if e.heldAdds = [] then { e with atommode := a % 2 } else e))) ∧
     (∀ sector sl, sliceOfPa (32 * sector) = some sl →
       let logged (f : Slice → Slice) : State := s.updSlice sl (fun e => f { e with errlog := e.errlog ++ [toBytes 8 sector] })
       ∃ r, HouseRec s (sl / 3 * 6) r ∧ exec (.patrolScrub sector 0) s = .next (housed s sl r) ∧
         exec (.patrolScrub sector 1) s = .next (housed (logged (fun e => { e with memcorr := e.memcorr + 1 })) sl r) ∧
         exec (.patrolScrub sector 2) s = .next { housed (logged id) sl r with mpoison := s.mpoison.put false sector true }) ∧
     (∀ sl w c area, sl < 12 → w < 4 → c < 256 →
       let n := sl + 16 * w + 64 * c + 2 ^ 14 * area
       let logged := s.updSlice sl (fun e => { e with errlog := e.errlog ++ [toBytes 8 n] })
       let lost (k : Core) : Core := k.updWin w (fun x => { x with st := 2, why := 2 })
       ∃ r, HouseRec s (sl / 3 * 6) r ∧
         (area = 0 → LogMet (s.core c) sl w → exec (.patrolScrub n 3) s = .next ((housed logged sl r).updCore c lost)) ∧
         (area = 0 → ¬LogMet (s.core c) sl w → exec (.patrolScrub n 3) s = .next ((housed logged sl r).updCore c id)) ∧
         ∀ k, area ≠ 0 → (s.phys c).saved.get none (area - 1) = some k → LogMet k sl w →
           exec (.patrolScrub n 3) s = .next ((housed logged sl r).updPhys c (fun p => { p with saved := p.saved.put none (area - 1) (some (lost k)) }))) ∧
     (s.cur = .event .infieldTest u a → (∀ p ∈ s.cores, ∀ f, p.2.k.phase ≠ .ended f) →
       let tested := s.updPhys u (fun p => { p with tested := some (s.core u).tk.prio })
       (¬(u < 192 ∧ s.coremap.testBit u = true) → exec .infieldTest s = .next s) ∧
       (u < 192 → s.coremap.testBit u = true →
         ((s.core u).phase = .free → ∃ r, HouseRec s (u / 8) r ∧
           ((s.phys u).sample2 = none → exec .infieldTest s = .next ((houseSpent s u r).updPhys u (fun p => { p with testDue := false }))) ∧
           ∀ x, (s.phys u).sample2 = some x → r.tstart = x.2 ∧ exec .infieldTest s = .next ((s.updSlice 0 (fun e => { e with erecs := e.erecs ++ [r] })).updPhys u
             (fun p => { p with sample2 := some (s.energyAt (u / 8) (s.tick + 1), r.tend), sets := [s.others u], testDue := false }))) ∧
         ((s.core u).phase = .running → (s.core u).tk.gang = false → exec .infieldTest s =
           .next ((tested.updCore u (fun k => { k with phase := .draining })).updPhys u (fun p => { p with testDue := true }))) ∧
         ((s.core u).phase = .running → ∃ t, exec .infieldTest s = .next t ∧ ∀ d ∈ s.gangCores u,
           ((s.core d).phase = .running ∨ (s.core d).phase = .dispatched) → (t.core d).phase = .draining ∧ (t.phys d).tested = some (s.core d).tk.prio) ∧
         ((s.core u).phase = .dispatched ∨ (s.core u).phase = .draining →
           exec .infieldTest s = .next (s.updPhys u (fun p => { p with testDue := true }))))) ∧
     (s.cur = .event .energyRecordWrite u a → ∀ r rest, s.boot = 1 → (s.slice u).erecs = r :: rest → (s.vi r.vi).erqdepth ≠ 0 → 2 < (s.vi r.vi).evcount →
       let n := (s.counter ((s.vi r.vi).evbase + 2)).toNat
       (n + 2 ^ 64 - (s.vi r.vi).erqrd) % 2 ^ 64 < (s.vi r.vi).erqdepth → Unarmed s ((s.vi r.vi).evbase + 2) →
       exec .energyRecordWrite s = .next
         (let h := (s.updSlice u (fun e => { e with erecs := rest })).hostWrite
           ((s.vi r.vi).erqbase + 32 * (n % (s.vi r.vi).erqdepth)) (toBytes 32 r.bits)
          { h with counters := h.counters.upd 0 ((s.vi r.vi).evbase + 2) (· + 1) })))

/-- 03 R39 to R44, R47, R56: the host's register writes, counter operations, ring control and attestation complete. 03 R43, R44: a counter that reaches an armed wait's threshold fires it once: its value goes to EVMIRBASE + 8i and, with EVVEC bit 6, the vector is signalled; one that reaches an armed trigger adds the amount to the target once. Where this rests on the model's own choices: log 5, 7, 9. -/
def Obligations.HostRegisters : Prop :=
  (∀ (s : State) (v : Nat), s.boot = 1 →
     (∀ off x e, Bar0Form (s.vi v) x off e → exec (.regWrite 0 v off x) s = .next (s.updVi v (fun _ => e))) ∧
     (∀ off x, off ∈ [0x000, 0x038, 0x040, 0x048, 0x068, 0x070, 0x100, 0x180, 0x190] → exec (.regWrite 0 v off x) s = .next s) ∧
     (∀ off x, exec (.regWrite 1 v off x) s = .next (s.updVi v (fun e => { e with vistat := e.vistat ||| 2 })) ∧ exec (.regWrite 3 v off x) s = .next s ∧
       (off % 8 ≠ 0 → ∀ n, n = 0 ∨ n = 2 → exec (.regWrite n v off x) s = .next (s.updVi v (fun e => { e with vistat := e.vistat ||| 2 }))) ∧
       (off % 8 = 0 → exec (.regWrite 2 v off x) s =
         .next (if (s.vi v).evcount ≤ off / 32 then s.updVi v (fun e => { e with vistat := e.vistat ||| 1 }) else s)) ∧
       ∀ t, SvcForm s x off t → exec (.regWrite 4 v off x) s = .next t) ∧
     (∀ a, s.cur = .event .pubctlStart v a → exec .pubctlStart s =
       .next (s.updVi v (fun e => if e.evcount < 4 then { e with cfgerr := true } else { e with run := true, cfgerr := false }))) ∧
     (∀ a, s.cur = .event .pubctlResetring v a → exec .pubctlResetring s =
       .next ((s.dropReqs porterCore v).updVi v (fun e => if e.evcount < 4 then { e with cfgerr := true } else
         { e with run := true, overrun := false, pubrd := (s.counter e.evbase).toNat, cfgerr := false, taken := none }))) ∧
     (∀ off x, off % 8 = 0 → off < 2 ^ 64 → exec (.regWrite 6 v off x) s = .next (s.farWrite hostWords off true (toBytes 8 x))) ∧
     (∀ n, s.cur = .event .attestation v n → n < 128 → exec .attestation s = .next
       (if 16 ≤ n ∧ n ≤ 64 then localAdd (s.hostWrite (s.vi v).attaddr (s.report v n)) v 3 1 else localAdd s v 1 1)) ∧
     ∀ i x, ((s.vi v).evcount ≤ i →
         ∀ op, op ∈ [Instr.hostAdd v i x, .hostWait v i x, .trigt v i x, .arm v i x, .disarm v i x] →
           exec op s = .next (s.updVi v (fun e => { e with vistat := e.vistat ||| 1 }))) ∧
       (i < (s.vi v).evcount →
         let n := (s.vi v).evbase + i
         let b := s.blks.get {} n
         (Unarmed s n → exec (.hostAdd v i x) s = .next (counted s n x s.farKnow)) ∧
         ((s.counter n).toNat < x % 2 ^ 64 →
           exec (.hostWait v i x) s = .next { s with blks := s.blks.put {} n { b with waitArmed := true, waitThr := x % 2 ^ 64 } }) ∧
         (b.trigArmed = false → exec (.trigt v i x) s = .next { s with blks := s.blks.put {} n { b with trigt := x % 2 ^ 64 } }) ∧
         ((s.vi v).evcount ≤ x % 2 ^ 12 → exec (.arm v i x) s = .next (s.updVi v (fun e => { e with vistat := e.vistat ||| 1 }))) ∧
         (x % 2 ^ 12 < (s.vi v).evcount → (s.counter n).toNat < b.trigt → exec (.arm v i x) s =
           .next { s with blks := s.blks.put {} n { b with trigact := x % 2 ^ 12 + x / 2 ^ 32 % 2 ^ 32 * 2 ^ 32, trigArmed := true } }) ∧
         exec (.disarm v i x) s =
           .next { s with blks := s.blks.put {} n { b with trigact := x % 2 ^ 12 + x / 2 ^ 32 % 2 ^ 32 * 2 ^ 32, trigArmed := false } })) ∧
  (∀ (s : State) (n x v i : Nat), s.evOwner n = some (v, i) →
     let b := s.blks.get {} n
     let new := s.counter n + ofN x
     (b.waitArmed = true → b.trigArmed = false → b.waitThr ≤ new.toNat →
       let t := s.evAdd n x
       t.counter n = new ∧ t.blks.get {} n = { b with waitArmed := false } ∧
       t.hostMem.num ((s.vi v).evmirbase + 8 * i) 8 = new.toNat ∧
       t.msix = s.msix ++ (if (s.vi v).evvec.testBit 6 then [(v, (s.vi v).evvec % 64)] else [])) ∧
     (b.waitArmed = false → b.trigArmed = true → b.trigt ≤ new.toNat →
       let m := (s.vi v).evbase + b.trigact % 4096
       m ≠ n → Unarmed s m →
       let t := s.evAdd n x
       t.counter n = new ∧ t.counter m = s.counter m + ofN (b.trigact / 2 ^ 32) ∧ t.blks.get {} n = { b with trigArmed := false } ∧
       ∀ k, k ≠ n → k ≠ m → t.counter k = s.counter k))

/-- 03 R45 to R50, R52 to R54; 11 R236; 05 R86: the entries that Porter carries out complete, each with its status record; a LOAD that passes every check binds its image, page by page with the bytes of its segments, in frames that were free; an accepted LAUNCH joins the unfinished ones, and the page of its parameter copy, which no other of its slot has, holds the block; a ring that is overrun stops. 03 R51, R60: the privileged commands on interface 0's ring complete with their one effect and status OK, or are refused with BADARG. Where this rests on the model's own choices: log 5, 12, 20, 21, 23, 43. -/
def Obligations.RingCommands : Prop :=
  (∀ (s : State) (v a e : Nat),
     (EntryAt s v e 4 → s.cur = .event .nopEntry v a → exec .nopEntry s = .next (consumed s v e 0)) ∧
     (∀ k, EntryAt s v e k → (k = 0 ∨ 0x18 < k ∨ (4 < k ∧ k < 0x10) ∨ (4 < k ∧ v ≠ 0)) → s.cur = .event .reservedKindEntry v a →
       exec .reservedKindEntry s = .next (consumed s v e 1)) ∧
     (EntryAt s v e 3 → s.cur = .event .unload v a →
       let im := (s.vi v).slots.get {} (entrySlot e)
       (im.st ≠ 1 → exec .unload s = .next (consumed s v e 6)) ∧
       (im.st = 1 → (∃ l ∈ s.launches, l.vi = v ∧ l.slot = entrySlot e) → exec .unload s =
         .next (consumed (s.updVi v (fun w => { w with slots := w.slots.upd {} (entrySlot e) (fun im => { im with st := 2 }) })) v e 0)) ∧
       (im.st = 1 → (∀ l ∈ s.launches, ¬(l.vi = v ∧ l.slot = entrySlot e)) →
         ∃ b, exec .unload s = .next (consumed b v e 0) ∧ ((b.vi v).slots.get {} (entrySlot e)).st = 0)) ∧
     (EntryAt s v e 1 → s.cur = .event .load v a →
       (∀ code, LoadFails s v e code → exec .load s = .next (consumed s v e code)) ∧
       ∀ k set, LoadOk s v e k set → Store.wf (0, 0) s.frames = true →
         let file := s.hostMem.part (entryAddr e) (entryLen e)
         let bind := s.bind v (entrySlot e) (entryCtx e) file k set
         (bind = none → exec .load s = .next (consumed s v e 0xD)) ∧
         ∀ b, bind = some b → exec .load s = .next (consumed b v e 0) ∧ b.launches = s.launches ∧ b.hostMem = s.hostMem ∧ ∃ bound,
           (b.vi v).slots.get {} (entrySlot e) = { st := 1, ctx := entryCtx e, claims := claimsOf k.claims, recs := k.recs, templates := k.templates
                                                   inputs := k.inputs, paramVa := k.paramVa, coreSet := set, pages := k.pages, bound := bound } ∧
           LaidOut b.mem file k.paramVa k.segs bound ∧ (bound.map (·.2)).Nodup ∧
           ∀ p ∈ bound, (s.frames.get (0, 0) p.2).1 = 0 ∧ b.frames.get (0, 0) p.2 = (v + 1, entryCtx e + 1)) ∧
     (EntryAt s v e 2 → s.cur = .event .launch v a →
       (16 ≤ unfinished s v e → exec .launch s = .next (s.updVi v (fun w => { w with taken := some (e, none) }))) ∧
       (∀ code, LaunchFails s v e code → unfinished s v e < 16 → exec .launch s = .next (consumed s v e code)) ∧
       ∀ block recs, LaunchOk s v e block recs → ∃ b l, exec .launch s = .next (consumed b v e 0) ∧
         b = { s.dropReqs porterCore v with
           mem := b.mem, hist := b.hist, mpoison := b.mpoison, cores := b.cores, launches := s.launches ++ [l], nextLaunch := s.nextLaunch + 1
           itemKnow := joinKnow s.itemKnow (s.evKnow.get [] (s.vi v).evbase) } ∧
         (∀ c, b.core c = s.core c) ∧ l.paramCopy < 16 ∧ (∀ m ∈ s.launches, m.vi = v → m.slot = entrySlot e → m.paramCopy ≠ l.paramCopy) ∧
         (let im := (s.vi v).slots.get {} (entrySlot e)
          ∀ f, im.bound.find? (fun p => p.1 == im.paramVa) = some (im.paramVa, f) →
            let copy := f * 65536 + 4096 * l.paramCopy
            (∀ i, i < 4096 → b.mem.read (copy + i) = block.getD i 0) ∧ ∀ m, m < copy ∨ copy + 4096 ≤ m → b.mem.read m = s.mem.read m) ∧
         l.id = s.nextLaunch ∧ l.vi = v ∧ l.slot = entrySlot e ∧ l.prio = e / 2 ^ 166 % 4 ∧ l.doneev = e / 2 ^ 180 % 2 ^ 12 ∧
         l.doneval = e / 2 ^ 192 % 2 ^ 64 ∧ l.recs = recs ∧ l.running = [] ∧ l.faulted = false) ∧
     (s.boot = 1 → (s.vi v).run = true → (s.vi v).restart = false → (s.vi v).taken = none → (s.vi v).pubdepth < s.behind v → s.cur = .event .overrun v a →
       ∃ t, exec .overrun s = .next t ∧ (t.vi v).run = false ∧ (t.vi v).overrun = true ∧ (t.vi v).pubrd = (s.vi v).pubrd ∧
         t.hostMem.num ((s.vi v).statbase + 16 * ((s.vi v).pubrd % (s.vi v).pubdepth)) 16 = 0xC + (s.vi v).pubrd % 2 ^ 48 * 2 ^ 16)) ∧
  (∀ (s : State) (u e kind : Nat) (i : Instr), EntryAt s 0 e kind → s.cur = .event i 0 u →
     (∀ b, CmdForm s (cmdArg e) i kind b → exec i s = .next (consumed b 0 e 0)) ∧
     (CmdRefused s (cmdArg e) i kind → exec i s = .next (consumed s 0 e 0xA)))

/-- 01 R16 to R18, R20, R23: a port takes flits, asks for replays, sends them, trains, and gives up requests on a link that is down; each step completes with exactly its effect. 01 R17, R22; 07 R165; 08 R178: a peer's command completes here with its effect and its answer, a refused one with an error response and no effect, a read of one run of addresses as a whole, and a response ends the request whose tag it carries. Where this rests on the model's own choices: log 7, 10, 15, 16, 29, 39. -/
def Obligations.Links : Prop :=
  (∀ (s : State) (p : Nat) (a : Arrival),
     let f := a.flit
     let u := s.updPort p (fun e => { e with feccorr := min (e.feccorr + a.corrected) (2 ^ 32 - 1) })
     ((s.port p).state ≠ 2 → exec (.flitReceive p a) s = .next s) ∧
     ((s.port p).state = 2 → f.crc ≠ Config.crc64 (flitBody f) → ∃ t, exec (.flitReceive p a) s = .next t ∧
       Handed (u.updPort p (fun e => { e with crcerr := bump e.crcerr })) t p
         { hdr := 4 + f.hdr / 2 ^ 20 % 4096 * 2 ^ 8 + s.devid * 2 ^ 20 + ((s.port p).rxseq + 1) % 4096 * 2 ^ 32 + 31 * 2 ^ 82 }) ∧
     ((s.port p).state = 2 → f.crc = Config.crc64 (flitBody f) → ∃ e, Heard (u.port p) e f ∧
       let v := u.updPort p (fun _ => e)
       let w := v.updPort p (fun e => { e with rxseq := seqOf f, owed := e.owed.upd 0 (f.hdr / 2 ^ 56 % 8) (· + 1) })
       (f.hdr % 256 = 1 → seqOf f ≠ ((s.port p).rxseq + 1) % 4096 → exec (.flitReceive p a) s = .next v) ∧
       (f.hdr % 256 = 1 → seqOf f = ((s.port p).rxseq + 1) % 4096 → LegalFlit f → ∃ t, exec (.flitReceive p a) s = .next t ∧
         Routed w { w with rx := s.rx ++ (validSlots f).map (commandOf f) } p f t) ∧
       (f.hdr % 256 = 1 → seqOf f = ((s.port p).rxseq + 1) % 4096 → ¬LegalFlit f → ∃ t, exec (.flitReceive p a) s = .next t ∧ Discarded w t p f) ∧
       (f.hdr % 256 = 2 ∨ f.hdr % 256 = 3 → ∃ t, exec (.flitReceive p a) s = .next t ∧ Routed v v p f t) ∧
       (f.hdr % 256 = 4 →
         let act : State := { v with agenda := s.agenda ++ [.event .replayRequest p (seqOf f)] }
         ((∃ g ∈ (s.port p).unacked, seqOf g = seqOf f) → exec (.flitReceive p a) s = .next act) ∧
         ((∀ g ∈ (s.port p).unacked, seqOf g ≠ seqOf f) → ∃ t, exec (.flitReceive p a) s = .next t ∧ Routed v act p f t)) ∧
       (f.hdr % 256 = 0 ∨ 4 < f.hdr % 256 → ∃ t, exec (.flitReceive p a) s = .next t ∧ Discarded v t p f))) ∧
  (∀ (s : State) (p : Nat) (ok : Bool) (lanes : Nat),
     ((s.port p).state = 0 → exec (.retrain p ok lanes) s = .next { s.updPort p (fun e => { e with state := 1, retrains := e.retrains + 1 }) with
       agenda := s.agenda ++ [.event (.retrain p ok lanes) 0 0] }) ∧
     ((s.port p).state = 1 → ∃ t, exec (.retrain p true lanes) s = .next t ∧ Each (fun s t f => Handed s t p f)
       { s.updPort p (fun e => { e with state := 2, width := if lanes = 4 then 4 else 8, retrains := 0, rpcount := 0, waiting := [] }) with
         tx := s.tx ++ (s.port p).unacked.map (fun g => (p, g)) } t (s.port p).waiting) ∧
     ((s.port p).state = 1 → exec (.retrain p false lanes) s = .next (s.updPort p (fun e =>
       if 3 ≤ e.retrains then { e with state := 3, width := 0 } else { e with state := 0, width := 0, downcnt := bump e.downcnt, rpcount := 0 }))) ∧
     (2 ≤ (s.port p).state → exec (.retrain p ok lanes) s = .next s) ∧
     (∀ seq, s.cur = .event .replayRequest p seq →
       ((s.port p).state ≠ 2 → exec .replayRequest s = .next s) ∧
       ((s.port p).state = 2 → (s.port p).rpseq = seq → 8 ≤ (s.port p).rpcount → exec .replayRequest s = .next (s.updPort p (fun e =>
         { e with state := 0, width := 0, downcnt := bump e.downcnt, rpcount := 0 }))) ∧
       ∀ pre post, (s.port p).state = 2 → ¬((s.port p).rpseq = seq ∧ 8 ≤ (s.port p).rpcount) → (s.port p).unacked = pre ++ post →
         (∀ g ∈ pre, seqOf g ≠ seq) → (∀ g ∈ post.head?, seqOf g = seq) → exec .replayRequest s = .next
           { s.updPort p (fun e => { e with replay := bump e.replay, rpseq := seq, rpcount := (if e.rpseq = seq then e.rpcount else 0) + 1 }) with
             tx := s.tx ++ post.map (fun g => (p, g)) }) ∧
     (∀ tag pre q post, s.cur = .event .peerLinkDown tag 0 → s.peerReqs = pre ++ q :: post → q.tag = tag → q.res = .open →
       (∀ r ∈ pre, ¬(r.tag = tag ∧ r.res = .open)) →
       let begun := ∃ r ∈ s.peerReqs, r.core = q.core ∧ r.agent = q.agent ∧ Acted r
       (q.port = 0 → exec .peerLinkDown s = .next s) ∧
       (q.port = p + 1 → (s.port p).state = 1 ∨ (s.port p).state = 2 ∨ begun → exec .peerLinkDown s = .next s) ∧
       (q.port = p + 1 → (s.port p).state = 0 ∨ (s.port p).state = 3 → ¬begun →
         let tags := tag :: ((((s.port p).waiting ++ (s.port p).unacked).filter (waitsFor s.devid tag)).flatMap (fun f => (validSlots f).map (fun i => (commandOf f i).tag)))
         exec .peerLinkDown s = .next (State.updPort
           { s with peerReqs := s.peerReqs.map (fun r => if r.tag ∈ tags ∧ r.res = .open then { r with res := .err .peerLinkDown } else r) } p
           (noLonger · (waitsFor s.devid tag))))) ∧
     ∀ u pre f post, s.cur = .event .peerLinkDown u (p + 1) → (s.port p).unacked ++ (s.port p).waiting = pre ++ f :: post → PassesOn s.devid f →
       (∀ g ∈ pre, ¬PassesOn s.devid g) →
       ((s.port p).state = 1 ∨ (s.port p).state = 2 → exec .peerLinkDown s = .next s) ∧
       ((s.port p).state = 0 ∨ (s.port p).state = 3 → ∃ t, exec .peerLinkDown s = .next t ∧
         Each (fun s t c => Answered s t c 0x0F 0) (s.updPort p (noLonger · (· == f))) t ((validSlots f).map (commandOf f)))) ∧
  (∀ (s : State) (c : PeerCmd) (r : List PeerCmd) (i : Instr), s.rx = c :: r →
     (∀ run rest, c.op = 0x01 → r = run ++ rest → OneRead c run → Alone (run.getLastD c) rest →
       ∃ t, exec .peerRead s = .next t ∧ Each ReadAnswered { s with rx := rest } t (c :: run)) ∧
     (∀ op u rop data, PeerForm { s with rx := r } c i op u rop data → c.op = op → (i = .peerRead → Alone c r) →
       ∃ t, exec i s = .next t ∧ Answered u t c rop data) ∧
     (∀ op, PeerRefused { s with rx := r } c i op → c.op = op → (i = .peerRead → Alone c r) →
       ∃ t, exec i s = .next t ∧ Answered { s with rx := r } t c 0x0F 0) ∧
     ∀ op e, ResponseForm c i op e → c.op = op → exec i s = .next { s with
       rx := r, peerReqs := s.peerReqs.map (fun q => if q.tag = c.tag ∧ q.dev = c.src ∧ q.res = .open then { q with res := e } else q) }) ∧
  (∀ (s : State) (pa n : Nat), FarAcquired s (s.farAcquire pa n) pa n) ∧
  ∀ (s : State) (pa : Nat) (bs : List Byte) (rel : Bool), bs ≠ [] → pa + bs.length ≤ 8 * hostWords →
    HomeWritten s (s.homeWrite pa bs) pa bs { pubs := [(4, 0)], strong := true } ∧
    let know := s.farKnow.put 0 192 (s.farKnow.get 0 192 + 1)
    HomeWritten { s with farKnow := know } (s.peerWrite pa rel bs) pa bs
      { far := true, pubs := [(4, s.farKnow.get 0 192 + 1)], strong := true, rel := if rel then some (4, know) else none }

/-- 04 R69, R71 to R73: page walks end, and the host's answers, page responses, time limits, capability writes and invalidations complete. Where this rests on the model's own choices: log 27, 32, 44. -/
def Obligations.HostTranslation : Prop :=
  ∀ (s : State) (u a : Nat),
    (∀ w, s.walks[u]? = some w → s.cur = .event .tableWalk u a →
      let keep (n : Nat) (l : List Tlb) : List Tlb := (l ++ [walked w]).drop (l.length + 1 - n)
      let b : State := { s with walks := s.walks.eraseIdx u }
      exec .tableWalk s = .next (
        if w.cache = 0 then b.updPhys w.core (fun p => { p with itlb := keep 16 p.itlb })
        else if w.cache = 1 then b.updPhys w.core (fun p => { p with dtlb := keep 128 p.dtlb })
        else { b with ctlb := s.ctlb.upd [] (w.core / 4) (keep 256) })) ∧
    (∀ v ats pri, ∃ t, exec (.atsPriCapabilityWrite v ats pri) s = .next t ∧ PagesSent
      (s.updVi v (fun e => { e with atsOff := !(ats && pri.on), priFail := e.priFail && !pri.on, priAlloc := pri.alloc })) t) ∧
    (∀ pasid page size haddr r w,
      let mine (q : AtsReq) : Prop := q.pasid = pasid ∧ q.page = page ∧ (q.st = 0 ∨ q.st = 4)
      let given (q : AtsReq) : Prop := (q.write = true ∧ w = true) ∨ (q.write = false ∧ r = true)
      let e : Tlb := { id := pasid, va := page / max size 4096 * max size 4096, size := max size 4096, ent := r.toNat + 2 * w.toNat + haddr / 4096 * 4096 }
      let atc := if r ∨ w then (s.atc ++ [e]).drop (s.atc.length + 1 - 16384) else s.atc
      ∃ (t : State) (next : AtsReq → List AtsReq) (kept : List OldAtc), exec (.translationCompletion pasid page size haddr r w) s = .next t ∧
        KeptFor s none (· ∉ atc) kept ∧
        PagesSent { s with atc := atc, oldAtc := s.oldAtc ++ kept, atsReqs := s.atsReqs.flatMap next } t ∧
        ∀ q, (¬mine q → next q = [q]) ∧ (mine q → given q → next q = []) ∧ (mine q → ¬given q → next q = [Denied s q])) ∧
    (∀ i pasid page code, (i = .pageRequestGroupResponse pasid page code ∨ (i = .priTimeout ∧ code = 1 ∧ s.cur = .event .priTimeout pasid page)) →
      ∃ t, exec i s = .next t ∧ t = { s with cores := t.cores, atsReqs := t.atsReqs, vis := t.vis } ∧
        (∀ v, (t.vi v).priFail = true ↔ (s.vi v).priFail = true ∨ (2 ≤ code ∧ ∃ p ∈ s.ctxs, p.2.live = true ∧ p.2.pasid = pasid ∧ p.2.vi = v)) ∧
        ((∀ q ∈ s.atsReqs, ¬(q.pasid = pasid ∧ q.page = page ∧ q.st = 2)) → t.cores = s.cores ∧ t.atsReqs = s.atsReqs) ∧
        ((∃ q ∈ s.atsReqs, q.pasid = pasid ∧ q.page = page ∧ q.st = 2) →
          PagesSent { s with
            cores := t.cores
            atsReqs := s.atsReqs.flatMap (fun q => if q.pasid = pasid ∧ q.page = page ∧ q.st = 2 then
              (if q.core = noCore then [] else [{ q with st := if code = 0 then 4 else 3 }]) else [q]) }
            { s with cores := t.cores, atsReqs := t.atsReqs } ∧
          ∀ c, (s.core c).task.isSome = true → (s.ctx (s.core c).tk.ctx).pasid = pasid →
            (∀ x tval epc va, (s.cx c x).wait = .fault .hostNotPresent tval epc va → va / 4096 * 4096 = page →
              t.cx c x = { s.cx c x with wait := .none } ∧ ∀ d ∈ (t.core c).deliveries, d.x = x → d.ready = true) ∧
            (∀ m va, ((s.core c).ring m).held = some (.hostNotPresent, va) → va / 4096 * 4096 = page →
              (t.core c).ring m = { (s.core c).ring m with held := none }) ∧
            ∀ n va, ((s.core c).chan.get {} n).recorded = true → ((s.core c).chan.get {} n).stopped = some (.hostNotPresent, va) →
              va / 4096 * 4096 = page → (t.core c).chan.get {} n = { (s.core c).chan.get {} n with stopped := none, recorded := false })) ∧
    (∀ pasid base size,
      let hit (e : Tlb) : Bool := e.id == pasid && decide (e.va < base + size ∧ base < e.va + e.size)
      ∃ t kept, exec (.invalidateRequest pasid base size) s = .next t ∧ KeptFor s (some s.tick) (hit · = true) kept ∧ t = { s with
        cores := t.cores
        atc := s.atc.filter (fun e => !hit e)
        oldAtc := s.oldAtc.map (fun o => if hit o.ent = true ∧ o.mark = none then { o with mark := some s.tick } else o) ++ kept
        invals := s.invals ++ [(pasid, s.tick)] } ∧
      ∀ c n, t.phys c = { s.phys c with k := { s.core c with chan := (t.core c).chan } } ∧
        let marked (l : Line) : Line :=
          if (s.core c).task.isSome = true ∧ (s.ctx (s.core c).tk.ctx).pasid = pasid ∧ ∃ p ∈ l.dst.getD [], p.2.1 < base + size ∧ base < p.2.1 + p.2.2
          then { l with marks := l.marks ++ [s.tick] } else l
        let h := (s.core c).chan.get {} n
        (t.core c).chan.get {} n = { h with flight := h.flight.map marked, kept := h.kept.map marked }) ∧
    ((∀ q ∈ s.invals, UnderWay s q.2) → exec .invalidationCompletion s = .next s) ∧
    ∀ pre q post, s.invals = pre ++ q :: post → (∀ r ∈ pre, UnderWay s r.2) → ¬UnderWay s q.2 →
      ∃ t, exec .invalidationCompletion s = .next t ∧
        t = { s with cores := t.cores, hostMem := t.hostMem, hist := t.hist, mpoison := t.mpoison, farKnow := t.farKnow, invals := pre ++ post } ∧
        (∀ c, ∀ x ∈ (t.phys c).dirty, x.word < hostWords) ∧
        (Store.wf {} s.cores = true →
          (∀ c, (t.phys c).dirty = (s.phys c).dirty.filter (fun x => decide (x.word < hostWords))) ∧
          t.hostMem = (s.cores.flatMap (fun p => p.2.dirty.filter (fun x => decide (hostWords ≤ x.word)))).foldl
            (fun m x => m.writeBytes (8 * (x.word - hostWords) + x.off) x.bs) s.hostMem)

/-- 04 R75 to R78; 06 R128; 10 R209; 13 R294, R297: a resolved fault lets its agent go on, one that is not resolved and a wait that has run out fault, and the main context takes an engine fault. Where this rests on the model's own choices: log 32, 44. -/
def Obligations.WaitsEnd : Prop :=
  ∀ (s : State) (c n : Nat),
    (∀ cause tval epc va, n < 3 → (s.cx c n).wait = .fault cause tval epc va →
      exec (.faultResume c n true) s = .next (s.updCore c (fun k => { k with
        deliveries := k.deliveries.filter (fun d => !(d.x == n && !d.ready)), cx := k.cx.upd {} n (fun q => { q with wait := .none }) })) ∧
      ((s.core c).trapEnds n cause = false → exec (.faultResume c n false) s = .next ((s.dropReqs c n).updCore c (fun k => { k with
        deliveries :=
          if ∃ d ∈ k.deliveries, d.x = n ∧ d.ready = false then k.deliveries.map (fun d => if d.x = n then { d with ready := true } else d)
          else k.deliveries ++ [{ x := n, cause := cause, tval := tval, epc := epc }]
        cx := k.cx.upd {} n (fun q => { q with wait := .delivery, slot := false }) }))) ∧
      ((s.core c).trapEnds n cause = true → ∃ t, exec (.faultResume c n false) s = .next t ∧ (t.core c).phase = .ended true ∧ t.faults = s.faults)) ∧
    (∀ m cause tval w, ((s.core c).ring m).held = some (cause, tval) → ((s.core c).ring m).word = some w → (s.cx c 0).live = true →
      exec (.faultResume c (if m then 4 else 3) true) s = .next (s.updCore c (fun k =>
        if m then { k with mat := { k.mat with held := none } } else { k with row := { k.row with held := none } })) ∧
      ∃ t, exec (.faultResume c (if m then 4 else 3) false) s = .next t ∧ t.faults = s.faults ∧ (t.core c).ring m = { (s.core c).ring m with
        rd := ((s.core c).ring m).rd - 1, word := none, halted := true, held := none, emptyAt := none, logWait := false, walked := [] }) ∧
    (∀ cause tval, n < 16 → ((s.core c).chan.get {} n).stopped = some (cause, tval) →
      (((s.core c).chan.get {} n).recorded = false → ∀ ok, exec (.faultResume c (16 + n) ok) s = .next s) ∧
      (((s.core c).chan.get {} n).recorded = true →
        exec (.faultResume c (16 + n) true) s =
          .next (s.updCore c (fun k => { k with chan := k.chan.upd {} n (fun h => { h with stopped := none, recorded := false }) })) ∧
        exec (.faultResume c (16 + n) false) s = .next ((s.dropReqs c (16 + n)).updCore c (fun k =>
          { k with chan := k.chan.upd {} n (fun h => { h with stopped := none, failed := some cause, slot := false }) })))) ∧
    (∀ l, s.cur = .event .stalledOnEmpty c n →
      (n < 3 → (s.cx c n).emptyAt = some l →
        ∃ t, exec .stalledOnEmpty s = .next t ∧ Trapped s t c n .stalledOnEmpty ((s.cx c n).emptyFor.getD l) (s.cx c n).pc.toNat) ∧
      (∀ m w, n = (if m then 4 else 3) → ((s.core c).ring m).emptyAt = some l → ((s.core c).ring m).word = some w → (s.cx c 0).live = true →
        ∃ t, exec .stalledOnEmpty s = .next t ∧ RingFailed s t c m .stalledOnEmpty l w) ∧
      (∀ ch, n = 16 + ch → ((s.core c).chan.get {} ch).emptyAt = some l → exec .stalledOnEmpty s = .next ((s.dropReqs c n).updCore c (fun k =>
        { k with chan := k.chan.upd {} ch (fun h => { h with failed := some .stalledOnEmpty, emptyAt := none, slot := false }) })))) ∧
    (∀ w, s.cur = .event .windowLogWaitTimeout c n →
      (n < 3 → (s.cx c n).logWait = true → (s.cx c n).window = some w →
        ∃ t, exec .windowLogWaitTimeout s = .next t ∧ Trapped s t c n .windowLimit w (s.cx c n).pc.toNat) ∧
      (∀ m wd j, n = (if m then 4 else 3) → ((s.core c).ring m).logWait = true → ((s.core c).ring m).word = some wd →
        ((s.core c).ring m).tags.get none (((s.core c).ring m).rd - 1) = some (w, j) → (s.cx c 0).live = true →
        ∃ t, exec .windowLogWaitTimeout s = .next t ∧ RingFailed s t c m .windowLimit w wd) ∧
      (∀ ch, n = 16 + ch → ((s.core c).chan.get {} ch).logWait = true → exec .windowLogWaitTimeout s = .next ((s.dropReqs c n).updCore c (fun k =>
        { k with chan := k.chan.upd {} ch (fun h => { h with failed := some .windowLimit, emptyAt := none, slot := false }) })))) ∧
    ∀ v r, s.cur = .event .engineFault c n → (s.core c).engineTraps = v :: r →
      let open_ := (∀ q ∈ s.peerReqs, ¬(q.core = c ∧ q.agent = 0 ∧ q.acts = true)) ∧
        ((s.cx c 0).wait = .none ∨ ∃ b, (s.cx c 0).wait = .service b)
      (open_ → ∃ t, exec .engineFault s = .next t ∧
        Trapped (s.updCore c (fun k => { k with engineTraps := r })) t c 0 .engineFault v (s.cx c 0).pc.toNat ∧
        ∀ q ∈ t.requests, ¬(q.core = c ∧ q.x = 0 ∧ (s.core c).isTask q.launch q.item = true)) ∧
      (¬open_ → exec .engineFault s = .next s)

/-- 05 R87 to R92, R95, R105: the walker of a die places the next item on the lowest free core of the set, and where none is free asks for the pre-emption of the core with the lowest priority, whose drain then begins; it places items on free cores alone. An item that its launch records takes the next place of the trace as it is dispatched. Where this rests on the model's own choices: log 2, 21, 28. -/
def Obligations.ItemsDispatched : Prop :=
  ∀ (s : State) (u : Nat),
    (NoneEnded s → s.launches = [] → exec .dispatch s = .next s) ∧
    (NoneEnded s → ∃ t, exec .dispatch s = .next t ∧
      t = { s with cores := t.cores, launches := t.launches, agenda := t.agenda, hostMem := t.hostMem, hist := t.hist } ∧
      ∀ c, t.phys c = s.phys c ∨ ((s.core c).phase = .free ∧ ∃ k, t.core c = { s.core c with task := some k, phase := .dispatched } ∧
        ∃ l ∈ s.launches, k.launch = l.id ∧ k.vi = l.vi ∧ k.slot = l.slot ∧ k.ctx = l.ctx ∧ k.prio = l.prio)) ∧
    ∀ l o sp i j set, NextItem s l o sp i j set →
      (∀ pre c post, set = pre ++ c :: post → FreeFor s l c → (∀ d ∈ pre, ¬FreeFor s l d) →
        ∃ k, ItemTask s l o sp i j k ∧ exec .dispatch s = .next (((traceTaken s l).updLaunch l.id (fun m => { m with
          sent := m.sent ++ [j], running := m.running ++ [{ core := c, j := j, inner := 0 }]
          replay := m.replay.filter (fun r => r.item != k.item) })).updCore c (fun q => { q with task := some k, phase := .dispatched }))) ∧
      (∀ pre c post, set = pre ++ c :: post → (∀ d ∈ set, ¬FreeFor s l d ∧ (s.core d).phase ≠ .draining) →
        let able (d : Nat) : Prop := (s.core d).phase = .running ∧ (s.core d).tk.prio < l.prio
        able c → (∀ d ∈ pre, able d → (s.core c).tk.prio < (s.core d).tk.prio) → (∀ d ∈ post, able d → (s.core c).tk.prio ≤ (s.core d).tk.prio) →
        (Agent.event .preemption c 0 ∉ s.agenda → exec .dispatch s = .next { s with agenda := s.agenda ++ [.event .preemption c 0] }) ∧
        ((s.core c).tk.gang = false → exec .preemption { s with cur := .event .preemption c u } =
          .next ({ s with cur := .event .preemption c u }.updCore c (fun k => { k with phase := .draining }))))

/-- 05 R89, R90, R105; 03 R55; 06 R114: an item starts with the state R89 lists and a view of memory that is current, and writes its record in the trace where it has a place; it ends with its stores performed. Where this rests on the model's own choices: log 7, 21. -/
def Obligations.ItemsStartAndEnd : Prop :=
  ∀ (s : State) (c a : Nat),
    (s.cur = .event .itemStart c a → (s.core c).phase = .dispatched →
      ∃ t, exec .itemStart s = .next t ∧ ItemState (s.core c) (t.core c) ∧
        t = { s with cores := t.cores, slices := t.slices, hostMem := t.hostMem, hist := t.hist, clusters := t.clusters } ∧
        Current (s.learn c s.itemKnow) t c ∧ (∀ n, n ≠ c → t.core n = s.core n) ∧
        ((s.core c).tk.traceAt = none → t.hostMem = s.hostMem ∧ t.hist = s.hist) ∧
        ∀ n l, (s.core c).tk.traceAt = some n → s.launches.find? (·.id == (s.core c).tk.launch) = some l →
          t.hostMem.num (l.traceAddr + 1152 + 16 * n) 16 =
            ((s.core c).tk.vcore + c * 2 ^ 24 + (s.core c).tk.item * 2 ^ 32 + s.cycleAt (c / 8) s.tick * 2 ^ 64) % 2 ^ 128) ∧
    (s.cur = .event .completionEvent c a → ItemComplete (s.core c) →
      ∃ t, exec .completionEvent s = .next t ∧ (t.core c).phase = .ended false ∧
        t = { s with
          mem := t.mem, hostMem := t.hostMem, hist := t.hist, mpoison := t.mpoison, cores := t.cores, itemKnow := t.itemKnow, farKnow := t.farKnow
          seqs := t.seqs, peerReqs := t.peerReqs, requests := t.requests, oldLeaves := t.oldLeaves, oldAtc := t.oldAtc, atsReqs := t.atsReqs } ∧
        Performed s t c ∧ (∀ d, (t.phys c).know.get 0 d ≤ t.itemKnow.get 0 d ∧ s.itemKnow.get 0 d ≤ t.itemKnow.get 0 d) ∧
        (t.core c).spad = (s.core c).spad ∧ (t.core c).tiles = (s.core c).tiles ∧ (t.core c).acc = (s.core c).acc ∧
        ∀ n, n ≠ c → t.phys n = s.phys n)

/-- 05 R93, R105; 13 R282: a finished launch applies its held adds in their order, and then ends: its trace takes its count, the error counter counts a fault, DONEEV gains DONEVAL, and a draining slot becomes free. -/
def Obligations.LaunchesEnd : Prop :=
  ∀ (s : State) (l : Launch) (pre post : List Launch) (a : Nat), NoneEnded s → s.launches = pre ++ l :: post →
    (∀ m ∈ pre ++ post, m.id ≠ l.id) → l.recs.length ≤ l.ri →
    (s.cur = .event .orderedFaddApply l.id a → ∃ (t : State) (order : List HeldFadd), exec .orderedFaddApply s = .next t ∧
      order.Perm (s.slices.flatMap (fun p => p.2.heldAdds.filter (·.launch == l.id))) ∧ order.Pairwise HeldInOrder ∧
      t = { s with slices := t.slices, mem := t.mem, hist := t.hist, mpoison := t.mpoison, hostMem := t.hostMem } ∧
      ((∀ h ∈ order, h.addr + h.n ≤ 8 * hostWords) → t.hostMem = s.hostMem ∧ ∀ b, t.mem.read b =
        (order.foldl (fun (m : Memory) (h : HeldFadd) => m.setNum h.addr h.n (faddAt m h.addr h.n h.x)) s.mem).read b) ∧
      ∀ n, ∀ h ∈ (t.slice n).heldAdds, h.launch ≠ l.id) ∧
    (s.cur = .event .launchEnd l.id a → (∀ p ∈ s.slices, ∀ h ∈ p.2.heldAdds, h.launch ≠ l.id) →
      let ev := (s.vi l.vi).evbase
      Unarmed s (ev + 1) → Unarmed s (ev + l.doneev) →
      let u := if l.flags.testBit 0 then s.hostWrite (l.traceAddr + 8) (toBytes 8 l.traced) else s
      let knows (m : Store (Store Nat)) (n : Nat) : Store (Store Nat) := m.upd [] n (joinKnow · s.itemKnow)
      let base : State := { u with
        launches := pre ++ post
        evKnow := knows (if l.faulted then knows s.evKnow (ev + 1) else s.evKnow) (ev + l.doneev)
        counters := (if l.faulted then s.counters.upd 0 (ev + 1) (· + 1) else s.counters).upd 0 (ev + l.doneev) (· + ofN l.doneval) }
      let im := (s.vi l.vi).slots.get {} l.slot
      let other := ∃ m ∈ pre ++ post, m.vi = l.vi ∧ m.slot = l.slot
      ((im.st ≠ 2 ∨ other) → exec .launchEnd s = .next base) ∧
      (im.st = 2 → ¬other → ∃ t, exec .launchEnd s = .next t ∧ t.launches = base.launches ∧ t.counters = base.counters ∧
        ((t.vi l.vi).slots.get {} l.slot) = {}))

/-- 05 R95, R96, R98, R100: a drained task is saved with its registers, its stores performed and a word it abandons as not begun; it returns to the core it left, and a gang returns whole. Where this rests on the model's own choices: log 28. -/
def Obligations.SavesAndReturns : Prop :=
  ∀ (s : State) (c a : Nat),
    (s.cur = .event .preemptionSave c a → (s.core c).phase = .draining → (s.vi (s.core c).tk.vi).restart = false → (s.core c).mat.word = none → (s.core c).followGo = false →
      (∀ p ∈ (s.core c).chan, p.2.flight = []) → (∀ q ∈ s.peerReqs, ¬(q.core = c ∧ q.acts = true)) →
      ((s.core c).row.word = none ∨ (s.core c).row.held.isSome = true ∨ ((s.core c).row.held = none ∧ (s.core c).row.emptyAt.isSome = true ∧
        ∀ q ∈ s.peerReqs, ¬(q.core = c ∧ q.agent = 3))) →
      ∃ t k, exec .preemptionSave s = .next t ∧ (t.phys c).saved.get none (s.core c).tk.prio = some k ∧
        (t.core c).phase = .free ∧ (t.core c).task = none ∧ (t.core c).holder = (s.core c).holder ∧
        Performed s t c ∧ k.task = (s.core c).task ∧ k.phase = .running ∧ k.spad = (s.core c).spad ∧ k.tiles = (s.core c).tiles ∧ k.q = (s.core c).q ∧
        k.fpflags = (s.core c).fpflags ∧ k.tvec = (s.core c).tvec ∧ k.win = (s.core c).win ∧ k.cb = (s.core c).cb ∧ k.bb = (s.core c).bb ∧
        (∀ x, ∃ b, k.cx.get {} x = { s.cx c x with emptyAt := none, logWait := false, pfx := none, slot := b } ∧
          (b = true ↔ (s.cx c x).slot = true ∧ ∃ tval epc va, (s.cx c x).wait = .fault .hostNotPresent tval epc va)) ∧
        ((s.core c).row.word = none → k.sem = (s.core c).sem ∧ k.row.rd = (s.core c).row.rd) ∧
        ((s.core c).row.held.isSome = true → k.sem = (s.core c).sem ∧ k.row.rd = (s.core c).row.rd ∧
          ((s.core c).row.word.isSome = true → k.row = (s.core c).row)) ∧
        (∀ w, (s.core c).row.word = some w → (s.core c).row.held = none → k.row.word = none ∧ k.row.rd = (s.core c).row.rd - 1 ∧
          ∀ n, n < 31 → k.sem.get 0 n = (s.core c).sem.get 0 n + if n = (rowFields w).aw then 1 else 0)) ∧
    (∀ i k, NoneEnded s → s.cur = .event .taskResume c a → MayReturn s c i k → k.tk.gang = false →
      ∃ t, exec .taskResume s = .next t ∧ TaskBack s t c i k ∧ t.mem = s.mem ∧ Current s t c ∧ ∀ n, n ≠ c → t.core n = s.core n) ∧
    ∀ i k, NoneEnded s → s.cur = .event .gangResume c a → MayReturn s c i k → k.tk.gang = true → (s.cores.map (·.1)).Nodup →
      let member (d : Nat) (m : Core) : Prop := (∃ e ∈ (s.phys d).saved, e.2 = some m) ∧ m.tk.launch = k.tk.launch ∧ m.tk.gang = true ∧ m.tk.gangKey = k.tk.gangKey
      (∀ l ∈ s.launches, l.id = k.tk.launch → ∀ ch ∈ l.running, ch.live = true ∨ l.gangKey ch.j ≠ k.tk.gangKey) →
      (∀ d m, member d m → ∃ j m', MayReturn s d j m' ∧ m'.tk.launch = k.tk.launch ∧ m'.tk.gangKey = k.tk.gangKey) →
      ∃ t, exec .gangResume s = .next t ∧ t.mem = s.mem ∧
        ∀ d m j m', member d m → MayReturn s d j m' → TaskBack s t d j m'

/-- 05 R101, R103, R104: a snapshot of a batch table in device memory completes with the count and the active entries, an empty table ends the level, and a ramp window closes with the ballast that each interface's floor needs, charged to it. Where this rests on the model's own choices: log 22, 32, 44. -/
def Obligations.BatchesAndRamps : Prop :=
  ∀ (s : State) (a : Nat),
    (∀ l pre post lpre lv lpost tpa spa, NoneEnded s → s.launches = pre ++ l :: post → (∀ m ∈ pre ++ post, m.id ≠ l.id) → s.cur = .event .batchSnapshot l.id a →
      l.ri < l.recs.length → l.batch = none → l.endedChains = 0 → (l.recs.getD l.ri {}).levels = lpre ++ lv :: lpost → lv.kind = 3 →
      (∀ m ∈ lpre, m.kind = 0 ∧ m.tripsrc ≠ 2) → (∀ m ∈ lpost, m.kind < 2 ∧ (m.tripsrc = 2 ∨ 0 < m.trip)) → lv.tripsrc ≠ 2 → (∀ m ∈ lpre, 0 < m.trip) →
      l.outer < tripProduct lpre * lv.trip →
      let n := s.mem.num tpa 32 % 2 ^ 16
      let ver (i : Nat) : Nat := s.mem.num (tpa + 32 * (i + 1)) 32
      let taken (i : Nat) : Nat := if ver i % 2 = 0 then ver i else l.committed.get 0 i
      let act := ((List.range n).map taken).filter (·.testBit 64)
      let at' (va pa right : Nat) : Prop := WalkerAt s l va pa right
      (∀ i, i ≤ n → at' (lv.table + 32 * i) (tpa + 32 * i) 4) → 0 < n → 0 < act.length →
      (∀ i, i ≤ act.length → at' (lv.snap + 32 * i) (spa + 32 * i) 5) →
      (∀ m ∈ lpost, m.kind = 0 → m.tripsrc ≠ 2) →
      ∃ t m, exec .batchSnapshot s = .next t ∧
        t = { s.dropReqs walkerCore l.id with mem := t.mem, hist := t.hist, mpoison := t.mpoison, itemKnow := t.itemKnow, launches := pre ++ m :: post } ∧
        (∀ i, i ≤ n → ItemsLearn s t.itemKnow (tpa + 32 * i)) ∧
        m = { l with batch := some act.length, committed := m.committed } ∧ (∀ i, i < n → m.committed.get 0 i = taken i) ∧
        ∀ b, t.mem.read b = (act.zipIdx.foldl (fun (q : Memory) e => q.setNum (spa + 32 * (e.2 + 1)) 32 e.1) (s.mem.setNum spa 32 act.length)).read b) ∧
    (∀ l pre post lpre lv lpost tpa, NoneEnded s → s.launches = pre ++ l :: post → (∀ m ∈ pre ++ post, m.id ≠ l.id) → s.cur = .event .batchSnapshot l.id a →
      l.ri < l.recs.length → l.batch = none → (l.recs.getD l.ri {}).levels = lpre ++ lv :: lpost → lv.kind = 3 → (∀ m ∈ lpre, m.kind = 0) →
      WalkerAt s l lv.table tpa 4 → s.mem.num tpa 32 % 2 ^ 16 = 0 →
      ∃ m know, exec .batchSnapshot s = .next { s.dropReqs walkerCore l.id with launches := pre ++ m :: post, itemKnow := know } ∧
        ItemsLearn s know tpa ∧ (lpre = [] → l.ri < m.ri)) ∧
    ∀ cl, s.cur = .event .rampWindow cl a →
      let e := s.cluster cl
      let short (p : Nat × Nat) : Bool := decide (e.rampNow.get 0 p.1 + 2048 < p.2)
      ∃ e', exec .rampWindow s = .next (s.updCluster cl (fun _ => e')) ∧
        e' = { e with rampLast := e'.rampLast, rampNow := [], eballast := e'.eballast, ballast := e'.ballast } ∧
        (∀ p ∈ e.rampLast, short p → e'.rampLast.get 0 p.1 = e.rampLast.get 0 p.1 - 2048) ∧
        (∀ v, (∀ p ∈ e.rampLast, p.1 = v → ¬short p) → e'.rampLast.get 0 v = e.rampNow.get 0 v) ∧
        e'.eballast = e.eballast + ((e.rampLast.filter short).map (fun p => Config.ballastEnergy (256 * s.tick + p.1))).sum ∧
        ((e.rampLast.map (·.1)).Nodup → ∀ v, e'.ballast.get 0 v = e.ballast.get 0 v +
          if ∃ p ∈ e.rampLast, p.1 = v ∧ short p then Config.ballastEnergy (256 * s.tick + v) else 0)

/-- 06 R133, R134; 13 R290; 16 R362: each Marionette action completes once when due, the rings restart, and SMPCLR makes a halted sequence context idle. Where this rests on the model's own choices: log 2. -/
def Obligations.ActionsAndRestarts : Prop :=
  ∀ (s : State) (c n : Nat),
    let k := s.core c
    (∀ act, s.cur = .event .mxRaise c n → Fires k n 1 act →
      let sem := act / 2 ^ 20 % 32
      (sem = 31 → exec .mxRaise s = .next (s.updCore c (fired · n))) ∧
      (sem ≠ 31 → k.sem.get 0 sem < 65535 → ∃ k', exec .mxRaise s = .next (s.updCore c (fun _ => k')) ∧
        k' = { fired k n with sem := k.sem.upd 0 sem (· + 1), mxcnt := k'.mxcnt }) ∧
      (sem ≠ 31 → 65535 ≤ k.sem.get 0 sem → (s.cx c 0).live = true → exec .mxRaise s = .next (s.updCore c (fun k =>
        { fired k n with copyTraps := k.copyTraps ++ [(0, .semOverflow, sem)] })))) ∧
    (∀ act, s.cur = .event .mxEventAdd c n → Fires k n 2 act →
      let e := (s.vi k.tk.vi).evbase + act / 2 ^ 20 % 2 ^ 12
      Unarmed s e → exec .mxEventAdd s = .next { s.updCore c (fired · n) with
        counters := s.counters.upd 0 e (· + 1), evKnow := s.evKnow.upd [] e (joinKnow · (s.phys c).know) }) ∧
    (s.cur = .event .mxCopyStart c n →
      (∀ act ch i, Fires k n 3 act → k.mxpend.get none n = none → ch = act / 2 ^ 20 % 16 → i = act / 2 ^ 24 % 2 ^ 16 →
        ((k.chan.get {} ch).phase ≠ .idle → exec .mxCopyStart s = .next (s.updCore c (fun k => { fired k n with mxpend := k.mxpend.put none n (some (ch, i)) }))) ∧
        ∀ t src dst, StartOk s c 0 ch i t src dst → ∃ k', exec .mxCopyStart s = .next (s.updCore c (fun _ => k')) ∧ CopyTaken (fired k n) k' ch 0 i t src dst) ∧
      ∀ ch i, k.mxpend.get none n = some (ch, i) →
        (∀ act, Fires k n 3 act → (k.chan.get {} ch).phase ≠ .idle → exec .mxCopyStart s = .next (s.updCore c (fired · n))) ∧
        ∀ t src dst, StartOk s c 0 ch i t src dst → k.phase = .running ∨ k.phase = .draining →
          (∀ act, Fires k n 3 act → ∃ k', exec .mxCopyStart s = .next (s.updCore c (fun _ => k')) ∧
            CopyTaken { fired k n with mxpend := k.mxpend.put none n none } k' ch 0 i t src dst) ∧
          ((∀ act, ¬Fires k n 3 act) → ∃ k', exec .mxCopyStart s = .next (s.updCore c (fun _ => k')) ∧
            CopyTaken { k with mxpend := k.mxpend.put none n none } k' ch 0 i t src dst)) ∧
    (∀ act, s.cur = .event .mxCounterReset c n → Fires k n 4 act →
      exec .mxCounterReset s = .next (s.updCore c (fun k => { fired k n with mxcnt := k.mxcnt.put 0 (act / 2 ^ 20 % 8) 0 }))) ∧
    (s.cur = .event .restartRowRing c n → k.row.halted = true → exec .restartRowRing s = .next (s.updCore c (fun k => { k with row := { k.row with
      halted := false, rd := if n = 1 then k.row.rd + 1 else k.row.rd, tags := if n = 1 then k.row.tags.put none k.row.rd none else k.row.tags } }))) ∧
    (s.cur = .event .restartMatrixRing c n → k.mat.halted = true → exec .restartMatrixRing s = .next (s.updCore c (fun k => { k with mat := { k.mat with
      halted := false, rd := if n = 1 then k.mat.rd + 1 else k.mat.rd, tags := if n = 1 then k.mat.tags.put none k.mat.rd none else k.mat.tags } }))) ∧
    (∀ q, s.cur = .event .smpclr c n → n.testBit 6 = true → n % 64 < k.cl.sampler → 64 * (c / 8) ≤ q → q < 64 * (c / 8) + 64 →
      (s.seq q).owner = some (k.tk.vi, k.tk.slot, n % 64) → (∀ r, 64 * (c / 8) ≤ r → r < q → (s.seq r).owner ≠ some (k.tk.vi, k.tk.slot, n % 64)) →
      ((s.seq q).st = 2 → exec .smpclr s = .next (s.updSeq q (fun e => { e with st := 0, cand := [] }))) ∧
      ((s.seq q).st ≠ 2 → exec .smpclr s = .next s))

/-- 15 R336 to R345; 06 R127 to R131; 07 R157: a copy starts, issues and lands its lines, pops its reply and finishes. Where this rests on the model's own choices: log 28, 34, 45. -/
def Obligations.Copies : Prop :=
  ∀ (s : State) (c n : Nat),
    let k := s.core c
    let h := k.chan.get {} n
    (∀ x i t src dst, StartOk s c x n i t src dst →
      ∃ k', exec (.copyStart c x n i) s = .next (s.updCore c (fun _ => k')) ∧ CopyTaken k k' n x i t src dst) ∧
    (s.cur = .event .copyLineIssue c n → k.phase = .running →
      (h.phase = .await → (h.t.aw ≠ 31 → k.sem.get 0 h.t.aw ≠ 0) →
        let u := s.updCore c (fun k => { k with
          sem := if h.t.aw = 31 then k.sem else k.sem.upd 0 h.t.aw (· - 1)
          chan := k.chan.upd {} n (fun h => { h with phase := if h.t.qidx then .reply else .lines }) })
        exec .copyLineIssue s = .next (if h.t.acq then u.refresh c h.t.scope else u)) ∧
      (h.phase = .lines → h.stopped = none → h.failed = none → h.issued < h.t.seglines * h.t.nseg → h.slot = true ∨ k.outstanding < 8192 →
        (h.tag = 0 ∨ h.flight.length < 32) → (h.tag = 0 → h.t.dkind = 1 → ∀ l ∈ h.flight, l.dst.isSome = true) →
        let done (u : State) (l : Line) : State := (u.dropReqs c (16 + n)).updCore c (fun k => { k with
          chan := k.chan.upd {} n (fun h => { h with issued := h.issued + 1, flight := h.flight ++ [l], emptyAt := none, slot := false }) })
        let at' := lineOf h.src h.t.sstride h.t.seglines h.issued
        (h.t.skind = 0 → (h.t.dkind = 0 ∨ h.t.dkind = 1 ∧ h.tag ≠ 0) → Readable k at' 128 →
          exec .copyLineIssue s = .next (done s { line := h.issued, data := k.spad.part at' 128 })) ∧
        (∀ ps u, h.t.skind = 0 → h.t.dkind = 1 → h.tag = 0 → dstPieces c h h.issued s = .ok (ps, u) → Readable (u.core c) at' 128 →
          exec .copyLineIssue s = .next (done u { line := h.issued, data := (u.core c).spad.part at' 128, dst := some ps })) ∧
        (h.t.skind = 0 → h.t.dkind = 0 → (∃ l ∈ linesOf at' 128, k.isEmpty l = true) →
          ∃ l, exec .copyLineIssue s = .next (s.updCore c (fun k => { k with chan := k.chan.upd {} n (fun h => { h with emptyAt := some l }) }))) ∧
        ∀ d u, h.t.skind = 1 → h.t.dkind = 0 → vread c 2 (16 + n) none at' 128 s = .ok (d, u) →
          exec .copyLineIssue s = .next (done u { line := h.issued, data := d }))) ∧
    (∀ l rest, h.flight = l :: rest → h.stopped = none →
      let landed (g : Chan) : Chan := { g with landed := g.landed ++ [l.line], logWait := false, flight := g.flight.filter (fun p => p.line != l.line) }
      let counts := h.t.bbv = true → 128 ≤ (k.bb.get {} h.t.bb).count
      let bars (k : Core) : Store Barrier := if h.t.bbv then k.bb.upd {} h.t.bb (fun b => { b with count := b.count - 128 }) else k.bb
      (h.tag ≠ 0 → exec (.copyLineLand c n l.line) s = .next s) ∧
      let keeps (u : State) (l : Line) : State := (u.dropReqs c (16 + n)).updCore c (fun k => { k with
        chan := k.chan.upd {} n (fun h => { h with
          logWait := false, flight := h.flight.filter (fun p => p.line != l.line), kept := h.kept ++ [l] }) })
      (h.tag = 0 → h.t.check = true → (h.t.dkind = 1 → l.dst.isSome = true) → exec (.copyLineLand c n l.line) s = .next (keeps s l)) ∧
      (∀ ps u, h.tag = 0 → h.t.check = true → h.t.dkind = 1 → l.dst = none → (∀ m ∈ rest, l.line ≤ m.line) → dstPieces c h l.line s = .ok (ps, u) →
        exec (.copyLineLand c n l.line) s = .next (keeps u { l with dst := some ps })) ∧
      (h.tag = 0 → h.t.check = false → h.t.dkind = 0 → Quiet k → l.data.length = 128 → lineOf h.dst h.t.dstride h.t.seglines l.line % 128 = 0 → counts →
        let at' := lineOf h.dst h.t.dstride h.t.seglines l.line
        ∃ t, exec (.copyLineLand c n l.line) s = .next t ∧ OutsideSame (s.dropReqs c (16 + n)) t c ∧ t.core c = { k with
          spad := k.spad.setPart at' l.data, empty := k.empty.put false (at' / 128) false, mxcnt := (t.core c).mxcnt
          chan := k.chan.upd {} n landed, bb := bars k }) ∧
      (∀ ps u v, h.tag = 0 → h.t.check = false → h.t.dkind = 1 → counts →
        (l.dst = some ps ∧ u = s ∨ l.dst = none ∧ (∀ m ∈ rest, l.line ≤ m.line) ∧ dstPieces c h l.line s = .ok (ps, u)) →
        writePieces c (16 + n) none ps l.data u = .ok v →
        ∃ t, exec (.copyLineLand c n l.line) s = .next t ∧ OutsideSame (v.dropReqs c (16 + n)) t c ∧
          t.core c = { v.core c with mxcnt := (t.core c).mxcnt, chan := (v.core c).chan.upd {} n landed, bb := bars (v.core c) })) ∧
    (∀ e r, s.cur = .event .copyReplyPop c n → k.phase = .running → h.phase = .reply → k.queue 7 = e :: r →
      (e.toNat / 2 ^ 32 % 16 = 0 → layoutCheck s c { h with token := e.toNat % 2 ^ 32, phase := .lines } = .ok () →
        exec .copyReplyPop s = .next (s.updCore c (fun k => { k with
          q := k.q.put [] 7 r, chan := k.chan.put {} n { h with token := e.toNat % 2 ^ 32, phase := .lines } }))) ∧
      (e.toNat / 2 ^ 32 % 16 ≠ 0 → (s.cx c h.owner).live = true → h.recorded = false →
        ∃ t, exec .copyReplyPop s = .next t ∧ (t.core c).chan.get {} n = {} ∧ (t.core c).queue 7 = r ∧
          (t.core c).copyTraps = k.copyTraps ++ [(h.owner, .samplerReply, h.tidx)])) ∧
    (s.cur = .event .copyFinish c n →
      (Finishable h → h.t.check = false → h.t.evkind < 2 → (h.t.rs ≠ 31 → k.sem.get 0 h.t.rs < 65535) →
        (h.t.fov = true → ∀ w, h.t.foaddr / 8 ≤ w → w < h.t.foaddr / 8 + 3 → k.spoison.get false w = false ∧ NoCorr k 4 w 1) →
        let e := (s.vi k.tk.vi).evbase + h.t.evidx
        (h.t.evkind = 1 → Unarmed s e) →
        ∃ t, exec .copyFinish s = .next t ∧
          t = { s.dropReqs c (16 + n) with
            cores := t.cores, mem := t.mem, hostMem := t.hostMem, hist := t.hist, mpoison := t.mpoison, counters := t.counters, evKnow := t.evKnow } ∧
          t.core c = { k with
            chan := k.chan.put {} n {}, mxcnt := (t.core c).mxcnt, follow := if h.t.fov then k.follow ++ [k.spad.num h.t.foaddr 24] else k.follow
            sem := if h.t.rs = 31 then k.sem else k.sem.upd 0 h.t.rs (· + 1) } ∧
          t.counters = (if h.t.evkind = 1 then s.counters.upd 0 e (· + ofN h.t.evamt) else s.counters) ∧
          t.evKnow = (if h.t.evkind = 1 then s.evKnow.upd [] e (joinKnow · (t.phys c).know) else s.evKnow) ∧
          (h.t.rel = false → t.mem = s.mem ∧ t.hostMem = s.hostMem ∧ (t.phys c).know = (s.phys c).know) ∧
          (h.t.rel = true → (∀ x ∈ (s.phys c).dirty, x.agent = 16 + n → x.part = true ∧ x.scope = none) → ∀ x ∈ (t.phys c).dirty, x.agent ≠ 16 + n) ∧
          (h.t.rel = true → (∀ x ∈ (s.phys c).dirty, x.agent = 16 + n ∧ x.part = true ∧ x.scope = none ∧ x.word < hostWords) →
            t.mem = (s.phys c).dirty.foldl (fun m x => m.writeBytes (8 * x.word + x.off) x.bs) s.mem)) ∧
      ∀ cause, h.failed = some cause → h.flight = [] → (s.cx c h.owner).live = true →
        ∃ t, exec .copyFinish s = .next t ∧ (t.core c).chan.get {} n = {} ∧ (t.core c).copyTraps = k.copyTraps ++ [(h.owner, cause, h.tidx)])

/-- 13 R293; 06 R138, R139; 03 R59: the service kernel's answer to each request completes, once no earlier request of the context waits: pages mapped and freed, layout entries set, log records taken, and the status of a request that breaks a rule. Where this rests on the model's own choices: log 12, 31, 36. -/
def Obligations.Services : Prop :=
  (∀ (s : State) (u x : Nat) (r : Request) (k : Core) (b : Nat) (i : Instr), s.cur = .event i u x →
    let ctx := k.tk.ctx
    let va := b / 2 ^ 64 % 2 ^ 64
    let n := b / 2 ^ 144 % 2 ^ 8
    (∀ code, Posted s r k code b → i ∈ [.pagealloc, .pagefree, .layoutset, .logrec] → code = 0 ∨ 4 < code → exec i s = .next (replied s r 1)) ∧
    (∀ code, Posted s r k code b → (i, code) ∈ [(.pagealloc, 1), (.pagefree, 2), (.layoutset, 3), (.logrec, 4)] → b / 2 ^ 16 % 2 ^ 48 ≠ 0 →
      exec i s = .next (replied s r 2)) ∧
    (Posted s r k 4 b → i = .logrec → b / 2 ^ 16 % 2 ^ 48 = 0 → exec i s =
      .next (replied (s.updSlice (ctx % 12) (fun e => { e with errlog := e.errlog ++ [toBytes 24 (b / 2 ^ 64)] })) r 0)) ∧
    (Posted s r k 3 b → i = .layoutset → b / 2 ^ 16 % 2 ^ 48 = 0 →
      let from' := b / 2 ^ 128 % 2 ^ 32
      let e := k.spad.num from' 32
      let ok := va < 65536 ∧ from' + 32 ≤ k.spadLimit ∧ b / 2 ^ 160 % 2 ^ 96 = 0 ∧ e.testBit 21 = true ∧ e / 2 ^ 24 % 2 ^ 12 = ctx
      (¬ok → exec i s = .next (replied s r 2)) ∧ (ok → k.cl.layout ≤ va → exec i s = .next (replied s r 3)) ∧
      (ok → va < k.cl.layout → exec i s = .next (replied (s.updCtx ctx (fun q => { q with layouts := q.layouts.put 0 va (e / 2 ^ 21 * 2 ^ 21) })) r 0))) ∧
    (Posted s r k 2 b → i = .pagefree → b / 2 ^ 16 % 2 ^ 48 = 0 →
      let ok := va % 65536 = 0 ∧ va + 65536 * n ≤ 2 ^ 48 ∧ 1 ≤ n ∧ n ≤ 16 ∧ b / 2 ^ 128 % 2 ^ 16 = 0 ∧ b / 2 ^ 152 % 2 ^ 104 = 0
      let all := ∀ j, j < n → ∃ p ∈ (s.ctx ctx).alloced, p.1 = va + 65536 * j
      (¬ok → exec i s = .next (replied s r 2)) ∧ (ok → ¬all → exec i s = .next (replied s r 4)) ∧
      (ok → all → s.linesInto ctx va (65536 * n) = true → exec i s = .next s) ∧
      (ok → all → s.linesInto ctx va (65536 * n) = false →
        exec i s = .next (replied ((((List.range n).map (va + 65536 * ·)).foldl (·.freePage ctx ·) s).svcResult r n) r 0))) ∧
    (Posted s r k 1 b → i = .pagealloc → b / 2 ^ 16 % 2 ^ 48 = 0 →
      let tier := b / 2 ^ 128 % 256
      let unit := b / 2 ^ 136 % 256
      let first := if tier = 0 then unit * 2 ^ 20 else 2 ^ 24 + unit * 2 ^ 22
      let size := if tier = 0 then 2 ^ 20 else 2 ^ 22
      let pgrant := b.testBit 152
      let ok := va % 65536 = 0 ∧ va + 65536 * n ≤ 2 ^ 48 ∧ tier ≤ 1 ∧ unit ≤ (if tier = 0 then 11 else 3) ∧ 1 ≤ n ∧ n ≤ 16 ∧
        b / 2 ^ 153 % 2 ^ 7 = 0 ∧ b / 2 ^ 160 % 2 ^ 96 = 0 ∧ s.windowHolds ctx va (65536 * n) = false ∧ s.meets ctx va (65536 * n) = []
      let used := (s.frames.filter (fun p => decide (first ≤ p.1 ∧ p.1 < first + size))).length
      let left := k.cl.memory - ((s.vi k.tk.vi).slots.get {} k.tk.slot).pages
      let mapped := s.mapPages first size k.tk.vi k.tk.slot ctx pgrant n va
      (¬ok → exec i s = .next (replied s r 2)) ∧ (ok → left < n → exec i s = .next (replied s r 3)) ∧
      (ok → n ≤ left → (size < used + n ∨ mapped = none) → exec i s = .next (replied s r 5)) ∧
      (∀ t, ok → n ≤ left → used + n ≤ size → mapped = some t → exec i s = .next (replied ((t.chargePages k.tk n).svcResult r n) r 0)))) ∧
  (∀ (s t : State) (first size vi slot ctx n va : Nat) (pgrant : Bool), Store.wf (0, 0) s.frames = true → s.mapPages first size vi slot ctx pgrant n va = some t → ∃ fs : List Nat,
    fs.length = n ∧ fs.Nodup ∧
    (∀ f ∈ fs, first ≤ f ∧ f < first + size ∧ (s.frames.get (0, 0) f).1 = 0 ∧ t.frames.get (0, 0) f = (vi + 1, ctx + 1)) ∧
    (∀ a, t.mem.read a = if a / 65536 ∈ fs then 0 else s.mem.read a) ∧
    (t.ctx ctx).alloced = (s.ctx ctx).alloced ++ (List.range n).map (fun j => (va + 65536 * j, vi, slot)) ∧
    ∀ f up, n = 1 → va % 65536 = 0 → TableOn s ctx va 0 f up → ∀ a, a / 65536 = va / 65536 →
      t.leafAt ctx a = some { va := va, size := 1, pte := 0xB5 + fs.headD 0 * 65536 + (if pgrant then 2 ^ 11 else 0) }) ∧
  (∀ (s : State) (ctx va f vi slot : Nat) (up : List Nat) (l : Leaf), va % 65536 = 0 → TableOn s ctx va 0 f up → s.leafAt ctx va = some l → l.size = 1 →
    (s.ctx ctx).alloced.find? (fun p => p.1 == va) = some (va, vi, slot) →
    let t := s.freePage ctx va
    (∀ a, a / 65536 = va / 65536 → t.leafAt ctx a = none) ∧ (t.ctx ctx).alloced = (s.ctx ctx).alloced.filter (fun p => p.1 != va) ∧
    t.frames.get (0, 0) (l.pte / 2 ^ 16 % 2 ^ 28) = (0, 0) ∧ (∀ a, a / 65536 = l.pte / 2 ^ 16 % 2 ^ 28 → t.mem.read a = 0) ∧
    ((t.vi vi).slots.get {} slot).pages = ((s.vi vi).slots.get {} slot).pages - 1) ∧
  ∀ (s : State) (r : Request) (v st : Nat), (s.core r.core).isTask r.launch r.item = true → Quiet (s.core r.core) →
    let k := s.core r.core
    (replied (s.svcResult r v) r st).core r.core = { k with
      spad := k.spad.setPart (r.blk + 32) (toBytes 4 v), cx := k.cx.upd {} r.x (fun q => { q with wait := .reply st }) }

/-- 04 R63 to R66: on the path of an address, the walk of a table's entries finds the leaf that holds it; a leaf that a MAP adds is what the walk then finds all over its page, also where a table on the path had to be built; one that is removed is found nowhere in it; and 64 KiB blocks beside it in the table read as before. Where this rests on the model's own choices: log 12. -/
def Obligations.TablesHoldLeaves : Prop :=
  ∀ (s : State) (ctx va f : Nat) (up : List Nat),
    (TableOn s ctx va 0 f up → ∀ a, a / 2 ^ 21 = va / 2 ^ 21 → s.leafAt ctx a =
      let e := s.tableEntry f (a / 4096 % 512)
      if e.testBit 0 = false then none
      else if e / 2 ^ 7 % 4 = 1 then some { va := a / 65536 * 65536, size := 1, pte := s.tableEntry f (a / 65536 % 32 * 16) }
      else some { va := a / 4096 * 4096, size := 0, pte := e }) ∧
    ∀ l, LeafFor va l →
      (TableOn s ctx va (sizeLevel l.size) f up →
        (∃ t, s.addLeaf ctx l = some t ∧ (∀ a, l.va ≤ a → a < l.va + leafBytes l.size → t.leafAt ctx a = some l) ∧
          (l.size ≤ 1 → ∀ a, a / 2 ^ 21 = va / 2 ^ 21 → a / 65536 ≠ l.va / 65536 → t.leafAt ctx a = s.leafAt ctx a)) ∧
        (∀ a, l.va ≤ a → a < l.va + leafBytes l.size → (s.dropLeaf ctx l).leafAt ctx a = none) ∧
        (l.size ≤ 1 → ∀ a, a / 2 ^ 21 = va / 2 ^ 21 → a / 65536 ≠ l.va / 65536 → (s.dropLeaf ctx l).leafAt ctx a = s.leafAt ctx a)) ∧
      ∀ g u, TableOn s ctx va (sizeLevel l.size + 1) f up → (s.tableEntry f (va / (4096 * 512 ^ (sizeLevel l.size + 1)) % 512)).testBit 0 = false →
        s.newTable ctx (s.tableFrames ctx) = some (g, u) → g ∉ f :: up → g < 2 ^ 32 →
        ∃ t, s.addLeaf ctx l = some t ∧ ∀ a, l.va ≤ a → a < l.va + leafBytes l.size → t.leafAt ctx a = some l

/-- 12 R237 to R258: words written out from the encodings, those the spec itself gives among them, decode to the instructions they stand for. -/
def Obligations.DecodedWords : Prop :=
  decodeScalar 0x60850002 = .ok (.loopHw 0 5 2) ∧ decodeScalar 0x07193000 = .ok (.add 24 25 6) ∧
  decodeScalar 0x4C8638AD = .ok (.amoCas 4 6 7 1 3 1) ∧ decodeScalar 0x00001413 = .ok (.semwait 5) ∧
  decodeRow 0x13580081_04400380_000E1110 = .ok (.vfma { fmt := 11, d := 4128, a := 139265, b := 196608, rep := 7, aw := 1, rs := 2, rel := true }) ∧
  decodeMat 0x10C302900014001FFF03FE00012658044300000000000000 = .ok (.mmul { afmt := 48, bfmt := 48, cfmt := 10, acc := 1, astr := 1, brow := 128, bstr := 1, mm1 := 63, nm1 := 63, km1 := 255, init := true, outctl := 1, ofmt := 9, orow := 300, ostr := 1, aw := 2, rs := 3 }) ∧
  decodeSampler 0x10000630 = .ok (.smpLdc 48 4)

/-- 12 R237 to R258: every well-formed instruction with an encoding reads back from its word, and a word that decodes is the encoding of what it decodes to. -/
def Obligations.EncodingsReadBack : Prop :=
  ∀ (i : Instr) (w : Nat),
    (i.wf = true →
      (encode i = some (96, w) → decodeRow w = .ok i) ∧ (encode i = some (192, w) → decodeMat w = .ok i) ∧
      (encode i = some (32, w) → SamplerWord i → decodeSampler w = .ok i) ∧ (encode i = some (32, w) → ¬SamplerWord i → decodeScalar w = .ok i)) ∧
    (w < 2 ^ 32 → decodeScalar w = .ok i → i.wf = true ∧ encode i = some (32, w) ∧ ¬SamplerWord i) ∧
    (w < 2 ^ 32 → decodeSampler w = .ok i → i.wf = true ∧ encode i = some (32, w) ∧ SamplerWord i) ∧
    (w < 2 ^ 96 → decodeRow w = .ok i → i.wf = true ∧ encode i = some (96, w)) ∧
    (w < 2 ^ 192 → decodeMat w = .ok i → i.wf = true ∧ encode i = some (192, w))

/-- 06 R107 to R111, R126, R141; 09 R200; 12 R237 to R241, R259 to R261: the step of a stream runs the instruction that its next word decodes to, and a word that decodes to none runs the row of R259 to R261, a prefix with a reserved rounding together with its word; a ring's word with a poisoned part of it faults, and what was corrected in a word counts when it is read; an event of the agenda runs its step. Where this rests on the model's own choices: log 2, 6, 8. -/
def Obligations.StepRunsDecoded : Prop :=
  ∀ (s : State),
    (∀ c x, IssuesNext s c x → ∀ w u, fetchWord c (s.cx c x).pc.toNat s.acting = .ok (w, u) →
      (∀ i, decodeScalar w = .ok i → (∀ r v z h, i ≠ .pfx r v z h) → Runs s u i) ∧
      (∀ e, decodeScalar w = .error e → w / 2 ^ 26 ≠ 0x3F → Runs s u (.illegalInstruction w)) ∧
      (∀ e u' p w' u'', decodeScalar w = .error e → w / 2 ^ 26 = 0x3F →
        exec (.pfx (bitsOf w 25 23) (bitAt w 22) (bitAt w 21) (bitsOf w 20 0)) u = .next u' → (u'.cx c x).pfx = some p → p.rndOk = false →
        fetchWord c ((u'.cx c x).pc.toNat + 4) u' = .ok (w', u'') → (u'.cx c x).pc = (s.cx c x).pc → Runs s u'' (.illegalInstruction w')) ∧
      (∀ r v z h u' p w' u'' i, decodeScalar w = .ok (.pfx r v z h) → exec (.pfx r v z h) u = .next u' → (u'.cx c x).pfx = some p →
        fetchWord c ((u'.cx c x).pc.toNat + 4) u' = .ok (w', u'') → (u'.cx c x).pc = (s.cx c x).pc → decodeScalar w' = .ok i → p.rndOk = true → pfxLegal p.rv p.sat p.hi i = true → Runs s u'' i)) ∧
    (∀ c va pa, PageAt s (s.core c).tk.ctx va 4 pa 6 → va < 2 ^ 48 → (s.core c).windowPage va = none → (sliceOfPa pa).isSome = true →
      (∀ o ∈ s.oldLeaves, ¬(o.core = c ∧ o.agent = s.actor)) → (s.walks.filter (fun w => w.core == c)).length < 16 → pa % 4 = 0 → (let b := (s.phys c).icache.get 0 (blockKey s c pa); b = 0 ∨ b = 2 ^ 512 + s.mem.num (pa / 64 * 64) 64) →
      ∃ u, fetchWord c va s = .ok (s.mem.num pa 4, u)) ∧
    (∀ c m, NextInRing s c m →
      let k := s.core c
      let w := nextWord k m
      let spoilt (i : Nat) : Prop := k.spoison.get false i = true
      let runs (i : Instr) : Prop := ∃ t, exec i s.acting = .next t ∧ step s = .next (if ((t.core c).ring m).rd = (k.ring m).rd then t
        else t.noteRead c 4 (nextAt k m / 8) ((nextAt k m + wordBytes m + 7) / 8)).after
      ((∀ i, InWords (nextAt k m) (wordBytes m) i → ¬spoilt i) →
        (∀ i, (if m then decodeMat w else decodeRow w) = .ok i → runs i) ∧
        ∀ e, (if m then decodeMat w else decodeRow w) = .error e → runs (.illFormedWord m.toNat w)) ∧
      ∀ i, InWords (nextAt k m) (wordBytes m) i → spoilt i → (∀ j, InWords (nextAt k m) (wordBytes m) j → j < i → ¬spoilt j) → (s.cx c 0).live = true →
        ∃ t, step s = .next t.after ∧ WordHalted s.acting t c m k .poison (8 * i) w []) ∧
    (∀ c m w i, s.pick = (if m then .mat c else .row c) → ((s.core c).ring m).word = some w → (if m then decodeMat w else decodeRow w) = .ok i →
      Runs s s.acting i) ∧
    (∀ n, s.pick = .sampler n → seqRuns s.acting (s.seq n) = true → (s.seq n).reply = none → (s.seq n).pc + 4 ≤ (s.core (s.seq n).core).spadLimit →
      (∀ i, InWords (s.seq n).pc 4 i → (s.core (s.seq n).core).spoison.get false i = false) →
      let w := (s.core (s.seq n).core).spad.num (s.seq n).pc 4
      let runs (i : Instr) : Prop := ∃ t, exec i s.acting = .next t ∧
        step s = .next (if (t.seq n).emptyAt = none then t.noteLoad (s.seq n).core (s.seq n).pc 4 else t).after
      (∀ i, decodeSampler w = .ok i → runs i) ∧ ∀ e, decodeSampler w = .error e → runs (.illformedSamplerWord w)) ∧
    (∀ i u a r, s.agenda = .event i u a :: r → isStep i = true → Runs s { s with agenda := r, cur := .event i u a } i) ∧
    s.after.tick = s.tick + 1 ∧
    ((∀ p ∈ s.cores, ∀ x ∈ p.2.dirty, x.scope = none) → s.after = { s with
      tick := s.tick + 1, cores := s.cores.mapVals {} (fun c p => { p with k := p.k.cycles (Config.cycles (24 * s.tick + c / 8)) }) })

/-- 02 R24, R31, R32; 01 R12, R18, R23; 03 R40; 13 R271: after reset no memory byte holds anything but zero; no core has a task or anything else of one, so that its trap registers, FPFLAGS and the registers s, b, c and lc of its contexts are zero; the status and count registers of a port are zero; there is no launch and no context; clusters stand at code 48 with ceiling 60, the replay target is 100, a ring has depth 16, and the device has the null id; bring-up is what comes next. Registers without a stated value read zero (log 1). -/
def Obligations.ResetState : Prop :=
  (∀ a, State.reset.mem.read a = 0) ∧
  (∀ n, (State.reset.cluster n).cfreq = 0x30 ∧ (State.reset.cluster n).ccap = 0x3C ∧ (State.reset.cluster n).cur = 0x30 ∧
    (State.reset.cluster n).replaytgt = 0x64 ∧ (State.reset.cluster n).replaycnt = 0 ∧ (State.reset.cluster n).energy = 0) ∧
  (∀ v, (State.reset.vi v).pubdepth = 0x10 ∧ (State.reset.vi v).run = false ∧ (State.reset.vi v).pubrd = 0 ∧ (State.reset.vi v).evvec = 0 ∧
    (State.reset.vi v).erqdepth = 0) ∧
  (∀ p, let e := State.reset.port p
    e.state = 0 ∧ e.width = 0 ∧ e.crcerr = 0 ∧ e.replay = 0 ∧ e.feccorr = 0 ∧ e.perr = 0 ∧ e.downcnt = 0 ∧ e.unacked = [] ∧ e.waiting = []) ∧
  (∀ c x r, let k := State.reset.core c
    let q := State.reset.cx c x
    k = {} ∧ k.task = none ∧ k.fpflags = 0 ∧ k.tvec = 0 ∧ k.tcause = 0 ∧ k.tval = 0 ∧ k.epc = 0 ∧ k.hndst = 0 ∧
    q.live = false ∧ q.s.get 0 r = 0 ∧ q.b.get 0 r = 0 ∧ q.c.get false r = false ∧ q.lc.get 0 r = 0) ∧
  (∀ n, State.reset.counter n = 0) ∧ State.reset.devid = 0xFFF ∧ State.reset.launches = [] ∧ State.reset.ctxs = [] ∧ State.reset.boot = 0 ∧
  State.reset.pick = .event (.coldReset true true) 0 0

/-- 00 R4; 01 R11: memory is in its canonical form after reset. Where this rests on the model's own choices: log 5. -/
def Obligations.ResetCanonical : Prop := Canonical State.reset

/-- 00 R4; 01 R11: every step, of any agent, keeps memory in its canonical form, so that equal memories are equal data. Where this rests on the model's own choices: log 5. -/
def Obligations.StepsKeepCanonical : Prop := ∀ (s t : State), Canonical s → step s = .next t → Canonical t

/-- 13 R263, R294 to R297; 02 R32; 03 R49: no instruction and no step ends the machine: everything the spec lets go wrong is itself a next state. Where this rests on the model's own choices: log 40. -/
def Obligations.NothingStops : Prop := ∀ (s : State), (∀ i, ∃ t, exec i s = .next t) ∧ ∃ t, step s = .next t
end

