-- ==== Sys2Proof/Laws/Exec.lean ====
section
/-! SUPPORT. The meaning that exec gives each instruction, by name, so that a proof need not unfold its match. -/

namespace Sys2Proof.Machine

theorem exec_coldReset {trainOk testOk s} : exec (.coldReset trainOk testOk) s = execColdReset trainOk testOk s := rfl
theorem exec_deviceReset {trainOk testOk s} : exec (.deviceReset trainOk testOk) s = execDeviceReset trainOk testOk s := rfl
theorem exec_regWrite {space vi off v s} : exec (.regWrite space vi off v) s = execRegWrite space vi off v s := rfl
theorem exec_patrolScrub {sector found s} : exec (.patrolScrub sector found) s = execPatrolScrub sector found s := rfl
theorem exec_hostAdd {vi idx x s} : exec (.hostAdd vi idx x) s = execHostAdd vi idx x s := rfl
theorem exec_hostWait {vi idx x s} : exec (.hostWait vi idx x) s = execHostWait vi idx x s := rfl
theorem exec_trigt {vi idx x s} : exec (.trigt vi idx x) s = execTrigt vi idx x s := rfl
theorem exec_arm {vi idx x s} : exec (.arm vi idx x) s = execArm vi idx x s := rfl
theorem exec_disarm {vi idx x s} : exec (.disarm vi idx x) s = execDisarm vi idx x s := rfl
theorem exec_flitReceive {port f s} : exec (.flitReceive port f) s = execFlitReceive port f s := rfl
theorem exec_retrain {port ok lanes s} : exec (.retrain port ok lanes) s = execRetrain port ok lanes s := rfl
theorem exec_translationCompletion {pasid page size haddr r w s} : exec (.translationCompletion pasid page size haddr r w) s = execTranslationCompletion pasid page size haddr r w s := rfl
theorem exec_pageRequestGroupResponse {pasid page code s} : exec (.pageRequestGroupResponse pasid page code) s = execPageRequestGroupResponse pasid page code s := rfl
theorem exec_invalidateRequest {pasid base size s} : exec (.invalidateRequest pasid base size) s = execInvalidateRequest pasid base size s := rfl
theorem exec_faultResume {core agent resolved s} : exec (.faultResume core agent resolved) s = execFaultResume core agent resolved s := rfl
theorem exec_copyStart {core x ch data s} : exec (.copyStart core x ch data) s = execCopyStart core x ch data s := rfl
theorem exec_copyLineLand {core ch line s} : exec (.copyLineLand core ch line) s = execCopyLineLand core ch line s := rfl
theorem exec_pfx {rnd rv sat hi s} : exec (.pfx rnd rv sat hi) s = execPfx rnd rv sat hi s := rfl
theorem exec_add {d a b s} : exec (.add d a b) s = execAdd d a b s := rfl
theorem exec_sub {d a b s} : exec (.sub d a b) s = execSub d a b s := rfl
theorem exec_iand {d a b s} : exec (.iand d a b) s = execIand d a b s := rfl
theorem exec_ior {d a b s} : exec (.ior d a b) s = execIor d a b s := rfl
theorem exec_ixor {d a b s} : exec (.ixor d a b) s = execIxor d a b s := rfl
theorem exec_sll {d a b s} : exec (.sll d a b) s = execSll d a b s := rfl
theorem exec_srl {d a b s} : exec (.srl d a b) s = execSrl d a b s := rfl
theorem exec_sra {d a b s} : exec (.sra d a b) s = execSra d a b s := rfl
theorem exec_mul {d a b s} : exec (.mul d a b) s = execMul d a b s := rfl
theorem exec_mulh {d a b s} : exec (.mulh d a b) s = execMulh d a b s := rfl
theorem exec_mulhu {d a b s} : exec (.mulhu d a b) s = execMulhu d a b s := rfl
theorem exec_div {d a b s} : exec (.div d a b) s = execDiv d a b s := rfl
theorem exec_divu {d a b s} : exec (.divu d a b) s = execDivu d a b s := rfl
theorem exec_rem {d a b s} : exec (.rem d a b) s = execRem d a b s := rfl
theorem exec_remu {d a b s} : exec (.remu d a b) s = execRemu d a b s := rfl
theorem exec_min {d a b s} : exec (.min d a b) s = execMin d a b s := rfl
theorem exec_max {d a b s} : exec (.max d a b) s = execMax d a b s := rfl
theorem exec_minu {d a b s} : exec (.minu d a b) s = execMinu d a b s := rfl
theorem exec_maxu {d a b s} : exec (.maxu d a b) s = execMaxu d a b s := rfl
theorem exec_clz {d a s} : exec (.clz d a) s = execClz d a s := rfl
theorem exec_ctz {d a s} : exec (.ctz d a) s = execCtz d a s := rfl
theorem exec_popc {d a s} : exec (.popc d a) s = execPopc d a s := rfl
theorem exec_sext {d a fmt s} : exec (.sext d a fmt) s = execSext d a fmt s := rfl
theorem exec_zext {d a fmt s} : exec (.zext d a fmt) s = execZext d a fmt s := rfl
theorem exec_addi {d a imm s} : exec (.addi d a imm) s = execAddi d a imm s := rfl
theorem exec_andi {d a imm s} : exec (.andi d a imm) s = execAndi d a imm s := rfl
theorem exec_ori {d a imm s} : exec (.ori d a imm) s = execOri d a imm s := rfl
theorem exec_xori {d a imm s} : exec (.xori d a imm) s = execXori d a imm s := rfl
theorem exec_slli {d a n s} : exec (.slli d a n) s = execSlli d a n s := rfl
theorem exec_srli {d a n s} : exec (.srli d a n) s = execSrli d a n s := rfl
theorem exec_srai {d a n s} : exec (.srai d a n) s = execSrai d a n s := rfl
theorem exec_movi {d imm s} : exec (.movi d imm) s = execMovi d imm s := rfl
theorem exec_movhi {d imm s} : exec (.movhi d imm) s = execMovhi d imm s := rfl
theorem exec_cmpi {cond c a imm s} : exec (.cmpi cond c a imm) s = execCmpi cond c a imm s := rfl
theorem exec_cmpEq {c a b s} : exec (.cmpEq c a b) s = execCmpEq c a b s := rfl
theorem exec_cmpNe {c a b s} : exec (.cmpNe c a b) s = execCmpNe c a b s := rfl
theorem exec_cmpLt {c a b s} : exec (.cmpLt c a b) s = execCmpLt c a b s := rfl
theorem exec_cmpGe {c a b s} : exec (.cmpGe c a b) s = execCmpGe c a b s := rfl
theorem exec_cmpLtu {c a b s} : exec (.cmpLtu c a b) s = execCmpLtu c a b s := rfl
theorem exec_cmpGeu {c a b s} : exec (.cmpGeu c a b) s = execCmpGeu c a b s := rfl
theorem exec_cand {c a b s} : exec (.cand c a b) s = execCand c a b s := rfl
theorem exec_cor {c a b s} : exec (.cor c a b) s = execCor c a b s := rfl
theorem exec_cxor {c a b s} : exec (.cxor c a b) s = execCxor c a b s := rfl
theorem exec_cnot {c a s} : exec (.cnot c a) s = execCnot c a s := rfl
theorem exec_sel {d a b k s} : exec (.sel d a b k) s = execSel d a b k s := rfl
theorem exec_fadd {d a b s} : exec (.fadd d a b) s = execFadd d a b s := rfl
theorem exec_fsub {d a b s} : exec (.fsub d a b) s = execFsub d a b s := rfl
theorem exec_fmul {d a b s} : exec (.fmul d a b) s = execFmul d a b s := rfl
theorem exec_fdiv {d a b s} : exec (.fdiv d a b) s = execFdiv d a b s := rfl
theorem exec_fsqrt {d a s} : exec (.fsqrt d a) s = execFsqrt d a s := rfl
theorem exec_fma {d a b s} : exec (.fma d a b) s = execFma d a b s := rfl
theorem exec_fmin {d a b s} : exec (.fmin d a b) s = execFmin d a b s := rfl
theorem exec_fmax {d a b s} : exec (.fmax d a b) s = execFmax d a b s := rfl
theorem exec_fabs {d a s} : exec (.fabs d a) s = execFabs d a s := rfl
theorem exec_fneg {d a s} : exec (.fneg d a) s = execFneg d a s := rfl
theorem exec_cvtfi {d a fmt s} : exec (.cvtfi d a fmt) s = execCvtfi d a fmt s := rfl
theorem exec_cvtif {d a fmt s} : exec (.cvtif d a fmt) s = execCvtif d a fmt s := rfl
theorem exec_cvtff {d a fmt s} : exec (.cvtff d a fmt) s = execCvtff d a fmt s := rfl
theorem exec_cvtft {d a fmt s} : exec (.cvtft d a fmt) s = execCvtft d a fmt s := rfl
theorem exec_fcmpEq {c a b s} : exec (.fcmpEq c a b) s = execFcmpEq c a b s := rfl
theorem exec_fcmpLt {c a b s} : exec (.fcmpLt c a b) s = execFcmpLt c a b s := rfl
theorem exec_fcmpLe {c a b s} : exec (.fcmpLe c a b) s = execFcmpLe c a b s := rfl
theorem exec_fcmpUn {c a b s} : exec (.fcmpUn c a b) s = execFcmpUn c a b s := rfl
theorem exec_fclass {d a s} : exec (.fclass d a) s = execFclass d a s := rfl
theorem exec_csrr {d off s} : exec (.csrr d off) s = execCsrr d off s := rfl
theorem exec_csrw {a off s} : exec (.csrw a off) s = execCsrw a off s := rfl
theorem exec_ld {d a ty disp s} : exec (.ld d a ty disp) s = execLd d a ty disp s := rfl
theorem exec_st {d a ty disp s} : exec (.st d a ty disp) s = execSt d a ty disp s := rfl
theorem exec_lda {d a width scope order s} : exec (.lda d a width scope order) s = execLda d a width scope order s := rfl
theorem exec_stl {a b width scope order s} : exec (.stl a b width scope order) s = execStl a b width scope order s := rfl
theorem exec_amoAdd {d a b width scope order s} : exec (.amoAdd d a b width scope order) s = execAmoAdd d a b width scope order s := rfl
theorem exec_amoSwap {d a b width scope order s} : exec (.amoSwap d a b width scope order) s = execAmoSwap d a b width scope order s := rfl
theorem exec_amoCas {d a b width scope order s} : exec (.amoCas d a b width scope order) s = execAmoCas d a b width scope order s := rfl
theorem exec_amoAnd {d a b width scope order s} : exec (.amoAnd d a b width scope order) s = execAmoAnd d a b width scope order s := rfl
theorem exec_amoOr {d a b width scope order s} : exec (.amoOr d a b width scope order) s = execAmoOr d a b width scope order s := rfl
theorem exec_amoXor {d a b width scope order s} : exec (.amoXor d a b width scope order) s = execAmoXor d a b width scope order s := rfl
theorem exec_amoMin {d a b width scope order s} : exec (.amoMin d a b width scope order) s = execAmoMin d a b width scope order s := rfl
theorem exec_amoMax {d a b width scope order s} : exec (.amoMax d a b width scope order) s = execAmoMax d a b width scope order s := rfl
theorem exec_amoMinu {d a b width scope order s} : exec (.amoMinu d a b width scope order) s = execAmoMinu d a b width scope order s := rfl
theorem exec_amoMaxu {d a b width scope order s} : exec (.amoMaxu d a b width scope order) s = execAmoMaxu d a b width scope order s := rfl
theorem exec_amoFadd {d a b width scope order s} : exec (.amoFadd d a b width scope order) s = execAmoFadd d a b width scope order s := rfl
theorem exec_xadd {a b scope order s} : exec (.xadd a b scope order) s = execXadd a b scope order s := rfl
theorem exec_xrd {d a scope order s} : exec (.xrd d a scope order) s = execXrd d a scope order s := rfl
theorem exec_evadd {d a b s} : exec (.evadd d a b) s = execEvadd d a b s := rfl
theorem exec_evwait {d a b s} : exec (.evwait d a b) s = execEvwait d a b s := rfl
theorem exec_evrd {d a s} : exec (.evrd d a) s = execEvrd d a s := rfl
theorem exec_pbt {bn imm s} : exec (.pbt bn imm) s = execPbt bn imm s := rfl
theorem exec_pbr {bn a s} : exec (.pbr bn a) s = execPbr bn a s := rfl
theorem exec_br {bn x s} : exec (.br bn x) s = execBr bn x s := rfl
theorem exec_brl {bn d s} : exec (.brl bn d) s = execBrl bn d s := rfl
theorem exec_loopHw {n a imm s} : exec (.loopHw n a imm) s = execLoopHw n a imm s := rfl
theorem exec_trap {n s} : exec (.trap n) s = execTrap n s := rfl
theorem exec_syscall {d a s} : exec (.syscall d a) s = execSyscall d a s := rfl
theorem exec_fence {scope s} : exec (.fence scope) s = execFence scope s := rfl
theorem exec_phase {scope s} : exec (.phase scope) s = execPhase scope s := rfl
theorem exec_phasePub {scope s} : exec (.phasePub scope) s = execPhasePub scope s := rfl
theorem exec_phaseRef {scope s} : exec (.phaseRef scope) s = execPhaseRef scope s := rfl
theorem exec_repA {a s} : exec (.repA a) s = execRepA a s := rfl
theorem exec_repi {n s} : exec (.repi n) s = execRepi n s := rfl
theorem exec_lcget {d n s} : exec (.lcget d n) s = execLcget d n s := rfl
theorem exec_lcbwait {a s} : exec (.lcbwait a) s = execLcbwait a s := rfl
theorem exec_relrow {a s} : exec (.relrow a) s = execRelrow a s := rfl
theorem exec_relmat {a s} : exec (.relmat a) s = execRelmat a s := rfl
theorem exec_semraise {n s} : exec (.semraise n) s = execSemraise n s := rfl
theorem exec_semwait {n s} : exec (.semwait n) s = execSemwait n s := rfl
theorem exec_bsel {k s} : exec (.bsel k) s = execBsel k s := rfl
theorem exec_bbarm {n a s} : exec (.bbarm n a) s = execBbarm n a s := rfl
theorem exec_bbwait {n s} : exec (.bbwait n) s = execBbwait n s := rfl
theorem exec_cbcons {n a s} : exec (.cbcons n a) s = execCbcons n a s := rfl
theorem exec_cbset {n a s} : exec (.cbset n a) s = execCbset n a s := rfl
theorem exec_empty {a s} : exec (.empty a) s = execEmpty a s := rfl
theorem exec_fullset {a s} : exec (.fullset a) s = execFullset a s := rfl
theorem exec_pwr {bank state s} : exec (.pwr bank state) s = execPwr bank state s := rfl
theorem exec_rcinitEnc {x a s} : exec (.rcinitEnc x a) s = execRcinitEnc x a s := rfl
theorem exec_rcinitDec {x a s} : exec (.rcinitDec x a) s = execRcinitDec x a s := rfl
theorem exec_rcenc {x y a s} : exec (.rcenc x y a) s = execRcenc x y a s := rfl
theorem exec_rcdec {d x y s} : exec (.rcdec d x y) s = execRcdec d x y s := rfl
theorem exec_rcdecn {x k s} : exec (.rcdecn x k) s = execRcdecn x k s := rfl
theorem exec_rcflush {x s} : exec (.rcflush x) s = execRcflush x s := rfl
theorem exec_rcsave {x a s} : exec (.rcsave x a) s = execRcsave x a s := rfl
theorem exec_rcload {x a s} : exec (.rcload x a) s = execRcload x a s := rfl
theorem exec_cdld {y a s} : exec (.cdld y a) s = execCdld y a s := rfl
theorem exec_cdsave {y a s} : exec (.cdsave y a) s = execCdsave y a s := rfl
theorem exec_swopen {n a s} : exec (.swopen n a) s = execSwopen n a s := rfl
theorem exec_swstep {n s} : exec (.swstep n) s = execSwstep n s := rfl
theorem exec_swcommit {d n a s} : exec (.swcommit d n a) s = execSwcommit d n a s := rfl
theorem exec_swabort {n s} : exec (.swabort n) s = execSwabort n s := rfl
theorem exec_swalloc {d n s} : exec (.swalloc d n) s = execSwalloc d n s := rfl
theorem exec_swstat {d n s} : exec (.swstat d n) s = execSwstat d n s := rfl
theorem exec_relc {c d a bn s} : exec (.relc c d a bn) s = execRelc c d a bn s := rfl
theorem exec_tjoin {a s} : exec (.tjoin a) s = execTjoin a s := rfl
theorem exec_fpop {d a s} : exec (.fpop d a) s = execFpop d a s := rfl
theorem exec_rowNotify {f s} : exec (.rowNotify f) s = execRowNotify f s := rfl
theorem exec_vnop {f s} : exec (.vnop f) s = execVnop f s := rfl
theorem exec_vadd {f s} : exec (.vadd f) s = execVadd f s := rfl
theorem exec_vsub {f s} : exec (.vsub f) s = execVsub f s := rfl
theorem exec_vmul {f s} : exec (.vmul f) s = execVmul f s := rfl
theorem exec_vfma {f s} : exec (.vfma f) s = execVfma f s := rfl
theorem exec_vfms {f s} : exec (.vfms f) s = execVfms f s := rfl
theorem exec_vdiv {f s} : exec (.vdiv f) s = execVdiv f s := rfl
theorem exec_vsqrt {f s} : exec (.vsqrt f) s = execVsqrt f s := rfl
theorem exec_vmin {f s} : exec (.vmin f) s = execVmin f s := rfl
theorem exec_vmax {f s} : exec (.vmax f) s = execVmax f s := rfl
theorem exec_vabs {f s} : exec (.vabs f) s = execVabs f s := rfl
theorem exec_vneg {f s} : exec (.vneg f) s = execVneg f s := rfl
theorem exec_vand {f s} : exec (.vand f) s = execVand f s := rfl
theorem exec_vor {f s} : exec (.vor f) s = execVor f s := rfl
theorem exec_vxor {f s} : exec (.vxor f) s = execVxor f s := rfl
theorem exec_vshl {f s} : exec (.vshl f) s = execVshl f s := rfl
theorem exec_vshr {f s} : exec (.vshr f) s = execVshr f s := rfl
theorem exec_vmov {f s} : exec (.vmov f) s = execVmov f s := rfl
theorem exec_vsel {f s} : exec (.vsel f) s = execVsel f s := rfl
theorem exec_vcmpEq {f s} : exec (.vcmpEq f) s = execVcmpEq f s := rfl
theorem exec_vcmpNe {f s} : exec (.vcmpNe f) s = execVcmpNe f s := rfl
theorem exec_vcmpLt {f s} : exec (.vcmpLt f) s = execVcmpLt f s := rfl
theorem exec_vcmpLe {f s} : exec (.vcmpLe f) s = execVcmpLe f s := rfl
theorem exec_vcmpGt {f s} : exec (.vcmpGt f) s = execVcmpGt f s := rfl
theorem exec_vcmpUn {f s} : exec (.vcmpUn f) s = execVcmpUn f s := rfl
theorem exec_vpand {f s} : exec (.vpand f) s = execVpand f s := rfl
theorem exec_vpor {f s} : exec (.vpor f) s = execVpor f s := rfl
theorem exec_vpnot {f s} : exec (.vpnot f) s = execVpnot f s := rfl
theorem exec_vvoteAny {f s} : exec (.vvoteAny f) s = execVvoteAny f s := rfl
theorem exec_vvoteAll {f s} : exec (.vvoteAll f) s = execVvoteAll f s := rfl
theorem exec_vcvt {f s} : exec (.vcvt f) s = execVcvt f s := rfl
theorem exec_vqnt {f s} : exec (.vqnt f) s = execVqnt f s := rfl
theorem exec_vqchk {f s} : exec (.vqchk f) s = execVqchk f s := rfl
theorem exec_vexp {f s} : exec (.vexp f) s = execVexp f s := rfl
theorem exec_vln {f s} : exec (.vln f) s = execVln f s := rfl
theorem exec_vtanh {f s} : exec (.vtanh f) s = execVtanh f s := rfl
theorem exec_vsigm {f s} : exec (.vsigm f) s = execVsigm f s := rfl
theorem exec_vrsqrt {f s} : exec (.vrsqrt f) s = execVrsqrt f s := rfl
theorem exec_vrcp {f s} : exec (.vrcp f) s = execVrcp f s := rfl
theorem exec_vsin {f s} : exec (.vsin f) s = execVsin f s := rfl
theorem exec_vcos {f s} : exec (.vcos f) s = execVcos f s := rfl
theorem exec_vrsum {f s} : exec (.vrsum f) s = execVrsum f s := rfl
theorem exec_vrmax {f s} : exec (.vrmax f) s = execVrmax f s := rfl
theorem exec_vrmin {f s} : exec (.vrmin f) s = execVrmin f s := rfl
theorem exec_vrargmax {f s} : exec (.vrargmax f) s = execVrargmax f s := rfl
theorem exec_vdot {f s} : exec (.vdot f) s = execVdot f s := rfl
theorem exec_vxacc {f s} : exec (.vxacc f) s = execVxacc f s := rfl
theorem exec_vnoise {f s} : exec (.vnoise f) s = execVnoise f s := rfl
theorem exec_vcdf {f s} : exec (.vcdf f) s = execVcdf f s := rfl
theorem exec_vld {f s} : exec (.vld f) s = execVld f s := rfl
theorem exec_vst {f s} : exec (.vst f) s = execVst f s := rfl
theorem exec_vperm {f s} : exec (.vperm f) s = execVperm f s := rfl
theorem exec_vbcast {f s} : exec (.vbcast f) s = execVbcast f s := rfl
theorem exec_vext {f s} : exec (.vext f) s = execVext f s := rfl
theorem exec_vtopk {f s} : exec (.vtopk f) s = execVtopk f s := rfl
theorem exec_vsmax {f s} : exec (.vsmax f) s = execVsmax f s := rfl
theorem exec_matNotify {f s} : exec (.matNotify f) s = execMatNotify f s := rfl
theorem exec_mnop {f s} : exec (.mnop f) s = execMnop f s := rfl
theorem exec_mmul {f s} : exec (.mmul f) s = execMmul f s := rfl
theorem exec_mmv {f s} : exec (.mmv f) s = execMmv f s := rfl
theorem exec_mtr {f s} : exec (.mtr f) s = execMtr f s := rfl
theorem exec_mperm {f s} : exec (.mperm f) s = execMperm f s := rfl
theorem exec_mrred {f s} : exec (.mrred f) s = execMrred f s := rfl
theorem exec_mrd {f s} : exec (.mrd f) s = execMrd f s := rfl
theorem exec_mwr {f s} : exec (.mwr f) s = execMwr f s := rfl
theorem exec_mclr {f s} : exec (.mclr f) s = execMclr f s := rfl
theorem exec_smpLdc {row n s} : exec (.smpLdc row n) s = execSmpLdc row n s := rfl
theorem exec_smpMask {a b s} : exec (.smpMask a b) s = execSmpMask a b s := rfl
theorem exec_smpTemp {a s} : exec (.smpTemp a) s = execSmpTemp a s := rfl
theorem exec_smpTopk {a s} : exec (.smpTopk a) s = execSmpTopk a s := rfl
theorem exec_smpTopp {a s} : exec (.smpTopp a) s = execSmpTopp a s := rfl
theorem exec_smpArgmax {d s} : exec (.smpArgmax d) s = execSmpArgmax d s := rfl
theorem exec_smpAccept {d a b s} : exec (.smpAccept d a b) s = execSmpAccept d a b s := rfl
theorem exec_smpEmit {a s} : exec (.smpEmit a) s = execSmpEmit a s := rfl
theorem exec_smpStat {d s} : exec (.smpStat d) s = execSmpStat d s := rfl
theorem exec_smpMovx {d a s} : exec (.smpMovx d a) s = execSmpMovx d a s := rfl
theorem exec_smpMovk {d a s} : exec (.smpMovk d a) s = execSmpMovk d a s := rfl
theorem exec_smpLdx {d addr s} : exec (.smpLdx d addr) s = execSmpLdx d addr s := rfl
theorem exec_smpLdk {d imm s} : exec (.smpLdk d imm) s = execSmpLdk d imm s := rfl
theorem exec_smpSeed {addr s} : exec (.smpSeed addr) s = execSmpSeed addr s := rfl
theorem exec_smpPosadd {imm s} : exec (.smpPosadd imm) s = execSmpPosadd imm s := rfl
theorem exec_illegalInstruction {w s} : exec (.illegalInstruction w) s = execIllegalInstruction w s := rfl
theorem exec_illFormedWord {ring w s} : exec (.illFormedWord ring w) s = execIllFormedWord ring w s := rfl
theorem exec_illformedSamplerWord {w s} : exec (.illformedSamplerWord w) s = execIllformedSamplerWord w s := rfl
theorem exec_firmwareUpdate {f s} : exec (.firmwareUpdate f) s = execFirmwareUpdate f s := rfl
theorem exec_atsPriCapabilityWrite {vi ats pri s} : exec (.atsPriCapabilityWrite vi ats pri) s = execAtsPriCapabilityWrite vi ats pri s := rfl
theorem exec_warmRestart {s} : exec .warmRestart s = execWarmRestart s := rfl
theorem exec_hotReset {s} : exec .hotReset s = execHotReset s := rfl
theorem exec_timingReplay {s} : exec .timingReplay s = execTimingReplay s := rfl
theorem exec_fllStep {s} : exec .fllStep s = execFllStep s := rfl
theorem exec_ldoWindow {s} : exec .ldoWindow s = execLdoWindow s := rfl
theorem exec_cfreqWrite {s} : exec .cfreqWrite s = execCfreqWrite s := rfl
theorem exec_ccapWrite {s} : exec .ccapWrite s = execCcapWrite s := rfl
theorem exec_replaytgtWrite {s} : exec .replaytgtWrite s = execReplaytgtWrite s := rfl
theorem exec_einjWrite {s} : exec .einjWrite s = execEinjWrite s := rfl
theorem exec_atommodeWrite {s} : exec .atommodeWrite s = execAtommodeWrite s := rfl
theorem exec_infieldTest {s} : exec .infieldTest s = execInfieldTest s := rfl
theorem exec_pubctlStart {s} : exec .pubctlStart s = execPubctlStart s := rfl
theorem exec_pubctlResetring {s} : exec .pubctlResetring s = execPubctlResetring s := rfl
theorem exec_overrun {s} : exec .overrun s = execOverrun s := rfl
theorem exec_load {s} : exec .load s = execLoad s := rfl
theorem exec_launch {s} : exec .launch s = execLaunch s := rfl
theorem exec_unload {s} : exec .unload s = execUnload s := rfl
theorem exec_nopEntry {s} : exec .nopEntry s = execNopEntry s := rfl
theorem exec_viset {s} : exec .viset s = execViset s := rfl
theorem exec_keyset {s} : exec .keyset s = execKeyset s := rfl
theorem exec_ctxnew {s} : exec .ctxnew s = execCtxnew s := rfl
theorem exec_ctxfree {s} : exec .ctxfree s = execCtxfree s := rfl
theorem exec_peerset {s} : exec .peerset s = execPeerset s := rfl
theorem exec_routeset {s} : exec .routeset s = execRouteset s := rfl
theorem exec_clockset {s} : exec .clockset s = execClockset s := rfl
theorem exec_mapPage {s} : exec .mapPage s = execMapPage s := rfl
theorem exec_vireset {s} : exec .vireset s = execVireset s := rfl
theorem exec_attestation {s} : exec .attestation s = execAttestation s := rfl
theorem exec_energyRecordWrite {s} : exec .energyRecordWrite s = execEnergyRecordWrite s := rfl
theorem exec_peerRead {s} : exec .peerRead s = execPeerRead s := rfl
theorem exec_peerWrite {s} : exec .peerWrite s = execPeerWrite s := rfl
theorem exec_peerAtomic {s} : exec .peerAtomic s = execPeerAtomic s := rfl
theorem exec_exactAccumulate {s} : exec .exactAccumulate s = execExactAccumulate s := rfl
theorem exec_eventCounterAdd {s} : exec .eventCounterAdd s = execEventCounterAdd s := rfl
theorem exec_readResponse {s} : exec .readResponse s = execReadResponse s := rfl
theorem exec_writeAcknowledge {s} : exec .writeAcknowledge s = execWriteAcknowledge s := rfl
theorem exec_atomicResponse {s} : exec .atomicResponse s = execAtomicResponse s := rfl
theorem exec_errorResponse {s} : exec .errorResponse s = execErrorResponse s := rfl
theorem exec_replayRequest {s} : exec .replayRequest s = execReplayRequest s := rfl
theorem exec_peerLinkDown {s} : exec .peerLinkDown s = execPeerLinkDown s := rfl
theorem exec_priTimeout {s} : exec .priTimeout s = execPriTimeout s := rfl
theorem exec_invalidationCompletion {s} : exec .invalidationCompletion s = execInvalidationCompletion s := rfl
theorem exec_tableWalk {s} : exec .tableWalk s = execTableWalk s := rfl
theorem exec_dispatch {s} : exec .dispatch s = execDispatch s := rfl
theorem exec_preemption {s} : exec .preemption s = execPreemption s := rfl
theorem exec_preemptionSave {s} : exec .preemptionSave s = execPreemptionSave s := rfl
theorem exec_itemStart {s} : exec .itemStart s = execItemStart s := rfl
theorem exec_taskResume {s} : exec .taskResume s = execTaskResume s := rfl
theorem exec_gangResume {s} : exec .gangResume s = execGangResume s := rfl
theorem exec_batchSnapshot {s} : exec .batchSnapshot s = execBatchSnapshot s := rfl
theorem exec_rampWindow {s} : exec .rampWindow s = execRampWindow s := rfl
theorem exec_completionEvent {s} : exec .completionEvent s = execCompletionEvent s := rfl
theorem exec_orderedFaddApply {s} : exec .orderedFaddApply s = execOrderedFaddApply s := rfl
theorem exec_launchEnd {s} : exec .launchEnd s = execLaunchEnd s := rfl
theorem exec_trapDelivery {s} : exec .trapDelivery s = execTrapDelivery s := rfl
theorem exec_engineFault {s} : exec .engineFault s = execEngineFault s := rfl
theorem exec_stalledOnEmpty {s} : exec .stalledOnEmpty s = execStalledOnEmpty s := rfl
theorem exec_windowLogWaitTimeout {s} : exec .windowLogWaitTimeout s = execWindowLogWaitTimeout s := rfl
theorem exec_mxRaise {s} : exec .mxRaise s = execMxRaise s := rfl
theorem exec_mxEventAdd {s} : exec .mxEventAdd s = execMxEventAdd s := rfl
theorem exec_mxCopyStart {s} : exec .mxCopyStart s = execMxCopyStart s := rfl
theorem exec_mxCounterReset {s} : exec .mxCounterReset s = execMxCounterReset s := rfl
theorem exec_copyLineIssue {s} : exec .copyLineIssue s = execCopyLineIssue s := rfl
theorem exec_copyReplyPop {s} : exec .copyReplyPop s = execCopyReplyPop s := rfl
theorem exec_copyFinish {s} : exec .copyFinish s = execCopyFinish s := rfl
theorem exec_followOnWord {s} : exec .followOnWord s = execFollowOnWord s := rfl
theorem exec_samplerStart {s} : exec .samplerStart s = execSamplerStart s := rfl
theorem exec_samplerReply {s} : exec .samplerReply s = execSamplerReply s := rfl
theorem exec_samplerStallTimeout {s} : exec .samplerStallTimeout s = execSamplerStallTimeout s := rfl
theorem exec_pagealloc {s} : exec .pagealloc s = execPagealloc s := rfl
theorem exec_pagefree {s} : exec .pagefree s = execPagefree s := rfl
theorem exec_layoutset {s} : exec .layoutset s = execLayoutset s := rfl
theorem exec_logrec {s} : exec .logrec s = execLogrec s := rfl
theorem exec_restartRowRing {s} : exec .restartRowRing s = execRestartRowRing s := rfl
theorem exec_restartMatrixRing {s} : exec .restartMatrixRing s = execRestartMatrixRing s := rfl
theorem exec_smpclr {s} : exec .smpclr s = execSmpclr s := rfl
theorem exec_nop {s} : exec .nop s = execNop s := rfl
theorem exec_done {s} : exec .done s = execDone s := rfl
theorem exec_tret {s} : exec .tret s = execTret s := rfl
theorem exec_bopen {s} : exec .bopen s = execBopen s := rfl
theorem exec_bswitch {s} : exec .bswitch s = execBswitch s := rfl
theorem exec_smpEndp {s} : exec .smpEndp s = execSmpEndp s := rfl
theorem exec_smpNorm {s} : exec .smpNorm s = execSmpNorm s := rfl
theorem exec_smpGumb {s} : exec .smpGumb s = execSmpGumb s := rfl
theorem exec_reservedKindEntry {s} : exec .reservedKindEntry s = execReservedKindEntry s := rfl

end Sys2Proof.Machine
end

