-- ==== Sys2Proof/Laws/Store.lean ====
section
/-! SUPPORT. The laws of the sparse store: a read after a write, that a write leaves other keys alone, and that the canonical form is kept. -/

namespace Sys2Proof.Machine

variable {α : Type}

theorem Store.get_drop_same (d : α) (m : Store α) (k : Nat) : (m.drop k).get d k = d := by
  induction m with
  | nil => rfl
  | cons p m ih =>
    obtain ⟨j, v⟩ := p
    by_cases h : j = k
    · simp [Store.drop, h, ih]
    · simp [Store.drop, Store.get, h, ih]

theorem Store.get_drop_ne (d : α) (m : Store α) {k j : Nat} (h : j ≠ k) :
    (m.drop k).get d j = m.get d j := by
  induction m with
  | nil => rfl
  | cons p m ih =>
    obtain ⟨i, v⟩ := p
    by_cases hi : i = k
    · subst hi
      have hne : ¬ i = j := fun e => h e.symm
      simp [Store.drop, Store.get, ih, hne]
    · by_cases hj : i = j
      · simp [Store.drop, Store.get, hj, h]
      · simp [Store.drop, Store.get, hi, hj, ih]

theorem Store.get_ins_ne (d : α) (m : Store α) {k j : Nat} (v : α) (h : j ≠ k) :
    (m.ins k v).get d j = m.get d j := by
  have hk : ¬ k = j := fun e => h e.symm
  induction m with
  | nil => simp [Store.ins, Store.get, hk]
  | cons p m ih =>
    obtain ⟨i, w⟩ := p
    by_cases hi : k < i
    · simp [Store.ins, Store.get, hi, hk]
    · by_cases hj : i = j
      · subst hj; simp [Store.ins, Store.get, hi]
      · simp [Store.ins, Store.get, hi, hj, ih]

theorem Store.get_ins_same (d : α) (m : Store α) (k : Nat) (v : α) (h : ∀ w, (k, w) ∉ m) :
    (m.ins k v).get d k = v := by
  induction m with
  | nil => simp [Store.ins, Store.get]
  | cons p m ih =>
    obtain ⟨i, w⟩ := p
    have hik : i ≠ k := fun e => h w (by simp [e])
    have hm : ∀ w, (k, w) ∉ m := fun w' hw => h w' (List.mem_cons_of_mem _ hw)
    by_cases hi : k < i
    · simp [Store.ins, Store.get, hi]
    · simp [Store.ins, Store.get, hi, hik, ih hm]

theorem Store.not_mem_drop (m : Store α) (k : Nat) (w : α) : (k, w) ∉ m.drop k := by
  induction m with
  | nil => simp [Store.drop]
  | cons p m ih =>
    obtain ⟨i, v⟩ := p
    by_cases h : i = k
    · simpa [Store.drop, h] using ih
    · have hk : ¬ k = i := fun e => h e.symm
      simp [Store.drop, h, ih, hk]

variable [DecidableEq α]

@[simp] theorem Store.get_put_same (d : α) (m : Store α) (k : Nat) (v : α) :
    (m.put d k v).get d k = v := by
  unfold Store.put
  split
  · next h => rw [h, Store.get_drop_same]
  · exact Store.get_ins_same d _ k v (Store.not_mem_drop m k)

theorem Store.get_put_ne (d : α) (m : Store α) {k j : Nat} (v : α) (h : j ≠ k) :
    (m.put d k v).get d j = m.get d j := by
  unfold Store.put
  split
  · exact Store.get_drop_ne d m h
  · rw [Store.get_ins_ne d _ v h, Store.get_drop_ne d m h]

/-- A read after a write, in one equation. -/
theorem Store.get_put (d : α) (m : Store α) (k j : Nat) (v : α) :
    (m.put d k v).get d j = if j = k then v else m.get d j := by
  by_cases h : j = k
  · simp [h]
  · simp [h, Store.get_put_ne d m v h]

@[simp] theorem Store.get_upd_same (d : α) (m : Store α) (k : Nat) (f : α → α) :
    (m.upd d k f).get d k = f (m.get d k) := by simp [Store.upd]

theorem Store.get_upd_ne (d : α) (m : Store α) {k j : Nat} (f : α → α) (h : j ≠ k) :
    (m.upd d k f).get d j = m.get d j := Store.get_put_ne d m _ h

omit [DecidableEq α] in
theorem Store.above_mono {m : Store α} {a b : Nat} (hab : a ≤ b) (h : m.above b = true) :
    m.above a = true := by
  induction m with
  | nil => rfl
  | cons p m ih =>
    simp [Store.above] at h ⊢
    exact ⟨by omega, ih h.2⟩

omit [DecidableEq α] in
theorem Store.above_drop {m : Store α} {a k : Nat} (h : m.above a = true) :
    (m.drop k).above a = true := by
  induction m with
  | nil => rfl
  | cons p m ih =>
    simp [Store.above] at h
    simp only [Store.drop]
    split
    · exact ih h.2
    · simp [Store.above, h.1, ih h.2]

theorem Store.wf_drop {d : α} {m : Store α} {k : Nat} (h : m.wf d = true) :
    (m.drop k).wf d = true := by
  induction m with
  | nil => rfl
  | cons p m ih =>
    simp [Store.wf] at h
    simp only [Store.drop]
    split
    · exact ih h.2
    · simp [Store.wf, h.1.1, Store.above_drop h.1.2, ih h.2]

omit [DecidableEq α] in
theorem Store.above_ins {m : Store α} {a k : Nat} {v : α} (hk : a < k) (h : m.above a = true) :
    (m.ins k v).above a = true := by
  induction m with
  | nil => simp [Store.ins, Store.above, hk]
  | cons p m ih =>
    simp [Store.above] at h
    simp only [Store.ins]
    split
    · simp [Store.above, hk, h.1, h.2]
    · simp [Store.above, h.1, ih h.2]

theorem Store.wf_ins {d : α} {m : Store α} {k : Nat} {v : α} (hv : v ≠ d)
    (hm : ∀ w, (k, w) ∉ m) (h : m.wf d = true) : (m.ins k v).wf d = true := by
  induction m with
  | nil => simp [Store.ins, Store.wf, Store.above, hv]
  | cons p m ih =>
    obtain ⟨i, w⟩ := p
    simp [Store.wf] at h
    have hik : i ≠ k := fun e => hm w (by simp [e])
    have hm' : ∀ w, (k, w) ∉ m := fun w' hw => hm w' (List.mem_cons_of_mem _ hw)
    simp only [Store.ins]
    split
    · next hlt =>
      simp [Store.wf, Store.above, hv, hlt, h.1.1, h.1.2, h.2, Store.above_mono (by omega : k ≤ i) h.1.2]
    · next hlt =>
      simp [Store.wf, h.1.1, ih hm' h.2, Store.above_ins (by omega : i < k) h.1.2]

/-- Every write keeps the canonical form. -/
theorem Store.wf_put {d : α} {m : Store α} (k : Nat) (v : α) (h : m.wf d = true) :
    (m.put d k v).wf d = true := by
  unfold Store.put
  split
  · exact Store.wf_drop h
  · next hv => exact Store.wf_ins hv (Store.not_mem_drop m k) (Store.wf_drop h)

theorem Store.wf_upd {d : α} {m : Store α} (k : Nat) (f : α → α) (h : m.wf d = true) :
    (m.upd d k f).wf d = true := Store.wf_put k _ h

theorem Store.above_mapVals {d : α} {f : Nat → α → α} {m : Store α} {a : Nat} (h : m.above a = true) :
    (m.mapVals d f).above a = true := by
  induction m with
  | nil => rfl
  | cons p m ih =>
    obtain ⟨j, v⟩ := p
    simp [Store.above] at h
    simp only [Store.mapVals]
    split
    · exact Store.above_drop (ih h.2)
    · simp [Store.above, h.1, ih h.2]

/-- Mapping keeps the canonical form. -/
theorem Store.wf_mapVals {d : α} {f : Nat → α → α} {m : Store α} (h : m.wf d = true) :
    (m.mapVals d f).wf d = true := by
  induction m with
  | nil => rfl
  | cons p m ih =>
    obtain ⟨j, v⟩ := p
    simp [Store.wf] at h
    simp only [Store.mapVals]
    split
    · exact Store.wf_drop (ih h.2)
    · next hv => simp [Store.wf, hv, Store.above_mapVals h.1.2, ih h.2]

/-- A read after a mapping that keeps the default. -/
theorem Store.get_mapVals {d : α} {f : Nat → α → α} (hd : ∀ k, f k d = d) (m : Store α) (k : Nat) :
    (m.mapVals d f).get d k = f k (m.get d k) := by
  induction m with
  | nil => simp [Store.mapVals, Store.get, hd]
  | cons p m ih =>
    obtain ⟨j, v⟩ := p
    by_cases hk : j = k
    · subst hk
      by_cases hv : f j v = d
      · simp [Store.mapVals, Store.get, hv, Store.get_drop_same]
      · simp [Store.mapVals, Store.get, hv]
    · have hk' : k ≠ j := fun e => hk e.symm
      by_cases hv : f j v = d
      · simp [Store.mapVals, Store.get, hv, hk, Store.get_drop_ne d _ hk', ih]
      · simp [Store.mapVals, Store.get, hv, hk, ih]

/-- A list of bytes written keeps the canonical form. -/
theorem Memory.wf_writeBytes (bs : List Byte) : ∀ (m : Memory) (a : Nat), m.wf = true →
    (m.writeBytes a bs).wf = true := by
  induction bs with
  | nil => intro m a h; exact h
  | cons b bs ih => intro m a h; exact ih _ _ (Store.wf_put a b h)

theorem Memory.wf_setNum (m : Memory) (a n x : Nat) (h : m.wf = true) :
    (m.setNum a n x).wf = true := Memory.wf_writeBytes _ m a h

/-- A list of bytes written leaves every address outside it alone. -/
theorem Memory.read_writeBytes_outside (bs : List Byte) : ∀ (m : Memory) (a j : Nat),
    (j < a ∨ a + bs.length ≤ j) → (m.writeBytes a bs).read j = m.read j := by
  induction bs with
  | nil => intro m a j _; rfl
  | cons b bs ih =>
    intro m a j h
    simp only [List.length_cons] at h
    have h1 : (Memory.writeBytes (m.write a b) (a + 1) bs).read j = (m.write a b).read j :=
      ih _ _ _ (by omega)
    have h2 : (m.write a b).read j = m.read j := Store.get_put_ne 0 m b (by omega)
    exact h1.trans h2

end Sys2Proof.Machine
end

