-- ==== Sys2Proof/Laws/Memory.lean ====
section
/-! SUPPORT. The laws of byte memory: reads after writes of ranges and numbers, and that every operation keeps the canonical form, which memory has after reset. -/

namespace Sys2Proof.Machine

/-! ### Canonical form -/

theorem Store.above_filter {α : Type} {m : Store α} {a : Nat} (p : Nat × α → Bool) (h : m.above a = true) : Store.above a (m.filter p) = true := by
  induction m with
  | nil => rfl
  | cons q m ih =>
    simp only [Store.above, Bool.and_eq_true, decide_eq_true_eq] at h
    rw [List.filter_cons]
    split
    · simp [Store.above, h.1, ih h.2]
    · exact ih h.2

theorem Store.wf_filter {α : Type} [DecidableEq α] {d : α} {m : Store α} (p : Nat × α → Bool) (h : m.wf d = true) : Store.wf d (m.filter p) = true := by
  induction m with
  | nil => rfl
  | cons q m ih =>
    simp only [Store.wf, Bool.and_eq_true] at h
    rw [List.filter_cons]
    split
    · simp only [Store.wf, Bool.and_eq_true]; exact ⟨⟨h.1.1, Store.above_filter p h.1.2⟩, ih h.2⟩
    · exact ih h.2

theorem Store.above_append {α : Type} {m r : Store α} {a : Nat} (hm : m.above a = true) (hr : r.above a = true) : Store.above a (m ++ r) = true := by
  induction m with
  | nil => exact hr
  | cons q m ih =>
    simp only [Store.above, Bool.and_eq_true] at hm
    simp only [List.cons_append, Store.above, Bool.and_eq_true]
    exact ⟨hm.1, ih hm.2⟩

/-- Two canonical stores of which the first lies below the second make one. -/
theorem Store.wf_append {α : Type} [DecidableEq α] {d : α} {m r : Store α} (hm : m.wf d = true) (hr : r.wf d = true)
    (h : ∀ p ∈ m, r.above p.1 = true) : Store.wf d (m ++ r) = true := by
  induction m with
  | nil => exact hr
  | cons q m ih =>
    simp only [Store.wf, Bool.and_eq_true] at hm
    simp only [List.cons_append, Store.wf, Bool.and_eq_true]
    exact ⟨⟨hm.1.1, Store.above_append hm.1.2 (h q (by simp))⟩, ih hm.2 (fun p hp => h p (by simp [hp]))⟩

theorem Store.above_of_mem {α : Type} {m : Store α} {a : Nat} (h : ∀ p ∈ m, a < p.1) : m.above a = true := by
  induction m with
  | nil => rfl
  | cons q m ih =>
    simp only [Store.above, Bool.and_eq_true, decide_eq_true_eq]
    exact ⟨h q (by simp), ih (fun p hp => h p (by simp [hp]))⟩

theorem Memory.mem_entries (bs : List Byte) : ∀ (a : Nat) (p : Nat × Byte), p ∈ Memory.entries a bs → a ≤ p.1 ∧ p.1 < a + bs.length := by
  induction bs with
  | nil => intro a p h; simp [Memory.entries] at h
  | cons b bs ih =>
    intro a p h
    simp only [Memory.entries] at h
    split at h
    · have := ih _ _ h; simp only [List.length_cons]; omega
    · rcases List.mem_cons.1 h with rfl | h
      · simp only [List.length_cons]; omega
      · have := ih _ _ h; simp only [List.length_cons]; omega

theorem Memory.wf_entries (bs : List Byte) : ∀ a : Nat, (Memory.entries a bs).wf = true := by
  induction bs with
  | nil => intro a; rfl
  | cons b bs ih =>
    intro a
    simp only [Memory.entries]
    split
    · exact ih _
    · next hb =>
      have h1 : Store.above a (Memory.entries (a + 1) bs) = true :=
        Store.above_of_mem (fun p hp => by have := (Memory.mem_entries bs _ p hp).1; omega)
      have h2 : Store.wf 0 (Memory.entries (a + 1) bs) = true := ih _
      simp only [Store.wf, Bool.and_eq_true, decide_eq_true_eq]
      exact ⟨⟨hb, h1⟩, h2⟩

/-- A range set in one pass keeps the canonical form. -/
theorem Memory.wf_setPart (m : Memory) (a : Nat) (bs : List Byte) (h : m.wf = true) : (m.setPart a bs).wf = true := by
  unfold Memory.setPart
  refine Store.wf_append (Store.wf_append (Store.wf_filter _ h) (Memory.wf_entries bs a) ?_) (Store.wf_filter _ h) ?_
  · intro p hp
    have := (List.mem_filter.1 hp).2
    simp only [decide_eq_true_eq] at this
    exact Store.above_of_mem (fun q hq => by have := (Memory.mem_entries bs a q hq).1; omega)
  · intro p hp
    refine Store.above_of_mem (fun q hq => ?_)
    have hq := (List.mem_filter.1 hq).2
    simp only [decide_eq_true_eq] at hq
    rcases List.mem_append.1 hp with hp | hp
    · have := (List.mem_filter.1 hp).2
      simp only [decide_eq_true_eq] at this
      omega
    · have := (Memory.mem_entries bs a p hp).2; omega

/-- Device memory has the canonical form after reset. -/
theorem reset_mem_wf : State.reset.mem.wf = true := rfl

/-- Host memory has the canonical form after reset. -/
theorem reset_hostMem_wf : State.reset.hostMem.wf = true := rfl

/-! ### Reads after writes -/

@[simp] theorem length_toBytes (n x : Nat) : (toBytes n x).length = n := by
  induction n generalizing x with
  | zero => rfl
  | succ n ih => simp [toBytes, ih]

@[simp] theorem Memory.length_bytes (m : Memory) (n : Nat) : ∀ a, (m.bytes a n).length = n := by
  induction n with
  | zero => intro a; rfl
  | succ n ih => intro a; simp [Memory.bytes, ih]

/-- The number that n bytes of x hold. -/
theorem ofBytes_toBytes (n : Nat) : ∀ x : Nat, ofBytes (toBytes n x) = x % 256 ^ n := by
  induction n with
  | zero => intro x; simp [toBytes, ofBytes, Nat.mod_one]
  | succ n ih =>
    intro x
    rw [toBytes, ofBytes, ih, BitVec.toNat_ofNat, Nat.pow_succ 256 n, Nat.mul_comm (256 ^ n) 256, Nat.mod_mul]

/-- Bytes depend on what the range reads alone. -/
theorem Memory.bytes_congr {m r : Memory} (n : Nat) : ∀ a, (∀ j, a ≤ j → j < a + n → m.read j = r.read j) → m.bytes a n = r.bytes a n := by
  induction n with
  | zero => intro a _; rfl
  | succ n ih =>
    intro a h
    simp only [Memory.bytes]
    rw [h a (by omega) (by omega), ih (a + 1) (fun j h1 h2 => h j (by omega) (by omega))]

theorem Store.get_filter {α : Type} (d : α) (p : Nat → Bool) (m : Store α) (k : Nat) :
    Store.get d (m.filter (fun q => p q.1)) k = if p k then m.get d k else d := by
  induction m with
  | nil => simp [Store.get]
  | cons q m ih =>
    obtain ⟨j, v⟩ := q
    rw [List.filter_cons]
    by_cases hj : j = k
    · subst hj
      by_cases hp : p j = true
      · simp [hp, Store.get]
      · simp [hp] at ih ⊢; exact ih
    · by_cases hp : p j = true
      · simp [hp, Store.get, hj, ih]
      · simp [hp, Store.get, hj, ih]

/-- part reads what bytes reads. -/
theorem Memory.part_eq_bytes (m : Memory) (a n : Nat) : m.part a n = m.bytes a n := by
  unfold Memory.part
  refine Memory.bytes_congr n a (fun j h1 h2 => ?_)
  have := Store.get_filter (0 : Byte) (fun k => decide (a ≤ k ∧ k < a + n)) m j
  simp only [Memory.read]
  rw [this, if_pos (by simp [h1, h2])]

theorem Store.get_append {α : Type} (d : α) (m r : Store α) (k : Nat) (h : ∀ p ∈ m, p.1 ≠ k) : Store.get d (m ++ r) k = r.get d k := by
  induction m with
  | nil => rfl
  | cons q m ih =>
    have hq : q.1 ≠ k := h q (by simp)
    simp only [List.cons_append, Store.get, if_neg hq]
    exact ih (fun p hp => h p (by simp [hp]))

/-- A key of a store whose other part does not hold it. -/
theorem Store.get_append_left {α : Type} (d : α) (m r : Store α) (k : Nat) (h : ∀ p ∈ r, p.1 ≠ k) : Store.get d (m ++ r) k = m.get d k := by
  induction m with
  | nil =>
    simp only [List.nil_append]
    have := Store.get_append d r [] k h
    simpa using this
  | cons q m ih =>
    simp only [List.cons_append, Store.get]
    split
    · rfl
    · exact ih

theorem Memory.read_entries (bs : List Byte) : ∀ a j : Nat, (Memory.entries a bs).read j = if a ≤ j ∧ j < a + bs.length then bs.getD (j - a) 0 else 0 := by
  induction bs with
  | nil => intro a j; simp [Memory.entries, Memory.read, Store.get]
  | cons b bs ih =>
    intro a j
    simp only [Memory.entries, List.length_cons]
    by_cases hj : j = a
    · subst hj
      split
      · next hb => rw [ih, if_neg (by omega), if_pos (by omega)]; simp [hb]
      · simp [Memory.read, Store.get]
    · have hne : ¬ a = j := fun e => hj e.symm
      have key : (Memory.entries (a + 1) bs).read j = if a ≤ j ∧ j < a + (bs.length + 1) then (b :: bs).getD (j - a) 0 else 0 := by
        rw [ih]
        by_cases hr : a + 1 ≤ j ∧ j < a + 1 + bs.length
        · rw [if_pos hr, if_pos (by omega)]
          have : j - a = (j - (a + 1)) + 1 := by omega
          rw [this, List.getD_cons_succ]
        · rw [if_neg hr, if_neg (by omega)]
      split
      · exact key
      · simpa [Memory.read, Store.get, hne] using key

/-- What a byte reads after a range is set. -/
theorem Memory.read_setPart (m : Memory) (a : Nat) (bs : List Byte) (j : Nat) :
    (m.setPart a bs).read j = if a ≤ j ∧ j < a + bs.length then bs.getD (j - a) 0 else m.read j := by
  unfold Memory.setPart
  have hlow : ∀ p ∈ m.filter (fun p => decide (p.1 < a)), p.1 < a := fun p hp => by simpa using (List.mem_filter.1 hp).2
  have hhigh : ∀ p ∈ m.filter (fun p => decide (a + bs.length ≤ p.1)), a + bs.length ≤ p.1 := fun p hp => by simpa using (List.mem_filter.1 hp).2
  by_cases h1 : j < a
  · rw [if_neg (by omega)]
    simp only [Memory.read]
    rw [Store.get_append_left 0 _ _ j (fun p hp => by have := hhigh p hp; omega),
      Store.get_append_left 0 _ _ j (fun p hp => by have := (Memory.mem_entries bs a p hp).1; omega),
      Store.get_filter 0 (fun k => decide (k < a)) m j, if_pos (by simpa using h1)]
  · by_cases h2 : j < a + bs.length
    · rw [if_pos (by omega)]
      simp only [Memory.read]
      rw [Store.get_append_left 0 _ _ j (fun p hp => by have := hhigh p hp; omega),
        Store.get_append 0 _ _ j (fun p hp => by have := hlow p hp; omega)]
      have := Memory.read_entries bs a j
      simp only [Memory.read] at this
      rw [this, if_pos (by omega)]
    · rw [if_neg (by omega)]
      simp only [Memory.read]
      rw [Store.get_append 0 _ _ j (fun p hp => by
          rcases List.mem_append.1 hp with hp | hp
          · have := hlow p hp; omega
          · have := (Memory.mem_entries bs a p hp).2; omega),
        Store.get_filter 0 (fun k => decide (a + bs.length ≤ k)) m j, if_pos (by simp; omega)]

/-- What a byte reads after a list of bytes is written. -/
theorem Memory.read_writeBytes (bs : List Byte) : ∀ (m : Memory) (a j : Nat),
    (m.writeBytes a bs).read j = if a ≤ j ∧ j < a + bs.length then bs.getD (j - a) 0 else m.read j := by
  induction bs with
  | nil => intro m a j; rw [if_neg (by simp)]; rfl
  | cons b bs ih =>
    intro m a j
    simp only [Memory.writeBytes, List.length_cons]
    rw [ih]
    by_cases h : j = a
    · subst h
      rw [if_neg (by omega), if_pos (by omega)]
      simp [Memory.read, Memory.write]
    · by_cases hr : a + 1 ≤ j ∧ j < a + 1 + bs.length
      · rw [if_pos hr, if_pos (by omega)]
        have : j - a = (j - (a + 1)) + 1 := by omega
        rw [this, List.getD_cons_succ]
      · rw [if_neg hr, if_neg (by omega)]
        exact Store.get_put_ne 0 m b h

/-- The bytes written read back. -/
theorem Memory.bytes_writeBytes (m : Memory) (bs : List Byte) : ∀ a, (m.writeBytes a bs).bytes a bs.length = bs := by
  have aux : ∀ (n : Nat) (r : Memory) (a : Nat) (l : List Byte), l.length = n → (∀ j, a ≤ j → j < a + n → r.read j = l.getD (j - a) 0) → r.bytes a n = l := by
    intro n
    induction n with
    | zero => intro r a l hl _; simp [List.length_eq_zero_iff.1 hl, Memory.bytes]
    | succ n ih =>
      intro r a l hl h
      cases l with
      | nil => simp at hl
      | cons b l =>
        simp only [List.length_cons, Nat.add_right_cancel_iff] at hl
        simp only [Memory.bytes]
        have h0 := h a (by omega) (by omega)
        simp only [Nat.sub_self, List.getD_cons_zero] at h0
        rw [h0, ih r (a + 1) l hl (fun j h1 h2 => by
          have := h j (by omega) (by omega)
          rw [this]
          have e : j - a = (j - (a + 1)) + 1 := by omega
          rw [e, List.getD_cons_succ])]
  intro a
  exact aux bs.length _ a bs rfl (fun j h1 h2 => by rw [Memory.read_writeBytes, if_pos ⟨h1, h2⟩])

/-- A number stored reads back modulo its width. -/
theorem Memory.num_setNum (m : Memory) (a n x : Nat) : (m.setNum a n x).num a n = x % 256 ^ n := by
  unfold Memory.num Memory.setNum
  have := Memory.bytes_writeBytes m (toBytes n x) a
  rw [length_toBytes] at this
  rw [this, ofBytes_toBytes]

end Sys2Proof.Machine
end

