-- ==== Sys2Proof/Laws/State.lean ====
section
/-! SUPPORT. What each update of a part of the state leaves alone and what it sets, one lemma per field. -/

namespace Sys2Proof.Machine

/-! ### State.updPhys -/

@[simp] theorem State.updPhys_tick (s : State) (c : Nat) (f : Phys → Phys) : (s.updPhys c f).tick = s.tick := rfl
@[simp] theorem State.updPhys_agenda (s : State) (c : Nat) (f : Phys → Phys) : (s.updPhys c f).agenda = s.agenda := rfl
@[simp] theorem State.updPhys_cur (s : State) (c : Nat) (f : Phys → Phys) : (s.updPhys c f).cur = s.cur := rfl
@[simp] theorem State.updPhys_boot (s : State) (c : Nat) (f : Phys → Phys) : (s.updPhys c f).boot = s.boot := rfl
@[simp] theorem State.updPhys_bootCause (s : State) (c : Nat) (f : Phys → Phys) : (s.updPhys c f).bootCause = s.bootCause := rfl
@[simp] theorem State.updPhys_flash (s : State) (c : Nat) (f : Phys → Phys) : (s.updPhys c f).flash = s.flash := rfl
@[simp] theorem State.updPhys_fwKern (s : State) (c : Nat) (f : Phys → Phys) : (s.updPhys c f).fwKern = s.fwKern := rfl
@[simp] theorem State.updPhys_fwStage1 (s : State) (c : Nat) (f : Phys → Phys) : (s.updPhys c f).fwStage1 = s.fwStage1 := rfl
@[simp] theorem State.updPhys_keySlot (s : State) (c : Nat) (f : Phys → Phys) : (s.updPhys c f).keySlot = s.keySlot := rfl
@[simp] theorem State.updPhys_fuseRevoked (s : State) (c : Nat) (f : Phys → Phys) : (s.updPhys c f).fuseRevoked = s.fuseRevoked := rfl
@[simp] theorem State.updPhys_coremap (s : State) (c : Nat) (f : Phys → Phys) : (s.updPhys c f).coremap = s.coremap := rfl
@[simp] theorem State.updPhys_serial (s : State) (c : Nat) (f : Phys → Phys) : (s.updPhys c f).serial = s.serial := rfl
@[simp] theorem State.updPhys_devid (s : State) (c : Nat) (f : Phys → Phys) : (s.updPhys c f).devid = s.devid := rfl
@[simp] theorem State.updPhys_measure (s : State) (c : Nat) (f : Phys → Phys) : (s.updPhys c f).measure = s.measure := rfl
@[simp] theorem State.updPhys_measure1 (s : State) (c : Nat) (f : Phys → Phys) : (s.updPhys c f).measure1 = s.measure1 := rfl
@[simp] theorem State.updPhys_fuseKeys (s : State) (c : Nat) (f : Phys → Phys) : (s.updPhys c f).fuseKeys = s.fuseKeys := rfl
@[simp] theorem State.updPhys_idSecret (s : State) (c : Nat) (f : Phys → Phys) : (s.updPhys c f).idSecret = s.idSecret := rfl
@[simp] theorem State.updPhys_route (s : State) (c : Nat) (f : Phys → Phys) : (s.updPhys c f).route = s.route := rfl
@[simp] theorem State.updPhys_clusters (s : State) (c : Nat) (f : Phys → Phys) : (s.updPhys c f).clusters = s.clusters := rfl
@[simp] theorem State.updPhys_slices (s : State) (c : Nat) (f : Phys → Phys) : (s.updPhys c f).slices = s.slices := rfl
@[simp] theorem State.updPhys_ports (s : State) (c : Nat) (f : Phys → Phys) : (s.updPhys c f).ports = s.ports := rfl
@[simp] theorem State.updPhys_vis (s : State) (c : Nat) (f : Phys → Phys) : (s.updPhys c f).vis = s.vis := rfl
@[simp] theorem State.updPhys_counters (s : State) (c : Nat) (f : Phys → Phys) : (s.updPhys c f).counters = s.counters := rfl
@[simp] theorem State.updPhys_blks (s : State) (c : Nat) (f : Phys → Phys) : (s.updPhys c f).blks = s.blks := rfl
@[simp] theorem State.updPhys_ctxs (s : State) (c : Nat) (f : Phys → Phys) : (s.updPhys c f).ctxs = s.ctxs := rfl
@[simp] theorem State.updPhys_mem (s : State) (c : Nat) (f : Phys → Phys) : (s.updPhys c f).mem = s.mem := rfl
@[simp] theorem State.updPhys_mpoison (s : State) (c : Nat) (f : Phys → Phys) : (s.updPhys c f).mpoison = s.mpoison := rfl
@[simp] theorem State.updPhys_hostMem (s : State) (c : Nat) (f : Phys → Phys) : (s.updPhys c f).hostMem = s.hostMem := rfl
@[simp] theorem State.updPhys_hostBad (s : State) (c : Nat) (f : Phys → Phys) : (s.updPhys c f).hostBad = s.hostBad := rfl
@[simp] theorem State.updPhys_frames (s : State) (c : Nat) (f : Phys → Phys) : (s.updPhys c f).frames = s.frames := rfl
@[simp] theorem State.updPhys_allocHint (s : State) (c : Nat) (f : Phys → Phys) : (s.updPhys c f).allocHint = s.allocHint := rfl
@[simp] theorem State.updPhys_seqs (s : State) (c : Nat) (f : Phys → Phys) : (s.updPhys c f).seqs = s.seqs := rfl
@[simp] theorem State.updPhys_launches (s : State) (c : Nat) (f : Phys → Phys) : (s.updPhys c f).launches = s.launches := rfl
@[simp] theorem State.updPhys_nextLaunch (s : State) (c : Nat) (f : Phys → Phys) : (s.updPhys c f).nextLaunch = s.nextLaunch := rfl
@[simp] theorem State.updPhys_atc (s : State) (c : Nat) (f : Phys → Phys) : (s.updPhys c f).atc = s.atc := rfl
@[simp] theorem State.updPhys_ctlb (s : State) (c : Nat) (f : Phys → Phys) : (s.updPhys c f).ctlb = s.ctlb := rfl
@[simp] theorem State.updPhys_walks (s : State) (c : Nat) (f : Phys → Phys) : (s.updPhys c f).walks = s.walks := rfl
@[simp] theorem State.updPhys_atsReqs (s : State) (c : Nat) (f : Phys → Phys) : (s.updPhys c f).atsReqs = s.atsReqs := rfl
@[simp] theorem State.updPhys_invals (s : State) (c : Nat) (f : Phys → Phys) : (s.updPhys c f).invals = s.invals := rfl
@[simp] theorem State.updPhys_peerReqs (s : State) (c : Nat) (f : Phys → Phys) : (s.updPhys c f).peerReqs = s.peerReqs := rfl
@[simp] theorem State.updPhys_nextTag (s : State) (c : Nat) (f : Phys → Phys) : (s.updPhys c f).nextTag = s.nextTag := rfl
@[simp] theorem State.updPhys_rx (s : State) (c : Nat) (f : Phys → Phys) : (s.updPhys c f).rx = s.rx := rfl
@[simp] theorem State.updPhys_tx (s : State) (c : Nat) (f : Phys → Phys) : (s.updPhys c f).tx = s.tx := rfl
@[simp] theorem State.updPhys_msix (s : State) (c : Nat) (f : Phys → Phys) : (s.updPhys c f).msix = s.msix := rfl
@[simp] theorem State.updPhys_faults (s : State) (c : Nat) (f : Phys → Phys) : (s.updPhys c f).faults = s.faults := rfl
@[simp] theorem State.updPhys_hist (s : State) (c : Nat) (f : Phys → Phys) : (s.updPhys c f).hist = s.hist := rfl
@[simp] theorem State.updPhys_evKnow (s : State) (c : Nat) (f : Phys → Phys) : (s.updPhys c f).evKnow = s.evKnow := rfl
@[simp] theorem State.updPhys_itemKnow (s : State) (c : Nat) (f : Phys → Phys) : (s.updPhys c f).itemKnow = s.itemKnow := rfl
@[simp] theorem State.updPhys_farKnow (s : State) (c : Nat) (f : Phys → Phys) : (s.updPhys c f).farKnow = s.farKnow := rfl
@[simp] theorem State.updPhys_oldAtc (s : State) (c : Nat) (f : Phys → Phys) : (s.updPhys c f).oldAtc = s.oldAtc := rfl
@[simp] theorem State.updPhys_oldLeaves (s : State) (c : Nat) (f : Phys → Phys) : (s.updPhys c f).oldLeaves = s.oldLeaves := rfl
@[simp] theorem State.updPhys_tables (s : State) (c : Nat) (f : Phys → Phys) : (s.updPhys c f).tables = s.tables := rfl
@[simp] theorem State.updPhys_requests (s : State) (c : Nat) (f : Phys → Phys) : (s.updPhys c f).requests = s.requests := rfl

/-! ### State.updCore -/

@[simp] theorem State.updCore_tick (s : State) (c : Nat) (f : Core → Core) : (s.updCore c f).tick = s.tick := rfl
@[simp] theorem State.updCore_agenda (s : State) (c : Nat) (f : Core → Core) : (s.updCore c f).agenda = s.agenda := rfl
@[simp] theorem State.updCore_cur (s : State) (c : Nat) (f : Core → Core) : (s.updCore c f).cur = s.cur := rfl
@[simp] theorem State.updCore_boot (s : State) (c : Nat) (f : Core → Core) : (s.updCore c f).boot = s.boot := rfl
@[simp] theorem State.updCore_bootCause (s : State) (c : Nat) (f : Core → Core) : (s.updCore c f).bootCause = s.bootCause := rfl
@[simp] theorem State.updCore_flash (s : State) (c : Nat) (f : Core → Core) : (s.updCore c f).flash = s.flash := rfl
@[simp] theorem State.updCore_fwKern (s : State) (c : Nat) (f : Core → Core) : (s.updCore c f).fwKern = s.fwKern := rfl
@[simp] theorem State.updCore_fwStage1 (s : State) (c : Nat) (f : Core → Core) : (s.updCore c f).fwStage1 = s.fwStage1 := rfl
@[simp] theorem State.updCore_keySlot (s : State) (c : Nat) (f : Core → Core) : (s.updCore c f).keySlot = s.keySlot := rfl
@[simp] theorem State.updCore_fuseRevoked (s : State) (c : Nat) (f : Core → Core) : (s.updCore c f).fuseRevoked = s.fuseRevoked := rfl
@[simp] theorem State.updCore_coremap (s : State) (c : Nat) (f : Core → Core) : (s.updCore c f).coremap = s.coremap := rfl
@[simp] theorem State.updCore_serial (s : State) (c : Nat) (f : Core → Core) : (s.updCore c f).serial = s.serial := rfl
@[simp] theorem State.updCore_devid (s : State) (c : Nat) (f : Core → Core) : (s.updCore c f).devid = s.devid := rfl
@[simp] theorem State.updCore_measure (s : State) (c : Nat) (f : Core → Core) : (s.updCore c f).measure = s.measure := rfl
@[simp] theorem State.updCore_measure1 (s : State) (c : Nat) (f : Core → Core) : (s.updCore c f).measure1 = s.measure1 := rfl
@[simp] theorem State.updCore_fuseKeys (s : State) (c : Nat) (f : Core → Core) : (s.updCore c f).fuseKeys = s.fuseKeys := rfl
@[simp] theorem State.updCore_idSecret (s : State) (c : Nat) (f : Core → Core) : (s.updCore c f).idSecret = s.idSecret := rfl
@[simp] theorem State.updCore_route (s : State) (c : Nat) (f : Core → Core) : (s.updCore c f).route = s.route := rfl
@[simp] theorem State.updCore_clusters (s : State) (c : Nat) (f : Core → Core) : (s.updCore c f).clusters = s.clusters := rfl
@[simp] theorem State.updCore_slices (s : State) (c : Nat) (f : Core → Core) : (s.updCore c f).slices = s.slices := rfl
@[simp] theorem State.updCore_ports (s : State) (c : Nat) (f : Core → Core) : (s.updCore c f).ports = s.ports := rfl
@[simp] theorem State.updCore_vis (s : State) (c : Nat) (f : Core → Core) : (s.updCore c f).vis = s.vis := rfl
@[simp] theorem State.updCore_counters (s : State) (c : Nat) (f : Core → Core) : (s.updCore c f).counters = s.counters := rfl
@[simp] theorem State.updCore_blks (s : State) (c : Nat) (f : Core → Core) : (s.updCore c f).blks = s.blks := rfl
@[simp] theorem State.updCore_ctxs (s : State) (c : Nat) (f : Core → Core) : (s.updCore c f).ctxs = s.ctxs := rfl
@[simp] theorem State.updCore_mem (s : State) (c : Nat) (f : Core → Core) : (s.updCore c f).mem = s.mem := rfl
@[simp] theorem State.updCore_mpoison (s : State) (c : Nat) (f : Core → Core) : (s.updCore c f).mpoison = s.mpoison := rfl
@[simp] theorem State.updCore_hostMem (s : State) (c : Nat) (f : Core → Core) : (s.updCore c f).hostMem = s.hostMem := rfl
@[simp] theorem State.updCore_hostBad (s : State) (c : Nat) (f : Core → Core) : (s.updCore c f).hostBad = s.hostBad := rfl
@[simp] theorem State.updCore_frames (s : State) (c : Nat) (f : Core → Core) : (s.updCore c f).frames = s.frames := rfl
@[simp] theorem State.updCore_allocHint (s : State) (c : Nat) (f : Core → Core) : (s.updCore c f).allocHint = s.allocHint := rfl
@[simp] theorem State.updCore_seqs (s : State) (c : Nat) (f : Core → Core) : (s.updCore c f).seqs = s.seqs := rfl
@[simp] theorem State.updCore_launches (s : State) (c : Nat) (f : Core → Core) : (s.updCore c f).launches = s.launches := rfl
@[simp] theorem State.updCore_nextLaunch (s : State) (c : Nat) (f : Core → Core) : (s.updCore c f).nextLaunch = s.nextLaunch := rfl
@[simp] theorem State.updCore_atc (s : State) (c : Nat) (f : Core → Core) : (s.updCore c f).atc = s.atc := rfl
@[simp] theorem State.updCore_ctlb (s : State) (c : Nat) (f : Core → Core) : (s.updCore c f).ctlb = s.ctlb := rfl
@[simp] theorem State.updCore_walks (s : State) (c : Nat) (f : Core → Core) : (s.updCore c f).walks = s.walks := rfl
@[simp] theorem State.updCore_atsReqs (s : State) (c : Nat) (f : Core → Core) : (s.updCore c f).atsReqs = s.atsReqs := rfl
@[simp] theorem State.updCore_invals (s : State) (c : Nat) (f : Core → Core) : (s.updCore c f).invals = s.invals := rfl
@[simp] theorem State.updCore_peerReqs (s : State) (c : Nat) (f : Core → Core) : (s.updCore c f).peerReqs = s.peerReqs := rfl
@[simp] theorem State.updCore_nextTag (s : State) (c : Nat) (f : Core → Core) : (s.updCore c f).nextTag = s.nextTag := rfl
@[simp] theorem State.updCore_rx (s : State) (c : Nat) (f : Core → Core) : (s.updCore c f).rx = s.rx := rfl
@[simp] theorem State.updCore_tx (s : State) (c : Nat) (f : Core → Core) : (s.updCore c f).tx = s.tx := rfl
@[simp] theorem State.updCore_msix (s : State) (c : Nat) (f : Core → Core) : (s.updCore c f).msix = s.msix := rfl
@[simp] theorem State.updCore_faults (s : State) (c : Nat) (f : Core → Core) : (s.updCore c f).faults = s.faults := rfl
@[simp] theorem State.updCore_hist (s : State) (c : Nat) (f : Core → Core) : (s.updCore c f).hist = s.hist := rfl
@[simp] theorem State.updCore_evKnow (s : State) (c : Nat) (f : Core → Core) : (s.updCore c f).evKnow = s.evKnow := rfl
@[simp] theorem State.updCore_itemKnow (s : State) (c : Nat) (f : Core → Core) : (s.updCore c f).itemKnow = s.itemKnow := rfl
@[simp] theorem State.updCore_farKnow (s : State) (c : Nat) (f : Core → Core) : (s.updCore c f).farKnow = s.farKnow := rfl
@[simp] theorem State.updCore_oldAtc (s : State) (c : Nat) (f : Core → Core) : (s.updCore c f).oldAtc = s.oldAtc := rfl
@[simp] theorem State.updCore_oldLeaves (s : State) (c : Nat) (f : Core → Core) : (s.updCore c f).oldLeaves = s.oldLeaves := rfl
@[simp] theorem State.updCore_tables (s : State) (c : Nat) (f : Core → Core) : (s.updCore c f).tables = s.tables := rfl
@[simp] theorem State.updCore_requests (s : State) (c : Nat) (f : Core → Core) : (s.updCore c f).requests = s.requests := rfl

/-! ### State.updCx -/

@[simp] theorem State.updCx_tick (s : State) (c x : Nat) (f : Ctx → Ctx) : (s.updCx c x f).tick = s.tick := rfl
@[simp] theorem State.updCx_agenda (s : State) (c x : Nat) (f : Ctx → Ctx) : (s.updCx c x f).agenda = s.agenda := rfl
@[simp] theorem State.updCx_cur (s : State) (c x : Nat) (f : Ctx → Ctx) : (s.updCx c x f).cur = s.cur := rfl
@[simp] theorem State.updCx_boot (s : State) (c x : Nat) (f : Ctx → Ctx) : (s.updCx c x f).boot = s.boot := rfl
@[simp] theorem State.updCx_bootCause (s : State) (c x : Nat) (f : Ctx → Ctx) : (s.updCx c x f).bootCause = s.bootCause := rfl
@[simp] theorem State.updCx_flash (s : State) (c x : Nat) (f : Ctx → Ctx) : (s.updCx c x f).flash = s.flash := rfl
@[simp] theorem State.updCx_fwKern (s : State) (c x : Nat) (f : Ctx → Ctx) : (s.updCx c x f).fwKern = s.fwKern := rfl
@[simp] theorem State.updCx_fwStage1 (s : State) (c x : Nat) (f : Ctx → Ctx) : (s.updCx c x f).fwStage1 = s.fwStage1 := rfl
@[simp] theorem State.updCx_keySlot (s : State) (c x : Nat) (f : Ctx → Ctx) : (s.updCx c x f).keySlot = s.keySlot := rfl
@[simp] theorem State.updCx_fuseRevoked (s : State) (c x : Nat) (f : Ctx → Ctx) : (s.updCx c x f).fuseRevoked = s.fuseRevoked := rfl
@[simp] theorem State.updCx_coremap (s : State) (c x : Nat) (f : Ctx → Ctx) : (s.updCx c x f).coremap = s.coremap := rfl
@[simp] theorem State.updCx_serial (s : State) (c x : Nat) (f : Ctx → Ctx) : (s.updCx c x f).serial = s.serial := rfl
@[simp] theorem State.updCx_devid (s : State) (c x : Nat) (f : Ctx → Ctx) : (s.updCx c x f).devid = s.devid := rfl
@[simp] theorem State.updCx_measure (s : State) (c x : Nat) (f : Ctx → Ctx) : (s.updCx c x f).measure = s.measure := rfl
@[simp] theorem State.updCx_measure1 (s : State) (c x : Nat) (f : Ctx → Ctx) : (s.updCx c x f).measure1 = s.measure1 := rfl
@[simp] theorem State.updCx_fuseKeys (s : State) (c x : Nat) (f : Ctx → Ctx) : (s.updCx c x f).fuseKeys = s.fuseKeys := rfl
@[simp] theorem State.updCx_idSecret (s : State) (c x : Nat) (f : Ctx → Ctx) : (s.updCx c x f).idSecret = s.idSecret := rfl
@[simp] theorem State.updCx_route (s : State) (c x : Nat) (f : Ctx → Ctx) : (s.updCx c x f).route = s.route := rfl
@[simp] theorem State.updCx_clusters (s : State) (c x : Nat) (f : Ctx → Ctx) : (s.updCx c x f).clusters = s.clusters := rfl
@[simp] theorem State.updCx_slices (s : State) (c x : Nat) (f : Ctx → Ctx) : (s.updCx c x f).slices = s.slices := rfl
@[simp] theorem State.updCx_ports (s : State) (c x : Nat) (f : Ctx → Ctx) : (s.updCx c x f).ports = s.ports := rfl
@[simp] theorem State.updCx_vis (s : State) (c x : Nat) (f : Ctx → Ctx) : (s.updCx c x f).vis = s.vis := rfl
@[simp] theorem State.updCx_counters (s : State) (c x : Nat) (f : Ctx → Ctx) : (s.updCx c x f).counters = s.counters := rfl
@[simp] theorem State.updCx_blks (s : State) (c x : Nat) (f : Ctx → Ctx) : (s.updCx c x f).blks = s.blks := rfl
@[simp] theorem State.updCx_ctxs (s : State) (c x : Nat) (f : Ctx → Ctx) : (s.updCx c x f).ctxs = s.ctxs := rfl
@[simp] theorem State.updCx_mem (s : State) (c x : Nat) (f : Ctx → Ctx) : (s.updCx c x f).mem = s.mem := rfl
@[simp] theorem State.updCx_mpoison (s : State) (c x : Nat) (f : Ctx → Ctx) : (s.updCx c x f).mpoison = s.mpoison := rfl
@[simp] theorem State.updCx_hostMem (s : State) (c x : Nat) (f : Ctx → Ctx) : (s.updCx c x f).hostMem = s.hostMem := rfl
@[simp] theorem State.updCx_hostBad (s : State) (c x : Nat) (f : Ctx → Ctx) : (s.updCx c x f).hostBad = s.hostBad := rfl
@[simp] theorem State.updCx_frames (s : State) (c x : Nat) (f : Ctx → Ctx) : (s.updCx c x f).frames = s.frames := rfl
@[simp] theorem State.updCx_allocHint (s : State) (c x : Nat) (f : Ctx → Ctx) : (s.updCx c x f).allocHint = s.allocHint := rfl
@[simp] theorem State.updCx_seqs (s : State) (c x : Nat) (f : Ctx → Ctx) : (s.updCx c x f).seqs = s.seqs := rfl
@[simp] theorem State.updCx_launches (s : State) (c x : Nat) (f : Ctx → Ctx) : (s.updCx c x f).launches = s.launches := rfl
@[simp] theorem State.updCx_nextLaunch (s : State) (c x : Nat) (f : Ctx → Ctx) : (s.updCx c x f).nextLaunch = s.nextLaunch := rfl
@[simp] theorem State.updCx_atc (s : State) (c x : Nat) (f : Ctx → Ctx) : (s.updCx c x f).atc = s.atc := rfl
@[simp] theorem State.updCx_ctlb (s : State) (c x : Nat) (f : Ctx → Ctx) : (s.updCx c x f).ctlb = s.ctlb := rfl
@[simp] theorem State.updCx_walks (s : State) (c x : Nat) (f : Ctx → Ctx) : (s.updCx c x f).walks = s.walks := rfl
@[simp] theorem State.updCx_atsReqs (s : State) (c x : Nat) (f : Ctx → Ctx) : (s.updCx c x f).atsReqs = s.atsReqs := rfl
@[simp] theorem State.updCx_invals (s : State) (c x : Nat) (f : Ctx → Ctx) : (s.updCx c x f).invals = s.invals := rfl
@[simp] theorem State.updCx_peerReqs (s : State) (c x : Nat) (f : Ctx → Ctx) : (s.updCx c x f).peerReqs = s.peerReqs := rfl
@[simp] theorem State.updCx_nextTag (s : State) (c x : Nat) (f : Ctx → Ctx) : (s.updCx c x f).nextTag = s.nextTag := rfl
@[simp] theorem State.updCx_rx (s : State) (c x : Nat) (f : Ctx → Ctx) : (s.updCx c x f).rx = s.rx := rfl
@[simp] theorem State.updCx_tx (s : State) (c x : Nat) (f : Ctx → Ctx) : (s.updCx c x f).tx = s.tx := rfl
@[simp] theorem State.updCx_msix (s : State) (c x : Nat) (f : Ctx → Ctx) : (s.updCx c x f).msix = s.msix := rfl
@[simp] theorem State.updCx_faults (s : State) (c x : Nat) (f : Ctx → Ctx) : (s.updCx c x f).faults = s.faults := rfl
@[simp] theorem State.updCx_hist (s : State) (c x : Nat) (f : Ctx → Ctx) : (s.updCx c x f).hist = s.hist := rfl
@[simp] theorem State.updCx_evKnow (s : State) (c x : Nat) (f : Ctx → Ctx) : (s.updCx c x f).evKnow = s.evKnow := rfl
@[simp] theorem State.updCx_itemKnow (s : State) (c x : Nat) (f : Ctx → Ctx) : (s.updCx c x f).itemKnow = s.itemKnow := rfl
@[simp] theorem State.updCx_farKnow (s : State) (c x : Nat) (f : Ctx → Ctx) : (s.updCx c x f).farKnow = s.farKnow := rfl
@[simp] theorem State.updCx_oldAtc (s : State) (c x : Nat) (f : Ctx → Ctx) : (s.updCx c x f).oldAtc = s.oldAtc := rfl
@[simp] theorem State.updCx_oldLeaves (s : State) (c x : Nat) (f : Ctx → Ctx) : (s.updCx c x f).oldLeaves = s.oldLeaves := rfl
@[simp] theorem State.updCx_tables (s : State) (c x : Nat) (f : Ctx → Ctx) : (s.updCx c x f).tables = s.tables := rfl
@[simp] theorem State.updCx_requests (s : State) (c x : Nat) (f : Ctx → Ctx) : (s.updCx c x f).requests = s.requests := rfl

/-! ### State.updVi -/

@[simp] theorem State.updVi_tick (s : State) (v : Nat) (f : Vi → Vi) : (s.updVi v f).tick = s.tick := rfl
@[simp] theorem State.updVi_agenda (s : State) (v : Nat) (f : Vi → Vi) : (s.updVi v f).agenda = s.agenda := rfl
@[simp] theorem State.updVi_cur (s : State) (v : Nat) (f : Vi → Vi) : (s.updVi v f).cur = s.cur := rfl
@[simp] theorem State.updVi_boot (s : State) (v : Nat) (f : Vi → Vi) : (s.updVi v f).boot = s.boot := rfl
@[simp] theorem State.updVi_bootCause (s : State) (v : Nat) (f : Vi → Vi) : (s.updVi v f).bootCause = s.bootCause := rfl
@[simp] theorem State.updVi_flash (s : State) (v : Nat) (f : Vi → Vi) : (s.updVi v f).flash = s.flash := rfl
@[simp] theorem State.updVi_fwKern (s : State) (v : Nat) (f : Vi → Vi) : (s.updVi v f).fwKern = s.fwKern := rfl
@[simp] theorem State.updVi_fwStage1 (s : State) (v : Nat) (f : Vi → Vi) : (s.updVi v f).fwStage1 = s.fwStage1 := rfl
@[simp] theorem State.updVi_keySlot (s : State) (v : Nat) (f : Vi → Vi) : (s.updVi v f).keySlot = s.keySlot := rfl
@[simp] theorem State.updVi_fuseRevoked (s : State) (v : Nat) (f : Vi → Vi) : (s.updVi v f).fuseRevoked = s.fuseRevoked := rfl
@[simp] theorem State.updVi_coremap (s : State) (v : Nat) (f : Vi → Vi) : (s.updVi v f).coremap = s.coremap := rfl
@[simp] theorem State.updVi_serial (s : State) (v : Nat) (f : Vi → Vi) : (s.updVi v f).serial = s.serial := rfl
@[simp] theorem State.updVi_devid (s : State) (v : Nat) (f : Vi → Vi) : (s.updVi v f).devid = s.devid := rfl
@[simp] theorem State.updVi_measure (s : State) (v : Nat) (f : Vi → Vi) : (s.updVi v f).measure = s.measure := rfl
@[simp] theorem State.updVi_measure1 (s : State) (v : Nat) (f : Vi → Vi) : (s.updVi v f).measure1 = s.measure1 := rfl
@[simp] theorem State.updVi_fuseKeys (s : State) (v : Nat) (f : Vi → Vi) : (s.updVi v f).fuseKeys = s.fuseKeys := rfl
@[simp] theorem State.updVi_idSecret (s : State) (v : Nat) (f : Vi → Vi) : (s.updVi v f).idSecret = s.idSecret := rfl
@[simp] theorem State.updVi_route (s : State) (v : Nat) (f : Vi → Vi) : (s.updVi v f).route = s.route := rfl
@[simp] theorem State.updVi_clusters (s : State) (v : Nat) (f : Vi → Vi) : (s.updVi v f).clusters = s.clusters := rfl
@[simp] theorem State.updVi_slices (s : State) (v : Nat) (f : Vi → Vi) : (s.updVi v f).slices = s.slices := rfl
@[simp] theorem State.updVi_ports (s : State) (v : Nat) (f : Vi → Vi) : (s.updVi v f).ports = s.ports := rfl
@[simp] theorem State.updVi_counters (s : State) (v : Nat) (f : Vi → Vi) : (s.updVi v f).counters = s.counters := rfl
@[simp] theorem State.updVi_blks (s : State) (v : Nat) (f : Vi → Vi) : (s.updVi v f).blks = s.blks := rfl
@[simp] theorem State.updVi_ctxs (s : State) (v : Nat) (f : Vi → Vi) : (s.updVi v f).ctxs = s.ctxs := rfl
@[simp] theorem State.updVi_mem (s : State) (v : Nat) (f : Vi → Vi) : (s.updVi v f).mem = s.mem := rfl
@[simp] theorem State.updVi_mpoison (s : State) (v : Nat) (f : Vi → Vi) : (s.updVi v f).mpoison = s.mpoison := rfl
@[simp] theorem State.updVi_hostMem (s : State) (v : Nat) (f : Vi → Vi) : (s.updVi v f).hostMem = s.hostMem := rfl
@[simp] theorem State.updVi_hostBad (s : State) (v : Nat) (f : Vi → Vi) : (s.updVi v f).hostBad = s.hostBad := rfl
@[simp] theorem State.updVi_frames (s : State) (v : Nat) (f : Vi → Vi) : (s.updVi v f).frames = s.frames := rfl
@[simp] theorem State.updVi_allocHint (s : State) (v : Nat) (f : Vi → Vi) : (s.updVi v f).allocHint = s.allocHint := rfl
@[simp] theorem State.updVi_cores (s : State) (v : Nat) (f : Vi → Vi) : (s.updVi v f).cores = s.cores := rfl
@[simp] theorem State.updVi_seqs (s : State) (v : Nat) (f : Vi → Vi) : (s.updVi v f).seqs = s.seqs := rfl
@[simp] theorem State.updVi_launches (s : State) (v : Nat) (f : Vi → Vi) : (s.updVi v f).launches = s.launches := rfl
@[simp] theorem State.updVi_nextLaunch (s : State) (v : Nat) (f : Vi → Vi) : (s.updVi v f).nextLaunch = s.nextLaunch := rfl
@[simp] theorem State.updVi_atc (s : State) (v : Nat) (f : Vi → Vi) : (s.updVi v f).atc = s.atc := rfl
@[simp] theorem State.updVi_ctlb (s : State) (v : Nat) (f : Vi → Vi) : (s.updVi v f).ctlb = s.ctlb := rfl
@[simp] theorem State.updVi_walks (s : State) (v : Nat) (f : Vi → Vi) : (s.updVi v f).walks = s.walks := rfl
@[simp] theorem State.updVi_atsReqs (s : State) (v : Nat) (f : Vi → Vi) : (s.updVi v f).atsReqs = s.atsReqs := rfl
@[simp] theorem State.updVi_invals (s : State) (v : Nat) (f : Vi → Vi) : (s.updVi v f).invals = s.invals := rfl
@[simp] theorem State.updVi_peerReqs (s : State) (v : Nat) (f : Vi → Vi) : (s.updVi v f).peerReqs = s.peerReqs := rfl
@[simp] theorem State.updVi_nextTag (s : State) (v : Nat) (f : Vi → Vi) : (s.updVi v f).nextTag = s.nextTag := rfl
@[simp] theorem State.updVi_rx (s : State) (v : Nat) (f : Vi → Vi) : (s.updVi v f).rx = s.rx := rfl
@[simp] theorem State.updVi_tx (s : State) (v : Nat) (f : Vi → Vi) : (s.updVi v f).tx = s.tx := rfl
@[simp] theorem State.updVi_msix (s : State) (v : Nat) (f : Vi → Vi) : (s.updVi v f).msix = s.msix := rfl
@[simp] theorem State.updVi_faults (s : State) (v : Nat) (f : Vi → Vi) : (s.updVi v f).faults = s.faults := rfl
@[simp] theorem State.updVi_hist (s : State) (v : Nat) (f : Vi → Vi) : (s.updVi v f).hist = s.hist := rfl
@[simp] theorem State.updVi_evKnow (s : State) (v : Nat) (f : Vi → Vi) : (s.updVi v f).evKnow = s.evKnow := rfl
@[simp] theorem State.updVi_itemKnow (s : State) (v : Nat) (f : Vi → Vi) : (s.updVi v f).itemKnow = s.itemKnow := rfl
@[simp] theorem State.updVi_farKnow (s : State) (v : Nat) (f : Vi → Vi) : (s.updVi v f).farKnow = s.farKnow := rfl
@[simp] theorem State.updVi_oldAtc (s : State) (v : Nat) (f : Vi → Vi) : (s.updVi v f).oldAtc = s.oldAtc := rfl
@[simp] theorem State.updVi_oldLeaves (s : State) (v : Nat) (f : Vi → Vi) : (s.updVi v f).oldLeaves = s.oldLeaves := rfl
@[simp] theorem State.updVi_tables (s : State) (v : Nat) (f : Vi → Vi) : (s.updVi v f).tables = s.tables := rfl
@[simp] theorem State.updVi_requests (s : State) (v : Nat) (f : Vi → Vi) : (s.updVi v f).requests = s.requests := rfl

/-! ### State.updCtx -/

@[simp] theorem State.updCtx_tick (s : State) (n : Nat) (f : CtxRec → CtxRec) : (s.updCtx n f).tick = s.tick := rfl
@[simp] theorem State.updCtx_agenda (s : State) (n : Nat) (f : CtxRec → CtxRec) : (s.updCtx n f).agenda = s.agenda := rfl
@[simp] theorem State.updCtx_cur (s : State) (n : Nat) (f : CtxRec → CtxRec) : (s.updCtx n f).cur = s.cur := rfl
@[simp] theorem State.updCtx_boot (s : State) (n : Nat) (f : CtxRec → CtxRec) : (s.updCtx n f).boot = s.boot := rfl
@[simp] theorem State.updCtx_bootCause (s : State) (n : Nat) (f : CtxRec → CtxRec) : (s.updCtx n f).bootCause = s.bootCause := rfl
@[simp] theorem State.updCtx_flash (s : State) (n : Nat) (f : CtxRec → CtxRec) : (s.updCtx n f).flash = s.flash := rfl
@[simp] theorem State.updCtx_fwKern (s : State) (n : Nat) (f : CtxRec → CtxRec) : (s.updCtx n f).fwKern = s.fwKern := rfl
@[simp] theorem State.updCtx_fwStage1 (s : State) (n : Nat) (f : CtxRec → CtxRec) : (s.updCtx n f).fwStage1 = s.fwStage1 := rfl
@[simp] theorem State.updCtx_keySlot (s : State) (n : Nat) (f : CtxRec → CtxRec) : (s.updCtx n f).keySlot = s.keySlot := rfl
@[simp] theorem State.updCtx_fuseRevoked (s : State) (n : Nat) (f : CtxRec → CtxRec) : (s.updCtx n f).fuseRevoked = s.fuseRevoked := rfl
@[simp] theorem State.updCtx_coremap (s : State) (n : Nat) (f : CtxRec → CtxRec) : (s.updCtx n f).coremap = s.coremap := rfl
@[simp] theorem State.updCtx_serial (s : State) (n : Nat) (f : CtxRec → CtxRec) : (s.updCtx n f).serial = s.serial := rfl
@[simp] theorem State.updCtx_devid (s : State) (n : Nat) (f : CtxRec → CtxRec) : (s.updCtx n f).devid = s.devid := rfl
@[simp] theorem State.updCtx_measure (s : State) (n : Nat) (f : CtxRec → CtxRec) : (s.updCtx n f).measure = s.measure := rfl
@[simp] theorem State.updCtx_measure1 (s : State) (n : Nat) (f : CtxRec → CtxRec) : (s.updCtx n f).measure1 = s.measure1 := rfl
@[simp] theorem State.updCtx_fuseKeys (s : State) (n : Nat) (f : CtxRec → CtxRec) : (s.updCtx n f).fuseKeys = s.fuseKeys := rfl
@[simp] theorem State.updCtx_idSecret (s : State) (n : Nat) (f : CtxRec → CtxRec) : (s.updCtx n f).idSecret = s.idSecret := rfl
@[simp] theorem State.updCtx_route (s : State) (n : Nat) (f : CtxRec → CtxRec) : (s.updCtx n f).route = s.route := rfl
@[simp] theorem State.updCtx_clusters (s : State) (n : Nat) (f : CtxRec → CtxRec) : (s.updCtx n f).clusters = s.clusters := rfl
@[simp] theorem State.updCtx_slices (s : State) (n : Nat) (f : CtxRec → CtxRec) : (s.updCtx n f).slices = s.slices := rfl
@[simp] theorem State.updCtx_ports (s : State) (n : Nat) (f : CtxRec → CtxRec) : (s.updCtx n f).ports = s.ports := rfl
@[simp] theorem State.updCtx_vis (s : State) (n : Nat) (f : CtxRec → CtxRec) : (s.updCtx n f).vis = s.vis := rfl
@[simp] theorem State.updCtx_counters (s : State) (n : Nat) (f : CtxRec → CtxRec) : (s.updCtx n f).counters = s.counters := rfl
@[simp] theorem State.updCtx_blks (s : State) (n : Nat) (f : CtxRec → CtxRec) : (s.updCtx n f).blks = s.blks := rfl
@[simp] theorem State.updCtx_mem (s : State) (n : Nat) (f : CtxRec → CtxRec) : (s.updCtx n f).mem = s.mem := rfl
@[simp] theorem State.updCtx_mpoison (s : State) (n : Nat) (f : CtxRec → CtxRec) : (s.updCtx n f).mpoison = s.mpoison := rfl
@[simp] theorem State.updCtx_hostMem (s : State) (n : Nat) (f : CtxRec → CtxRec) : (s.updCtx n f).hostMem = s.hostMem := rfl
@[simp] theorem State.updCtx_hostBad (s : State) (n : Nat) (f : CtxRec → CtxRec) : (s.updCtx n f).hostBad = s.hostBad := rfl
@[simp] theorem State.updCtx_frames (s : State) (n : Nat) (f : CtxRec → CtxRec) : (s.updCtx n f).frames = s.frames := rfl
@[simp] theorem State.updCtx_allocHint (s : State) (n : Nat) (f : CtxRec → CtxRec) : (s.updCtx n f).allocHint = s.allocHint := rfl
@[simp] theorem State.updCtx_cores (s : State) (n : Nat) (f : CtxRec → CtxRec) : (s.updCtx n f).cores = s.cores := rfl
@[simp] theorem State.updCtx_seqs (s : State) (n : Nat) (f : CtxRec → CtxRec) : (s.updCtx n f).seqs = s.seqs := rfl
@[simp] theorem State.updCtx_launches (s : State) (n : Nat) (f : CtxRec → CtxRec) : (s.updCtx n f).launches = s.launches := rfl
@[simp] theorem State.updCtx_nextLaunch (s : State) (n : Nat) (f : CtxRec → CtxRec) : (s.updCtx n f).nextLaunch = s.nextLaunch := rfl
@[simp] theorem State.updCtx_atc (s : State) (n : Nat) (f : CtxRec → CtxRec) : (s.updCtx n f).atc = s.atc := rfl
@[simp] theorem State.updCtx_ctlb (s : State) (n : Nat) (f : CtxRec → CtxRec) : (s.updCtx n f).ctlb = s.ctlb := rfl
@[simp] theorem State.updCtx_walks (s : State) (n : Nat) (f : CtxRec → CtxRec) : (s.updCtx n f).walks = s.walks := rfl
@[simp] theorem State.updCtx_atsReqs (s : State) (n : Nat) (f : CtxRec → CtxRec) : (s.updCtx n f).atsReqs = s.atsReqs := rfl
@[simp] theorem State.updCtx_invals (s : State) (n : Nat) (f : CtxRec → CtxRec) : (s.updCtx n f).invals = s.invals := rfl
@[simp] theorem State.updCtx_peerReqs (s : State) (n : Nat) (f : CtxRec → CtxRec) : (s.updCtx n f).peerReqs = s.peerReqs := rfl
@[simp] theorem State.updCtx_nextTag (s : State) (n : Nat) (f : CtxRec → CtxRec) : (s.updCtx n f).nextTag = s.nextTag := rfl
@[simp] theorem State.updCtx_rx (s : State) (n : Nat) (f : CtxRec → CtxRec) : (s.updCtx n f).rx = s.rx := rfl
@[simp] theorem State.updCtx_tx (s : State) (n : Nat) (f : CtxRec → CtxRec) : (s.updCtx n f).tx = s.tx := rfl
@[simp] theorem State.updCtx_msix (s : State) (n : Nat) (f : CtxRec → CtxRec) : (s.updCtx n f).msix = s.msix := rfl
@[simp] theorem State.updCtx_faults (s : State) (n : Nat) (f : CtxRec → CtxRec) : (s.updCtx n f).faults = s.faults := rfl
@[simp] theorem State.updCtx_hist (s : State) (n : Nat) (f : CtxRec → CtxRec) : (s.updCtx n f).hist = s.hist := rfl
@[simp] theorem State.updCtx_evKnow (s : State) (n : Nat) (f : CtxRec → CtxRec) : (s.updCtx n f).evKnow = s.evKnow := rfl
@[simp] theorem State.updCtx_itemKnow (s : State) (n : Nat) (f : CtxRec → CtxRec) : (s.updCtx n f).itemKnow = s.itemKnow := rfl
@[simp] theorem State.updCtx_farKnow (s : State) (n : Nat) (f : CtxRec → CtxRec) : (s.updCtx n f).farKnow = s.farKnow := rfl
@[simp] theorem State.updCtx_oldAtc (s : State) (n : Nat) (f : CtxRec → CtxRec) : (s.updCtx n f).oldAtc = s.oldAtc := rfl
@[simp] theorem State.updCtx_oldLeaves (s : State) (n : Nat) (f : CtxRec → CtxRec) : (s.updCtx n f).oldLeaves = s.oldLeaves := rfl
@[simp] theorem State.updCtx_tables (s : State) (n : Nat) (f : CtxRec → CtxRec) : (s.updCtx n f).tables = s.tables := rfl
@[simp] theorem State.updCtx_requests (s : State) (n : Nat) (f : CtxRec → CtxRec) : (s.updCtx n f).requests = s.requests := rfl

/-! ### State.updCluster -/

@[simp] theorem State.updCluster_tick (s : State) (n : Nat) (f : Cluster → Cluster) : (s.updCluster n f).tick = s.tick := rfl
@[simp] theorem State.updCluster_agenda (s : State) (n : Nat) (f : Cluster → Cluster) : (s.updCluster n f).agenda = s.agenda := rfl
@[simp] theorem State.updCluster_cur (s : State) (n : Nat) (f : Cluster → Cluster) : (s.updCluster n f).cur = s.cur := rfl
@[simp] theorem State.updCluster_boot (s : State) (n : Nat) (f : Cluster → Cluster) : (s.updCluster n f).boot = s.boot := rfl
@[simp] theorem State.updCluster_bootCause (s : State) (n : Nat) (f : Cluster → Cluster) : (s.updCluster n f).bootCause = s.bootCause := rfl
@[simp] theorem State.updCluster_flash (s : State) (n : Nat) (f : Cluster → Cluster) : (s.updCluster n f).flash = s.flash := rfl
@[simp] theorem State.updCluster_fwKern (s : State) (n : Nat) (f : Cluster → Cluster) : (s.updCluster n f).fwKern = s.fwKern := rfl
@[simp] theorem State.updCluster_fwStage1 (s : State) (n : Nat) (f : Cluster → Cluster) : (s.updCluster n f).fwStage1 = s.fwStage1 := rfl
@[simp] theorem State.updCluster_keySlot (s : State) (n : Nat) (f : Cluster → Cluster) : (s.updCluster n f).keySlot = s.keySlot := rfl
@[simp] theorem State.updCluster_fuseRevoked (s : State) (n : Nat) (f : Cluster → Cluster) : (s.updCluster n f).fuseRevoked = s.fuseRevoked := rfl
@[simp] theorem State.updCluster_coremap (s : State) (n : Nat) (f : Cluster → Cluster) : (s.updCluster n f).coremap = s.coremap := rfl
@[simp] theorem State.updCluster_serial (s : State) (n : Nat) (f : Cluster → Cluster) : (s.updCluster n f).serial = s.serial := rfl
@[simp] theorem State.updCluster_devid (s : State) (n : Nat) (f : Cluster → Cluster) : (s.updCluster n f).devid = s.devid := rfl
@[simp] theorem State.updCluster_measure (s : State) (n : Nat) (f : Cluster → Cluster) : (s.updCluster n f).measure = s.measure := rfl
@[simp] theorem State.updCluster_measure1 (s : State) (n : Nat) (f : Cluster → Cluster) : (s.updCluster n f).measure1 = s.measure1 := rfl
@[simp] theorem State.updCluster_fuseKeys (s : State) (n : Nat) (f : Cluster → Cluster) : (s.updCluster n f).fuseKeys = s.fuseKeys := rfl
@[simp] theorem State.updCluster_idSecret (s : State) (n : Nat) (f : Cluster → Cluster) : (s.updCluster n f).idSecret = s.idSecret := rfl
@[simp] theorem State.updCluster_route (s : State) (n : Nat) (f : Cluster → Cluster) : (s.updCluster n f).route = s.route := rfl
@[simp] theorem State.updCluster_slices (s : State) (n : Nat) (f : Cluster → Cluster) : (s.updCluster n f).slices = s.slices := rfl
@[simp] theorem State.updCluster_ports (s : State) (n : Nat) (f : Cluster → Cluster) : (s.updCluster n f).ports = s.ports := rfl
@[simp] theorem State.updCluster_vis (s : State) (n : Nat) (f : Cluster → Cluster) : (s.updCluster n f).vis = s.vis := rfl
@[simp] theorem State.updCluster_counters (s : State) (n : Nat) (f : Cluster → Cluster) : (s.updCluster n f).counters = s.counters := rfl
@[simp] theorem State.updCluster_blks (s : State) (n : Nat) (f : Cluster → Cluster) : (s.updCluster n f).blks = s.blks := rfl
@[simp] theorem State.updCluster_ctxs (s : State) (n : Nat) (f : Cluster → Cluster) : (s.updCluster n f).ctxs = s.ctxs := rfl
@[simp] theorem State.updCluster_mem (s : State) (n : Nat) (f : Cluster → Cluster) : (s.updCluster n f).mem = s.mem := rfl
@[simp] theorem State.updCluster_mpoison (s : State) (n : Nat) (f : Cluster → Cluster) : (s.updCluster n f).mpoison = s.mpoison := rfl
@[simp] theorem State.updCluster_hostMem (s : State) (n : Nat) (f : Cluster → Cluster) : (s.updCluster n f).hostMem = s.hostMem := rfl
@[simp] theorem State.updCluster_hostBad (s : State) (n : Nat) (f : Cluster → Cluster) : (s.updCluster n f).hostBad = s.hostBad := rfl
@[simp] theorem State.updCluster_frames (s : State) (n : Nat) (f : Cluster → Cluster) : (s.updCluster n f).frames = s.frames := rfl
@[simp] theorem State.updCluster_allocHint (s : State) (n : Nat) (f : Cluster → Cluster) : (s.updCluster n f).allocHint = s.allocHint := rfl
@[simp] theorem State.updCluster_cores (s : State) (n : Nat) (f : Cluster → Cluster) : (s.updCluster n f).cores = s.cores := rfl
@[simp] theorem State.updCluster_seqs (s : State) (n : Nat) (f : Cluster → Cluster) : (s.updCluster n f).seqs = s.seqs := rfl
@[simp] theorem State.updCluster_launches (s : State) (n : Nat) (f : Cluster → Cluster) : (s.updCluster n f).launches = s.launches := rfl
@[simp] theorem State.updCluster_nextLaunch (s : State) (n : Nat) (f : Cluster → Cluster) : (s.updCluster n f).nextLaunch = s.nextLaunch := rfl
@[simp] theorem State.updCluster_atc (s : State) (n : Nat) (f : Cluster → Cluster) : (s.updCluster n f).atc = s.atc := rfl
@[simp] theorem State.updCluster_ctlb (s : State) (n : Nat) (f : Cluster → Cluster) : (s.updCluster n f).ctlb = s.ctlb := rfl
@[simp] theorem State.updCluster_walks (s : State) (n : Nat) (f : Cluster → Cluster) : (s.updCluster n f).walks = s.walks := rfl
@[simp] theorem State.updCluster_atsReqs (s : State) (n : Nat) (f : Cluster → Cluster) : (s.updCluster n f).atsReqs = s.atsReqs := rfl
@[simp] theorem State.updCluster_invals (s : State) (n : Nat) (f : Cluster → Cluster) : (s.updCluster n f).invals = s.invals := rfl
@[simp] theorem State.updCluster_peerReqs (s : State) (n : Nat) (f : Cluster → Cluster) : (s.updCluster n f).peerReqs = s.peerReqs := rfl
@[simp] theorem State.updCluster_nextTag (s : State) (n : Nat) (f : Cluster → Cluster) : (s.updCluster n f).nextTag = s.nextTag := rfl
@[simp] theorem State.updCluster_rx (s : State) (n : Nat) (f : Cluster → Cluster) : (s.updCluster n f).rx = s.rx := rfl
@[simp] theorem State.updCluster_tx (s : State) (n : Nat) (f : Cluster → Cluster) : (s.updCluster n f).tx = s.tx := rfl
@[simp] theorem State.updCluster_msix (s : State) (n : Nat) (f : Cluster → Cluster) : (s.updCluster n f).msix = s.msix := rfl
@[simp] theorem State.updCluster_faults (s : State) (n : Nat) (f : Cluster → Cluster) : (s.updCluster n f).faults = s.faults := rfl
@[simp] theorem State.updCluster_hist (s : State) (n : Nat) (f : Cluster → Cluster) : (s.updCluster n f).hist = s.hist := rfl
@[simp] theorem State.updCluster_evKnow (s : State) (n : Nat) (f : Cluster → Cluster) : (s.updCluster n f).evKnow = s.evKnow := rfl
@[simp] theorem State.updCluster_itemKnow (s : State) (n : Nat) (f : Cluster → Cluster) : (s.updCluster n f).itemKnow = s.itemKnow := rfl
@[simp] theorem State.updCluster_farKnow (s : State) (n : Nat) (f : Cluster → Cluster) : (s.updCluster n f).farKnow = s.farKnow := rfl
@[simp] theorem State.updCluster_oldAtc (s : State) (n : Nat) (f : Cluster → Cluster) : (s.updCluster n f).oldAtc = s.oldAtc := rfl
@[simp] theorem State.updCluster_oldLeaves (s : State) (n : Nat) (f : Cluster → Cluster) : (s.updCluster n f).oldLeaves = s.oldLeaves := rfl
@[simp] theorem State.updCluster_tables (s : State) (n : Nat) (f : Cluster → Cluster) : (s.updCluster n f).tables = s.tables := rfl
@[simp] theorem State.updCluster_requests (s : State) (n : Nat) (f : Cluster → Cluster) : (s.updCluster n f).requests = s.requests := rfl

/-! ### State.updSlice -/

@[simp] theorem State.updSlice_tick (s : State) (n : Nat) (f : Slice → Slice) : (s.updSlice n f).tick = s.tick := rfl
@[simp] theorem State.updSlice_agenda (s : State) (n : Nat) (f : Slice → Slice) : (s.updSlice n f).agenda = s.agenda := rfl
@[simp] theorem State.updSlice_cur (s : State) (n : Nat) (f : Slice → Slice) : (s.updSlice n f).cur = s.cur := rfl
@[simp] theorem State.updSlice_boot (s : State) (n : Nat) (f : Slice → Slice) : (s.updSlice n f).boot = s.boot := rfl
@[simp] theorem State.updSlice_bootCause (s : State) (n : Nat) (f : Slice → Slice) : (s.updSlice n f).bootCause = s.bootCause := rfl
@[simp] theorem State.updSlice_flash (s : State) (n : Nat) (f : Slice → Slice) : (s.updSlice n f).flash = s.flash := rfl
@[simp] theorem State.updSlice_fwKern (s : State) (n : Nat) (f : Slice → Slice) : (s.updSlice n f).fwKern = s.fwKern := rfl
@[simp] theorem State.updSlice_fwStage1 (s : State) (n : Nat) (f : Slice → Slice) : (s.updSlice n f).fwStage1 = s.fwStage1 := rfl
@[simp] theorem State.updSlice_keySlot (s : State) (n : Nat) (f : Slice → Slice) : (s.updSlice n f).keySlot = s.keySlot := rfl
@[simp] theorem State.updSlice_fuseRevoked (s : State) (n : Nat) (f : Slice → Slice) : (s.updSlice n f).fuseRevoked = s.fuseRevoked := rfl
@[simp] theorem State.updSlice_coremap (s : State) (n : Nat) (f : Slice → Slice) : (s.updSlice n f).coremap = s.coremap := rfl
@[simp] theorem State.updSlice_serial (s : State) (n : Nat) (f : Slice → Slice) : (s.updSlice n f).serial = s.serial := rfl
@[simp] theorem State.updSlice_devid (s : State) (n : Nat) (f : Slice → Slice) : (s.updSlice n f).devid = s.devid := rfl
@[simp] theorem State.updSlice_measure (s : State) (n : Nat) (f : Slice → Slice) : (s.updSlice n f).measure = s.measure := rfl
@[simp] theorem State.updSlice_measure1 (s : State) (n : Nat) (f : Slice → Slice) : (s.updSlice n f).measure1 = s.measure1 := rfl
@[simp] theorem State.updSlice_fuseKeys (s : State) (n : Nat) (f : Slice → Slice) : (s.updSlice n f).fuseKeys = s.fuseKeys := rfl
@[simp] theorem State.updSlice_idSecret (s : State) (n : Nat) (f : Slice → Slice) : (s.updSlice n f).idSecret = s.idSecret := rfl
@[simp] theorem State.updSlice_route (s : State) (n : Nat) (f : Slice → Slice) : (s.updSlice n f).route = s.route := rfl
@[simp] theorem State.updSlice_clusters (s : State) (n : Nat) (f : Slice → Slice) : (s.updSlice n f).clusters = s.clusters := rfl
@[simp] theorem State.updSlice_ports (s : State) (n : Nat) (f : Slice → Slice) : (s.updSlice n f).ports = s.ports := rfl
@[simp] theorem State.updSlice_vis (s : State) (n : Nat) (f : Slice → Slice) : (s.updSlice n f).vis = s.vis := rfl
@[simp] theorem State.updSlice_counters (s : State) (n : Nat) (f : Slice → Slice) : (s.updSlice n f).counters = s.counters := rfl
@[simp] theorem State.updSlice_blks (s : State) (n : Nat) (f : Slice → Slice) : (s.updSlice n f).blks = s.blks := rfl
@[simp] theorem State.updSlice_ctxs (s : State) (n : Nat) (f : Slice → Slice) : (s.updSlice n f).ctxs = s.ctxs := rfl
@[simp] theorem State.updSlice_mem (s : State) (n : Nat) (f : Slice → Slice) : (s.updSlice n f).mem = s.mem := rfl
@[simp] theorem State.updSlice_mpoison (s : State) (n : Nat) (f : Slice → Slice) : (s.updSlice n f).mpoison = s.mpoison := rfl
@[simp] theorem State.updSlice_hostMem (s : State) (n : Nat) (f : Slice → Slice) : (s.updSlice n f).hostMem = s.hostMem := rfl
@[simp] theorem State.updSlice_hostBad (s : State) (n : Nat) (f : Slice → Slice) : (s.updSlice n f).hostBad = s.hostBad := rfl
@[simp] theorem State.updSlice_frames (s : State) (n : Nat) (f : Slice → Slice) : (s.updSlice n f).frames = s.frames := rfl
@[simp] theorem State.updSlice_allocHint (s : State) (n : Nat) (f : Slice → Slice) : (s.updSlice n f).allocHint = s.allocHint := rfl
@[simp] theorem State.updSlice_cores (s : State) (n : Nat) (f : Slice → Slice) : (s.updSlice n f).cores = s.cores := rfl
@[simp] theorem State.updSlice_seqs (s : State) (n : Nat) (f : Slice → Slice) : (s.updSlice n f).seqs = s.seqs := rfl
@[simp] theorem State.updSlice_launches (s : State) (n : Nat) (f : Slice → Slice) : (s.updSlice n f).launches = s.launches := rfl
@[simp] theorem State.updSlice_nextLaunch (s : State) (n : Nat) (f : Slice → Slice) : (s.updSlice n f).nextLaunch = s.nextLaunch := rfl
@[simp] theorem State.updSlice_atc (s : State) (n : Nat) (f : Slice → Slice) : (s.updSlice n f).atc = s.atc := rfl
@[simp] theorem State.updSlice_ctlb (s : State) (n : Nat) (f : Slice → Slice) : (s.updSlice n f).ctlb = s.ctlb := rfl
@[simp] theorem State.updSlice_walks (s : State) (n : Nat) (f : Slice → Slice) : (s.updSlice n f).walks = s.walks := rfl
@[simp] theorem State.updSlice_atsReqs (s : State) (n : Nat) (f : Slice → Slice) : (s.updSlice n f).atsReqs = s.atsReqs := rfl
@[simp] theorem State.updSlice_invals (s : State) (n : Nat) (f : Slice → Slice) : (s.updSlice n f).invals = s.invals := rfl
@[simp] theorem State.updSlice_peerReqs (s : State) (n : Nat) (f : Slice → Slice) : (s.updSlice n f).peerReqs = s.peerReqs := rfl
@[simp] theorem State.updSlice_nextTag (s : State) (n : Nat) (f : Slice → Slice) : (s.updSlice n f).nextTag = s.nextTag := rfl
@[simp] theorem State.updSlice_rx (s : State) (n : Nat) (f : Slice → Slice) : (s.updSlice n f).rx = s.rx := rfl
@[simp] theorem State.updSlice_tx (s : State) (n : Nat) (f : Slice → Slice) : (s.updSlice n f).tx = s.tx := rfl
@[simp] theorem State.updSlice_msix (s : State) (n : Nat) (f : Slice → Slice) : (s.updSlice n f).msix = s.msix := rfl
@[simp] theorem State.updSlice_faults (s : State) (n : Nat) (f : Slice → Slice) : (s.updSlice n f).faults = s.faults := rfl
@[simp] theorem State.updSlice_hist (s : State) (n : Nat) (f : Slice → Slice) : (s.updSlice n f).hist = s.hist := rfl
@[simp] theorem State.updSlice_evKnow (s : State) (n : Nat) (f : Slice → Slice) : (s.updSlice n f).evKnow = s.evKnow := rfl
@[simp] theorem State.updSlice_itemKnow (s : State) (n : Nat) (f : Slice → Slice) : (s.updSlice n f).itemKnow = s.itemKnow := rfl
@[simp] theorem State.updSlice_farKnow (s : State) (n : Nat) (f : Slice → Slice) : (s.updSlice n f).farKnow = s.farKnow := rfl
@[simp] theorem State.updSlice_oldAtc (s : State) (n : Nat) (f : Slice → Slice) : (s.updSlice n f).oldAtc = s.oldAtc := rfl
@[simp] theorem State.updSlice_oldLeaves (s : State) (n : Nat) (f : Slice → Slice) : (s.updSlice n f).oldLeaves = s.oldLeaves := rfl
@[simp] theorem State.updSlice_tables (s : State) (n : Nat) (f : Slice → Slice) : (s.updSlice n f).tables = s.tables := rfl
@[simp] theorem State.updSlice_requests (s : State) (n : Nat) (f : Slice → Slice) : (s.updSlice n f).requests = s.requests := rfl

/-! ### State.updSeq -/

@[simp] theorem State.updSeq_tick (s : State) (n : Nat) (f : Seq → Seq) : (s.updSeq n f).tick = s.tick := rfl
@[simp] theorem State.updSeq_agenda (s : State) (n : Nat) (f : Seq → Seq) : (s.updSeq n f).agenda = s.agenda := rfl
@[simp] theorem State.updSeq_cur (s : State) (n : Nat) (f : Seq → Seq) : (s.updSeq n f).cur = s.cur := rfl
@[simp] theorem State.updSeq_boot (s : State) (n : Nat) (f : Seq → Seq) : (s.updSeq n f).boot = s.boot := rfl
@[simp] theorem State.updSeq_bootCause (s : State) (n : Nat) (f : Seq → Seq) : (s.updSeq n f).bootCause = s.bootCause := rfl
@[simp] theorem State.updSeq_flash (s : State) (n : Nat) (f : Seq → Seq) : (s.updSeq n f).flash = s.flash := rfl
@[simp] theorem State.updSeq_fwKern (s : State) (n : Nat) (f : Seq → Seq) : (s.updSeq n f).fwKern = s.fwKern := rfl
@[simp] theorem State.updSeq_fwStage1 (s : State) (n : Nat) (f : Seq → Seq) : (s.updSeq n f).fwStage1 = s.fwStage1 := rfl
@[simp] theorem State.updSeq_keySlot (s : State) (n : Nat) (f : Seq → Seq) : (s.updSeq n f).keySlot = s.keySlot := rfl
@[simp] theorem State.updSeq_fuseRevoked (s : State) (n : Nat) (f : Seq → Seq) : (s.updSeq n f).fuseRevoked = s.fuseRevoked := rfl
@[simp] theorem State.updSeq_coremap (s : State) (n : Nat) (f : Seq → Seq) : (s.updSeq n f).coremap = s.coremap := rfl
@[simp] theorem State.updSeq_serial (s : State) (n : Nat) (f : Seq → Seq) : (s.updSeq n f).serial = s.serial := rfl
@[simp] theorem State.updSeq_devid (s : State) (n : Nat) (f : Seq → Seq) : (s.updSeq n f).devid = s.devid := rfl
@[simp] theorem State.updSeq_measure (s : State) (n : Nat) (f : Seq → Seq) : (s.updSeq n f).measure = s.measure := rfl
@[simp] theorem State.updSeq_measure1 (s : State) (n : Nat) (f : Seq → Seq) : (s.updSeq n f).measure1 = s.measure1 := rfl
@[simp] theorem State.updSeq_fuseKeys (s : State) (n : Nat) (f : Seq → Seq) : (s.updSeq n f).fuseKeys = s.fuseKeys := rfl
@[simp] theorem State.updSeq_idSecret (s : State) (n : Nat) (f : Seq → Seq) : (s.updSeq n f).idSecret = s.idSecret := rfl
@[simp] theorem State.updSeq_route (s : State) (n : Nat) (f : Seq → Seq) : (s.updSeq n f).route = s.route := rfl
@[simp] theorem State.updSeq_clusters (s : State) (n : Nat) (f : Seq → Seq) : (s.updSeq n f).clusters = s.clusters := rfl
@[simp] theorem State.updSeq_slices (s : State) (n : Nat) (f : Seq → Seq) : (s.updSeq n f).slices = s.slices := rfl
@[simp] theorem State.updSeq_ports (s : State) (n : Nat) (f : Seq → Seq) : (s.updSeq n f).ports = s.ports := rfl
@[simp] theorem State.updSeq_vis (s : State) (n : Nat) (f : Seq → Seq) : (s.updSeq n f).vis = s.vis := rfl
@[simp] theorem State.updSeq_counters (s : State) (n : Nat) (f : Seq → Seq) : (s.updSeq n f).counters = s.counters := rfl
@[simp] theorem State.updSeq_blks (s : State) (n : Nat) (f : Seq → Seq) : (s.updSeq n f).blks = s.blks := rfl
@[simp] theorem State.updSeq_ctxs (s : State) (n : Nat) (f : Seq → Seq) : (s.updSeq n f).ctxs = s.ctxs := rfl
@[simp] theorem State.updSeq_mem (s : State) (n : Nat) (f : Seq → Seq) : (s.updSeq n f).mem = s.mem := rfl
@[simp] theorem State.updSeq_mpoison (s : State) (n : Nat) (f : Seq → Seq) : (s.updSeq n f).mpoison = s.mpoison := rfl
@[simp] theorem State.updSeq_hostMem (s : State) (n : Nat) (f : Seq → Seq) : (s.updSeq n f).hostMem = s.hostMem := rfl
@[simp] theorem State.updSeq_hostBad (s : State) (n : Nat) (f : Seq → Seq) : (s.updSeq n f).hostBad = s.hostBad := rfl
@[simp] theorem State.updSeq_frames (s : State) (n : Nat) (f : Seq → Seq) : (s.updSeq n f).frames = s.frames := rfl
@[simp] theorem State.updSeq_allocHint (s : State) (n : Nat) (f : Seq → Seq) : (s.updSeq n f).allocHint = s.allocHint := rfl
@[simp] theorem State.updSeq_cores (s : State) (n : Nat) (f : Seq → Seq) : (s.updSeq n f).cores = s.cores := rfl
@[simp] theorem State.updSeq_launches (s : State) (n : Nat) (f : Seq → Seq) : (s.updSeq n f).launches = s.launches := rfl
@[simp] theorem State.updSeq_nextLaunch (s : State) (n : Nat) (f : Seq → Seq) : (s.updSeq n f).nextLaunch = s.nextLaunch := rfl
@[simp] theorem State.updSeq_atc (s : State) (n : Nat) (f : Seq → Seq) : (s.updSeq n f).atc = s.atc := rfl
@[simp] theorem State.updSeq_ctlb (s : State) (n : Nat) (f : Seq → Seq) : (s.updSeq n f).ctlb = s.ctlb := rfl
@[simp] theorem State.updSeq_walks (s : State) (n : Nat) (f : Seq → Seq) : (s.updSeq n f).walks = s.walks := rfl
@[simp] theorem State.updSeq_atsReqs (s : State) (n : Nat) (f : Seq → Seq) : (s.updSeq n f).atsReqs = s.atsReqs := rfl
@[simp] theorem State.updSeq_invals (s : State) (n : Nat) (f : Seq → Seq) : (s.updSeq n f).invals = s.invals := rfl
@[simp] theorem State.updSeq_peerReqs (s : State) (n : Nat) (f : Seq → Seq) : (s.updSeq n f).peerReqs = s.peerReqs := rfl
@[simp] theorem State.updSeq_nextTag (s : State) (n : Nat) (f : Seq → Seq) : (s.updSeq n f).nextTag = s.nextTag := rfl
@[simp] theorem State.updSeq_rx (s : State) (n : Nat) (f : Seq → Seq) : (s.updSeq n f).rx = s.rx := rfl
@[simp] theorem State.updSeq_tx (s : State) (n : Nat) (f : Seq → Seq) : (s.updSeq n f).tx = s.tx := rfl
@[simp] theorem State.updSeq_msix (s : State) (n : Nat) (f : Seq → Seq) : (s.updSeq n f).msix = s.msix := rfl
@[simp] theorem State.updSeq_faults (s : State) (n : Nat) (f : Seq → Seq) : (s.updSeq n f).faults = s.faults := rfl
@[simp] theorem State.updSeq_hist (s : State) (n : Nat) (f : Seq → Seq) : (s.updSeq n f).hist = s.hist := rfl
@[simp] theorem State.updSeq_evKnow (s : State) (n : Nat) (f : Seq → Seq) : (s.updSeq n f).evKnow = s.evKnow := rfl
@[simp] theorem State.updSeq_itemKnow (s : State) (n : Nat) (f : Seq → Seq) : (s.updSeq n f).itemKnow = s.itemKnow := rfl
@[simp] theorem State.updSeq_farKnow (s : State) (n : Nat) (f : Seq → Seq) : (s.updSeq n f).farKnow = s.farKnow := rfl
@[simp] theorem State.updSeq_oldAtc (s : State) (n : Nat) (f : Seq → Seq) : (s.updSeq n f).oldAtc = s.oldAtc := rfl
@[simp] theorem State.updSeq_oldLeaves (s : State) (n : Nat) (f : Seq → Seq) : (s.updSeq n f).oldLeaves = s.oldLeaves := rfl
@[simp] theorem State.updSeq_tables (s : State) (n : Nat) (f : Seq → Seq) : (s.updSeq n f).tables = s.tables := rfl
@[simp] theorem State.updSeq_requests (s : State) (n : Nat) (f : Seq → Seq) : (s.updSeq n f).requests = s.requests := rfl

/-! ### State.hostWrite -/

/-- A write of a word of host memory leaves all but that memory and the history of writes. -/
theorem State.perform_host {w : Nat} (h : hostWords ≤ w) (s : State) (off : Nat) (bs : List Byte) (e : Past) :
    s.perform w off bs e = { s with hostMem := (s.perform w off bs e).hostMem, hist := (s.perform w off bs e).hist } := by
  unfold State.perform State.setHome
  rw [if_neg (by omega)]

/-- Writes of words of host memory leave all but that memory and the history of writes. -/
theorem State.performAll_host (e : Past) : ∀ (l : List (Nat × Nat × List Byte)) (s : State), (∀ q ∈ l, hostWords ≤ q.1) →
    let t := l.foldl (fun (s : State) q => s.perform q.1 q.2.1 q.2.2 e) s
    t = { s with hostMem := t.hostMem, hist := t.hist }
  | [], _, _ => rfl
  | q :: l, s, h => by
    have ih := State.performAll_host e l (s.perform q.1 q.2.1 q.2.2 e) (fun r hr => h r (List.mem_cons_of_mem _ hr))
    have h1 := State.perform_host (h q List.mem_cons_self) s q.2.1 q.2.2 e
    dsimp only [List.foldl_cons] at ih ⊢
    rw [ih, h1]

/-- The words of host memory that bytes lie in. -/
theorem hostWords_le_wordsOf (a : Nat) (bs : List Byte) : ∀ q ∈ wordsOf hostWords a bs, hostWords ≤ q.1 := by
  intro q hq
  obtain ⟨w, -, rfl⟩ := List.mem_map.1 hq
  exact Nat.le_add_right _ _

/-- A write to host memory leaves all but that memory and the history of writes. -/
theorem State.hostWrite_only (s : State) (a : Nat) (bs : List Byte) :
    s.hostWrite a bs = { s with hostMem := (s.hostWrite a bs).hostMem, hist := (s.hostWrite a bs).hist } :=
  State.performAll_host _ _ s (hostWords_le_wordsOf a bs)

@[simp] theorem State.hostWrite_tick (s : State) (a : Nat) (bs : List Byte) : (s.hostWrite a bs).tick = s.tick := by rw [State.hostWrite_only]
@[simp] theorem State.hostWrite_agenda (s : State) (a : Nat) (bs : List Byte) : (s.hostWrite a bs).agenda = s.agenda := by rw [State.hostWrite_only]
@[simp] theorem State.hostWrite_cur (s : State) (a : Nat) (bs : List Byte) : (s.hostWrite a bs).cur = s.cur := by rw [State.hostWrite_only]
@[simp] theorem State.hostWrite_boot (s : State) (a : Nat) (bs : List Byte) : (s.hostWrite a bs).boot = s.boot := by rw [State.hostWrite_only]
@[simp] theorem State.hostWrite_bootCause (s : State) (a : Nat) (bs : List Byte) : (s.hostWrite a bs).bootCause = s.bootCause := by rw [State.hostWrite_only]
@[simp] theorem State.hostWrite_flash (s : State) (a : Nat) (bs : List Byte) : (s.hostWrite a bs).flash = s.flash := by rw [State.hostWrite_only]
@[simp] theorem State.hostWrite_fwKern (s : State) (a : Nat) (bs : List Byte) : (s.hostWrite a bs).fwKern = s.fwKern := by rw [State.hostWrite_only]
@[simp] theorem State.hostWrite_fwStage1 (s : State) (a : Nat) (bs : List Byte) : (s.hostWrite a bs).fwStage1 = s.fwStage1 := by rw [State.hostWrite_only]
@[simp] theorem State.hostWrite_keySlot (s : State) (a : Nat) (bs : List Byte) : (s.hostWrite a bs).keySlot = s.keySlot := by rw [State.hostWrite_only]
@[simp] theorem State.hostWrite_fuseRevoked (s : State) (a : Nat) (bs : List Byte) : (s.hostWrite a bs).fuseRevoked = s.fuseRevoked := by rw [State.hostWrite_only]
@[simp] theorem State.hostWrite_coremap (s : State) (a : Nat) (bs : List Byte) : (s.hostWrite a bs).coremap = s.coremap := by rw [State.hostWrite_only]
@[simp] theorem State.hostWrite_serial (s : State) (a : Nat) (bs : List Byte) : (s.hostWrite a bs).serial = s.serial := by rw [State.hostWrite_only]
@[simp] theorem State.hostWrite_devid (s : State) (a : Nat) (bs : List Byte) : (s.hostWrite a bs).devid = s.devid := by rw [State.hostWrite_only]
@[simp] theorem State.hostWrite_measure (s : State) (a : Nat) (bs : List Byte) : (s.hostWrite a bs).measure = s.measure := by rw [State.hostWrite_only]
@[simp] theorem State.hostWrite_measure1 (s : State) (a : Nat) (bs : List Byte) : (s.hostWrite a bs).measure1 = s.measure1 := by rw [State.hostWrite_only]
@[simp] theorem State.hostWrite_fuseKeys (s : State) (a : Nat) (bs : List Byte) : (s.hostWrite a bs).fuseKeys = s.fuseKeys := by rw [State.hostWrite_only]
@[simp] theorem State.hostWrite_idSecret (s : State) (a : Nat) (bs : List Byte) : (s.hostWrite a bs).idSecret = s.idSecret := by rw [State.hostWrite_only]
@[simp] theorem State.hostWrite_route (s : State) (a : Nat) (bs : List Byte) : (s.hostWrite a bs).route = s.route := by rw [State.hostWrite_only]
@[simp] theorem State.hostWrite_clusters (s : State) (a : Nat) (bs : List Byte) : (s.hostWrite a bs).clusters = s.clusters := by rw [State.hostWrite_only]
@[simp] theorem State.hostWrite_slices (s : State) (a : Nat) (bs : List Byte) : (s.hostWrite a bs).slices = s.slices := by rw [State.hostWrite_only]
@[simp] theorem State.hostWrite_ports (s : State) (a : Nat) (bs : List Byte) : (s.hostWrite a bs).ports = s.ports := by rw [State.hostWrite_only]
@[simp] theorem State.hostWrite_vis (s : State) (a : Nat) (bs : List Byte) : (s.hostWrite a bs).vis = s.vis := by rw [State.hostWrite_only]
@[simp] theorem State.hostWrite_counters (s : State) (a : Nat) (bs : List Byte) : (s.hostWrite a bs).counters = s.counters := by rw [State.hostWrite_only]
@[simp] theorem State.hostWrite_blks (s : State) (a : Nat) (bs : List Byte) : (s.hostWrite a bs).blks = s.blks := by rw [State.hostWrite_only]
@[simp] theorem State.hostWrite_ctxs (s : State) (a : Nat) (bs : List Byte) : (s.hostWrite a bs).ctxs = s.ctxs := by rw [State.hostWrite_only]
@[simp] theorem State.hostWrite_mem (s : State) (a : Nat) (bs : List Byte) : (s.hostWrite a bs).mem = s.mem := by rw [State.hostWrite_only]
@[simp] theorem State.hostWrite_mpoison (s : State) (a : Nat) (bs : List Byte) : (s.hostWrite a bs).mpoison = s.mpoison := by rw [State.hostWrite_only]
@[simp] theorem State.hostWrite_hostBad (s : State) (a : Nat) (bs : List Byte) : (s.hostWrite a bs).hostBad = s.hostBad := by rw [State.hostWrite_only]
@[simp] theorem State.hostWrite_frames (s : State) (a : Nat) (bs : List Byte) : (s.hostWrite a bs).frames = s.frames := by rw [State.hostWrite_only]
@[simp] theorem State.hostWrite_allocHint (s : State) (a : Nat) (bs : List Byte) : (s.hostWrite a bs).allocHint = s.allocHint := by rw [State.hostWrite_only]
@[simp] theorem State.hostWrite_cores (s : State) (a : Nat) (bs : List Byte) : (s.hostWrite a bs).cores = s.cores := by rw [State.hostWrite_only]
@[simp] theorem State.hostWrite_seqs (s : State) (a : Nat) (bs : List Byte) : (s.hostWrite a bs).seqs = s.seqs := by rw [State.hostWrite_only]
@[simp] theorem State.hostWrite_launches (s : State) (a : Nat) (bs : List Byte) : (s.hostWrite a bs).launches = s.launches := by rw [State.hostWrite_only]
@[simp] theorem State.hostWrite_nextLaunch (s : State) (a : Nat) (bs : List Byte) : (s.hostWrite a bs).nextLaunch = s.nextLaunch := by rw [State.hostWrite_only]
@[simp] theorem State.hostWrite_atc (s : State) (a : Nat) (bs : List Byte) : (s.hostWrite a bs).atc = s.atc := by rw [State.hostWrite_only]
@[simp] theorem State.hostWrite_ctlb (s : State) (a : Nat) (bs : List Byte) : (s.hostWrite a bs).ctlb = s.ctlb := by rw [State.hostWrite_only]
@[simp] theorem State.hostWrite_walks (s : State) (a : Nat) (bs : List Byte) : (s.hostWrite a bs).walks = s.walks := by rw [State.hostWrite_only]
@[simp] theorem State.hostWrite_atsReqs (s : State) (a : Nat) (bs : List Byte) : (s.hostWrite a bs).atsReqs = s.atsReqs := by rw [State.hostWrite_only]
@[simp] theorem State.hostWrite_invals (s : State) (a : Nat) (bs : List Byte) : (s.hostWrite a bs).invals = s.invals := by rw [State.hostWrite_only]
@[simp] theorem State.hostWrite_peerReqs (s : State) (a : Nat) (bs : List Byte) : (s.hostWrite a bs).peerReqs = s.peerReqs := by rw [State.hostWrite_only]
@[simp] theorem State.hostWrite_nextTag (s : State) (a : Nat) (bs : List Byte) : (s.hostWrite a bs).nextTag = s.nextTag := by rw [State.hostWrite_only]
@[simp] theorem State.hostWrite_rx (s : State) (a : Nat) (bs : List Byte) : (s.hostWrite a bs).rx = s.rx := by rw [State.hostWrite_only]
@[simp] theorem State.hostWrite_tx (s : State) (a : Nat) (bs : List Byte) : (s.hostWrite a bs).tx = s.tx := by rw [State.hostWrite_only]
@[simp] theorem State.hostWrite_msix (s : State) (a : Nat) (bs : List Byte) : (s.hostWrite a bs).msix = s.msix := by rw [State.hostWrite_only]
@[simp] theorem State.hostWrite_faults (s : State) (a : Nat) (bs : List Byte) : (s.hostWrite a bs).faults = s.faults := by rw [State.hostWrite_only]
@[simp] theorem State.hostWrite_evKnow (s : State) (a : Nat) (bs : List Byte) : (s.hostWrite a bs).evKnow = s.evKnow := by rw [State.hostWrite_only]
@[simp] theorem State.hostWrite_itemKnow (s : State) (a : Nat) (bs : List Byte) : (s.hostWrite a bs).itemKnow = s.itemKnow := by rw [State.hostWrite_only]
@[simp] theorem State.hostWrite_farKnow (s : State) (a : Nat) (bs : List Byte) : (s.hostWrite a bs).farKnow = s.farKnow := by rw [State.hostWrite_only]
@[simp] theorem State.hostWrite_oldAtc (s : State) (a : Nat) (bs : List Byte) : (s.hostWrite a bs).oldAtc = s.oldAtc := by rw [State.hostWrite_only]
@[simp] theorem State.hostWrite_oldLeaves (s : State) (a : Nat) (bs : List Byte) : (s.hostWrite a bs).oldLeaves = s.oldLeaves := by rw [State.hostWrite_only]
@[simp] theorem State.hostWrite_tables (s : State) (a : Nat) (bs : List Byte) : (s.hostWrite a bs).tables = s.tables := by rw [State.hostWrite_only]
@[simp] theorem State.hostWrite_requests (s : State) (a : Nat) (bs : List Byte) : (s.hostWrite a bs).requests = s.requests := by rw [State.hostWrite_only]

/-! ### Reading back -/

/-- A core after its own update. -/
@[simp] theorem State.core_updCore_same (s : State) (c : Nat) (f : Core → Core) : (s.updCore c f).core c = f (s.core c) := by
  simp [State.core, State.updCore, State.updPhys, State.phys]

/-- A core after another's update. -/
theorem State.core_updCore_ne (s : State) {c d : Nat} (f : Core → Core) (h : d ≠ c) : (s.updCore c f).core d = s.core d := by
  simp [State.core, State.updCore, State.updPhys, State.phys, Store.get_upd_ne _ _ _ h]

/-- A context after its own update. -/
@[simp] theorem State.cx_updCx_same (s : State) (c x : Nat) (f : Ctx → Ctx) : (s.updCx c x f).cx c x = f (s.cx c x) := by
  simp [State.cx, State.updCx]

/-- A context of the core after another's update. -/
theorem State.cx_updCx_ne (s : State) {c x y : Nat} (f : Ctx → Ctx) (h : y ≠ x) : (s.updCx c x f).cx c y = s.cx c y := by
  simp [State.cx, State.updCx, Store.get_upd_ne _ _ _ h]

/-- What a context's update leaves of its core. -/
@[simp] theorem State.core_updCx_same (s : State) (c x : Nat) (f : Ctx → Ctx) :
    (s.updCx c x f).core c = { s.core c with cx := (s.core c).cx.upd {} x f } := by
  simp [State.updCx]

/-- An interface after its own update. -/
@[simp] theorem State.vi_updVi_same (s : State) (v : Nat) (f : Vi → Vi) : (s.updVi v f).vi v = f (s.vi v) := by
  simp [State.vi, State.updVi]

/-- A context record after its own update. -/
@[simp] theorem State.ctx_updCtx_same (s : State) (n : Nat) (f : CtxRec → CtxRec) : (s.updCtx n f).ctx n = f (s.ctx n) := by
  simp [State.ctx, State.updCtx]

/-- A cluster after its own update. -/
@[simp] theorem State.cluster_updCluster_same (s : State) (n : Nat) (f : Cluster → Cluster) :
    (s.updCluster n f).cluster n = f (s.cluster n) := by
  simp [State.cluster, State.updCluster]

/-- A slice after its own update. -/
@[simp] theorem State.slice_updSlice_same (s : State) (n : Nat) (f : Slice → Slice) : (s.updSlice n f).slice n = f (s.slice n) := by
  simp [State.slice, State.updSlice]

/-- A sequence context after its own update. -/
@[simp] theorem State.seq_updSeq_same (s : State) (n : Nat) (f : Seq → Seq) : (s.updSeq n f).seq n = f (s.seq n) := by
  simp [State.seq, State.updSeq]

end Sys2Proof.Machine
end

