-- ==== Sys2Proof/Laws/View.lean ====
section
/-! SUPPORT. What performing, publishing, refreshing and learning can change: memory at its homes, its history and poison, and what cores have seen and know; never a core's own task state (08 R169 to R178). -/

namespace Sys2Proof.Machine

theorem State.core_updPhys_k (s : State) (c d : Nat) (f : Phys → Phys) (h : ∀ p, (f p).k = p.k) : (s.updPhys c f).core d = s.core d := by
  unfold State.core State.phys State.updPhys
  rw [Store.upd, Store.get_put]
  split
  · next e => rw [h, e]
  · rfl

/-- Nothing but memory, its history and its poison, what a release to host memory has passed on, and the cores' tables. -/
def SameButMemory (s t : State) : Prop :=
  t = { s with cores := t.cores, mem := t.mem, hostMem := t.hostMem, hist := t.hist, mpoison := t.mpoison, farKnow := t.farKnow }

theorem SameButMemory.refl (s : State) : SameButMemory s s := rfl

theorem SameButMemory.trans {s t u : State} (h : SameButMemory s t) (g : SameButMemory t u) : SameButMemory s u := by
  unfold SameButMemory at *
  rw [g, h]

theorem SameButMemory.foldl {α : Type} {f : State → α → State} (h : ∀ s x, SameButMemory s (f s x)) (l : List α) : ∀ s : State, SameButMemory s (l.foldl f s) := by
  induction l with
  | nil => exact SameButMemory.refl
  | cons a l ih => exact fun s => (h s a).trans (ih _)

theorem core_foldl {α : Type} {f : State → α → State} (d : Nat) (h : ∀ s x, (f s x).core d = s.core d) (l : List α) :
    ∀ s : State, (l.foldl f s).core d = s.core d := by
  induction l with
  | nil => exact fun _ => rfl
  | cons a l ih => exact fun s => (ih _).trans (h s a)

theorem updPhys_memory (s : State) (c : Nat) (f : Phys → Phys) : SameButMemory s (s.updPhys c f) := rfl

/-! ### One write -/

@[simp] theorem State.core_see (s : State) (c w n d : Nat) : (s.see c w n).core d = s.core d := s.core_updPhys_k c d _ (fun _ => rfl)
@[simp] theorem State.core_learn (s : State) (c d : Nat) (k : Store Nat) : (s.learn c k).core d = s.core d := s.core_updPhys_k c d _ (fun _ => rfl)
@[simp] theorem State.core_tellFar (s : State) (know : Store Nat) (d : Nat) : (s.tellFar know).core d = s.core d := rfl
@[simp] theorem State.core_setHome (s : State) (w off d : Nat) (bs : List Byte) : (s.setHome w off bs).core d = s.core d := by
  unfold State.setHome; split <;> rfl
@[simp] theorem State.core_perform (s : State) (w off d : Nat) (bs : List Byte) (e : Past) : (s.perform w off bs e).core d = s.core d :=
  s.core_setHome w off d bs

theorem performWr_core (c d : Nat) (s : State) (x : Wr) : (State.performWr c s x).core d = s.core d := by
  have h (t : State) (b : Bool) (m : Store Bool) : (if b = true then { t with mpoison := m } else t).core d = t.core d := by split <;> rfl
  unfold State.performWr
  dsimp only
  rw [h]
  have fin (p : Prop) [Decidable p] (t : State) (f : Phys → Phys) (hf : ∀ q, (f q).k = q.k) : (if p then t.updPhys c f else t).core d = t.core d := by
    split
    · exact t.core_updPhys_k c d f hf
    · rfl
  split
  · split
    · rw [State.core_tellFar]
      exact (fin _ _ _ (by intro q; rfl)).trans (by rw [State.core_see, State.core_perform])
    · exact (fin _ _ _ (by intro q; rfl)).trans (by rw [State.core_see, State.core_perform])
  · exact (fin _ _ _ (by intro q; rfl)).trans (by rw [State.core_see, State.core_perform])

theorem SameButMemory.ite {s t u : State} {p : Prop} [Decidable p] (h : SameButMemory s t) (g : SameButMemory s u) :
    SameButMemory s (if p then t else u) := by
  split
  · exact h
  · exact g

theorem State.perform_memory (s : State) (w off : Nat) (bs : List Byte) (e : Past) : SameButMemory s (s.perform w off bs e) := by
  unfold State.perform State.setHome
  split <;> rfl

theorem State.tellFar_memory (s : State) (know : Store Nat) : SameButMemory s (s.tellFar know) := rfl

theorem State.told_memory (s : State) (o : Option (Store Nat)) (f : Store Nat → Store Nat) :
    SameButMemory s (match o with | some m => s.tellFar (f m) | none => s) := by
  cases o <;> rfl

theorem performWr_memory (c : Nat) (s : State) (x : Wr) : SameButMemory s (State.performWr c s x) := by
  unfold State.performWr
  dsimp only
  have healed (u : State) (b : Bool) (m : Store Bool) (h : SameButMemory s u) : SameButMemory s (if b = true then { u with mpoison := m } else u) :=
    SameButMemory.ite (h.trans rfl) h
  have told (u : State) (p : Prop) [Decidable p] (o : Option (Store Nat)) (f : Store Nat → Store Nat) (h : SameButMemory s u) :
      SameButMemory s (if p then (match o with | some m => u.tellFar (f m) | none => u) else u) :=
    SameButMemory.ite (h.trans (u.told_memory o f)) h
  have known (u : State) (p : Prop) [Decidable p] (f : Phys → Phys) (h : SameButMemory s u) : SameButMemory s (if p then u.updPhys c f else u) :=
    SameButMemory.ite (h.trans (updPhys_memory u c f)) h
  exact healed _ _ _ (told _ _ x.rel _ (known _ _ _ ((s.perform_memory x.word x.off x.bs _).trans (updPhys_memory _ c _))))

/-! ### Many -/

@[simp] theorem State.core_performIf (s : State) (c d : Nat) (sel : Nat → Wr → Bool) : (s.performIf c sel).core d = s.core d := by
  unfold State.performIf
  dsimp only
  rw [core_foldl d (performWr_core c d)]
  exact State.core_updPhys_k s c d _ (fun _ => rfl)

theorem performIf_memory (s : State) (c : Nat) (sel : Nat → Wr → Bool) : SameButMemory s (s.performIf c sel) :=
  (updPhys_memory s c _).trans (SameButMemory.foldl (performWr_memory c) _ _)

@[simp] theorem State.core_performOwn (s : State) (c w d : Nat) : (s.performOwn c w).core d = s.core d := s.core_performIf c d _
@[simp] theorem State.core_drainCore (s : State) (c d : Nat) : (s.drainCore c).core d = s.core d := s.core_performIf c d _
@[simp] theorem State.core_drainCx (s : State) (c x d : Nat) : (s.drainCx c x).core d = s.core d :=
  s.core_performIf c d _
@[simp] theorem State.core_orderHost (s : State) (c d : Nat) : (s.orderHost c).core d = s.core d := s.core_updPhys_k c d _ (fun _ => rfl)

@[simp] theorem State.core_publish (s : State) (c scope d : Nat) (mine : Nat → Bool → Bool) : (s.publish c scope mine).core d = s.core d := by
  unfold State.publish
  have h := s.core_performIf c d (fun _ x => x.scope.isNone && mine x.agent x.part)
  revert h
  dsimp only
  generalize s.performIf c _ = u
  exact fun h => (State.core_updPhys_k _ c d _ (by intro p; rfl)).trans h

theorem publish_memory (s : State) (c scope : Nat) (mine : Nat → Bool → Bool) : SameButMemory s (s.publish c scope mine) :=
  (performIf_memory s c _).trans rfl

@[simp] theorem State.core_completed (s : State) (c agent d : Nat) : (s.completed c agent).core d = s.core d := by
  exact State.core_updPhys_k _ c d _ (fun _ => rfl)

theorem completed_memory (s : State) (c agent : Nat) : SameButMemory s (s.completed c agent) := rfl

@[simp] theorem State.core_refresh (s : State) (c scope d : Nat) : (s.refresh c scope).core d = s.core d :=
  by
  unfold State.refresh
  exact core_foldl d (by intro t q; exact t.core_see c q.1 _ d) _ s

theorem refresh_memory (s : State) (c scope : Nat) : SameButMemory s (s.refresh c scope) :=
  SameButMemory.foldl (fun t _ => updPhys_memory t c _) _ s

@[simp] theorem State.core_ordWrite (s : State) (c agent base a d : Nat) (bs : List Byte) : (s.ordWrite c agent base a bs).core d = s.core d :=
  s.core_updPhys_k c d _ (fun _ => rfl)

/-- The strong writes of a core that has none on its way stay. -/
theorem drain_none {s : State} {c : Nat} (h : ∀ x ∈ (s.phys c).dirty, x.scope = none) : s.drain c = s := by
  have e : (s.phys c).dirty.filter (·.scope.isSome) = [] := by
    rw [List.filter_eq_nil_iff]; intro x hx; simp [h x hx]
  simp [State.drain, e]

end Sys2Proof.Machine
end

