-- ==== Sys2Proof/Laws/Scalar.lean ====
section
/-! SUPPORT. What the shared frame of scalar instructions does: operand checks, the advance of a context, and runScalar and withRegs where nothing stops them (13 R263). -/

namespace Sys2Proof.Machine

open Sys2Proof.Stated

/-! ### Operand checks -/

theorem forIn_need_ok {l : List Nat} {f : Nat → Ex Unit} (h : ∀ a ∈ l, f a = .ok ()) :
    (forIn l PUnit.unit (fun a _ => do f a; pure (ForInStep.yield PUnit.unit)) : Ex PUnit) = .ok PUnit.unit := by
  induction l with
  | nil => rfl
  | cons a l ih =>
    rw [List.forIn_cons, h a (by simp)]
    exact ih (fun b hb => h b (by simp [hb]))

theorem mem_queuesOf {q : Nat} {rs : List Nat} : q ∈ queuesOf rs ↔ q + 24 ∈ rs := by
  simp only [queuesOf, List.mem_dedup, List.mem_map, List.mem_filter, decide_eq_true_eq]
  constructor
  · rintro ⟨a, ⟨ha, h24⟩, rfl⟩
    rwa [Nat.sub_add_cancel h24]
  · intro h
    exact ⟨q + 24, ⟨h, by omega⟩, by omega⟩

theorem need_true (c : Cause) (t : Nat) : need true c t = .ok () := rfl

theorem need_of {b : Bool} {c : Cause} {t : Nat} (h : b = true) : need b c t = .ok () := by rw [h]; rfl

theorem await_of {b : Bool} (h : b = true) : await b = .ok () := by rw [h]; rfl

theorem claim_of {k : Core} {r : Res} {n : Nat} (h : k.cl.has r = true) : claim k r n = .ok () := need_of h

@[simp] theorem ex_ok_bind {α β : Type} (a : α) (f : α → Ex β) : (Except.ok a >>= f) = f a := rfl

theorem issues_c {s : State} {c x : Nat} (h : Issues s c x) : s.c = c := by simp [State.c, h.cur]

theorem issues_x {s : State} {c x : Nat} (h : Issues s c x) : s.x = x := by simp [State.x, h.cur]

theorem noWindow_ok {s : State} {c x : Nat} (h : Issues s c x) (w : (s.cx c x).window = none) : noWindow s = .ok () := by
  unfold noWindow; rw [issues_c h, issues_x h, w]

/-- A read of words that hold no corrected error counts nothing. -/
theorem noteRead_none {s : State} {c st lo hi : Nat} (h : NoCorr (s.core c) st lo (hi - lo)) (le : lo ≤ hi) : s.noteRead c st lo hi = s := by
  have e : (s.core c).corrIn st lo hi = [] := by
    unfold Core.corrIn
    rw [List.filter_eq_nil_iff]
    intro p hp
    have := h p hp
    rw [Nat.add_sub_cancel' le] at this
    simp only [decide_eq_true_eq]
    omega
  simp [State.noteRead, e]

/-- A readable range of scratchpad is read without effect. -/
theorem spadGet_ok {s : State} {c a n : Nat} (h : Readable (s.core c) a n) : s.spadGet c a n = .ok ((s.core c).spad.part a n, s) := by
  have h1 : (linesOf a n).find? (s.core c).isEmpty = none := by
    rw [List.find?_eq_none]; intro l hl; simp [h.full l hl]
  have h2 : (List.range' (a / 8) ((a + n + 7) / 8 - a / 8)).find? ((s.core c).spoison.get false) = none := by
    rw [List.find?_eq_none]
    intro w hw
    rw [List.mem_range'_1] at hw
    simp [h.clean w hw.1 (by omega)]
  have h3 := noteRead_none h.exact (by omega : a / 8 ≤ (a + n + 7) / 8)
  unfold State.spadGet spadRead
  by_cases hn : n = 0
  · subst hn
    simp only [if_true, ex_ok_bind]
    rw [show (a + 0 + 7) / 8 = (a + 7) / 8 by omega] at h3
    simp [h3, Memory.part, Memory.bytes]
  · simp only [hn, if_false, h1, h2, ex_ok_bind, h3]

theorem regCheck_ok {k : Core} {srcs : List Nat} {dst : Option Nat} {x : Nat} (h : Usable k x srcs dst) : regCheck k srcs dst = .ok () := by
  have hs : ∀ q ∈ queuesOf srcs, q % 2 = 1 ∧ ¬(q = 7 ∧ k.q7chan.isSome) ∧ k.cl.has (.queue q) = true ∧ k.queue q ≠ [] :=
    fun q hq => h.src q (mem_queuesOf.1 hq)
  have hd : ∀ q ∈ queuesOf dst.toList, q % 2 = 0 ∧ k.cl.has (.queue q) = true ∧ (k.queue q).length < qDepth q := by
    intro q hq
    have := mem_queuesOf.1 hq
    exact h.dst q (by simpa [eq_comm] using this)
  unfold regCheck
  have h1 : (forIn (queuesOf srcs) PUnit.unit (fun q _ => do
      need (q % 2 == 1 && !(q == 7 && k.q7chan.isSome)) .queueDirection q; pure (ForInStep.yield PUnit.unit)) : Ex PUnit) = .ok PUnit.unit := by
    apply forIn_need_ok
    intro q hq
    have := hs q hq
    have e : (q % 2 == 1 && !(q == 7 && k.q7chan.isSome)) = true := by
      simp only [Bool.and_eq_true, beq_iff_eq, Bool.not_eq_true', Bool.and_eq_false_iff]
      refine ⟨this.1, ?_⟩
      by_cases h7 : q = 7
      · right; simpa [h7] using this.2.1
      · left; simpa using h7
    rw [e]; rfl
  have h2 : (forIn (queuesOf dst.toList) PUnit.unit (fun q _ => do
      need (q % 2 == 0) .queueDirection q; pure (ForInStep.yield PUnit.unit)) : Ex PUnit) = .ok PUnit.unit := by
    apply forIn_need_ok
    intro q hq
    have e : (q % 2 == 0) = true := by simpa using (hd q hq).1
    rw [e]; rfl
  have h3 : (forIn (queuesOf srcs ++ queuesOf dst.toList) PUnit.unit (fun q _ => do
      claim k (.queue q) q; pure (ForInStep.yield PUnit.unit)) : Ex PUnit) = .ok PUnit.unit := by
    apply forIn_need_ok
    intro q hq
    have e : k.cl.has (.queue q) = true := by
      rcases List.mem_append.1 hq with hq | hq
      · exact (hs q hq).2.2.1
      · exact (hd q hq).2.1
    unfold claim; rw [e]; rfl
  simp only []
  rw [h1]
  simp only [Except.bind, bind]
  erw [h2]
  erw [h3]
  rfl

theorem regReady_of {k : Core} {srcs : List Nat} {x : Nat} {dst : Option Nat} (h : Usable k x srcs dst) : regReady k x srcs dst = true := by
  unfold regReady
  simp only [Bool.and_eq_true, List.all_eq_true]
  refine ⟨fun q hq => ?_, fun q hq => ?_⟩
  · have hm := mem_queuesOf.1 hq
    simp [(h.src q hm).2.2.2, h.free q hm]
  · have hq := mem_queuesOf.1 hq
    have := (h.dst q (by simpa [eq_comm] using hq)).2.2
    simp only [Core.room, decide_eq_true_eq]
    omega

/-! ### The advance of a context -/

theorem flowOnly_refl (q : Ctx) : FlowOnly q q := rfl

theorem flowOnly_trans {p q r : Ctx} (h : FlowOnly p q) (g : FlowOnly q r) : FlowOnly p r := by
  unfold FlowOnly at *
  rw [g, h]

theorem flowOnly_goto (q : Ctx) (t : Nat) : FlowOnly q (q.goto t) := rfl

theorem flowOnly_next (q : Ctx) (a : Nat) : FlowOnly q (q.next a) := rfl

theorem flowOnly_advance (q : Ctx) (was : Option (Option Nat × Nat)) (a len : Nat) (fl : Flow) :
    FlowOnly q (q.advance was a len fl) := by
  unfold Ctx.advance
  cases fl <;> simp only <;> repeat' first | rfl | split

/-! ### Parts of the state -/

theorem State.phys_updCore_ne (s : State) {c d : Nat} (f : Core → Core) (h : d ≠ c) : (s.updCore c f).phys d = s.phys d := by
  simp [State.updCore, State.updPhys, State.phys, Store.get_upd_ne _ _ _ h]

theorem State.phys_updCore_same (s : State) (c : Nat) (f : Core → Core) :
    (s.updCore c f).phys c = { s.phys c with k := f (s.core c) } := by
  simp [State.updCore, State.updPhys, State.phys, State.core]

theorem outside_refl (s : State) (c : Nat) : OutsideSame s s c := ⟨rfl, fun _ _ => rfl, rfl⟩

theorem outside_updCore {s t : State} {c : Nat} (h : OutsideSame s t c) (f : Core → Core) : OutsideSame s (t.updCore c f) c := by
  refine ⟨?_, fun n hn => ?_, ?_⟩
  · have := h.device
    unfold State.updCore State.updPhys
    rw [this]
  · rw [State.phys_updCore_ne _ _ hn, h.others n hn]
  · rw [State.phys_updCore_same, h.own, State.core_updCore_same]

theorem outside_updCx {s t : State} {c : Nat} (h : OutsideSame s t c) (x : Nat) (f : Ctx → Ctx) : OutsideSame s (t.updCx c x f) c :=
  outside_updCore h _

/-! ### runScalar where nothing stops it -/

/-- The state in which a completed scalar instruction leaves the device, from the state after its effects. -/
def completed (s t : State) (c x : Nat) (fl : Flow) : State :=
  (if x = 0 then t.updCore c (·.mxCount 5 1) else t).updCx c x (fun p =>
    p.advance (s.cx c x).pend (s.cx c x).pc.toNat (if (s.cx c x).pfx.isSome then 8 else 4) fl)

theorem runScalar_ok {kd : Kind} {w c x : Nat} {body : State → Ex (State × Flow)} {s t : State} {fl : Flow}
    (hi : Issues s c x) (hp : placeTrap kd w (s.cx c x) = none) (hb : body s = .ok (t, fl)) :
    runScalar kd w body s = .next (completed s t c x fl) := by
  have hc : s.c = c := by simp [State.c, hi.cur]
  have hx : s.x = x := by simp [State.x, hi.cur]
  unfold runScalar completed
  simp only [hc, hx, hp, hi.run, if_false, hb]

theorem placeTrap_plain (w : Nat) (q : Ctx) : placeTrap .plain w q = none := by
  simp [placeTrap]

theorem placeTrap_control {s : State} {c x : Nat} (h : IssuesControl s c x) (kd : Kind) (w : Nat) : placeTrap kd w (s.cx c x) = none := by
  simp [placeTrap, h.noTransfer, h.noRepeat]

theorem effect_completed {s b t : State} {c x : Nat} {k : Core} (fl : Flow) (h : OutsideSame b t c) (hk : t.core c = k) :
    Effect b (completed s t c x fl) c x k := by
  subst hk
  have e : ∀ u : State, OutsideSame b u c → (u.core c = { t.core c with mxcnt := (u.core c).mxcnt }) →
      Effect b (u.updCx c x (fun p => p.advance (s.cx c x).pend (s.cx c x).pc.toNat (if (s.cx c x).pfx.isSome then 8 else 4) fl)) c x (t.core c) := by
    intro u hu hk
    have hcx : (u.core c).cx = (t.core c).cx := by rw [hk]
    refine ⟨outside_updCx hu _ _, ?_, fun y hy => ?_, ?_⟩
    · rw [State.core_updCx_same]
      rw [hk]
    · rw [State.cx_updCx_ne _ _ hy]
      unfold State.cx
      rw [hcx]
    · rw [State.cx_updCx_same]
      unfold State.cx
      rw [hcx]
      exact flowOnly_advance _ _ _ _ _
  unfold completed
  split
  · refine e _ (outside_updCore h _) ?_
    rw [State.core_updCore_same]
    rfl
  · exact e _ h rfl

/-- A scalar instruction whose body answers t completes with t's effects. -/
theorem scalar_ok {kd : Kind} {w c x : Nat} {body : State → Ex (State × Flow)} {s b t : State} {fl : Flow}
    (hi : Issues s c x) (hp : placeTrap kd w (s.cx c x) = none) (hb : body s = .ok (t, fl)) (ho : OutsideSame b t c) :
    ∃ u, runScalar kd w body s = .next u ∧ Effect b u c x (t.core c) :=
  ⟨_, runScalar_ok hi hp hb, effect_completed fl ho rfl⟩

/-- As scalar_ok, where the effects are a change of the core's state. -/
theorem scalar_upd {kd : Kind} {w c x : Nat} {body : State → Ex (State × Flow)} {s : State} {fl : Flow} (g : Core → Core)
    (hi : Issues s c x) (hp : placeTrap kd w (s.cx c x) = none) (hb : body s = .ok (s.updCore c g, fl)) :
    ∃ u, runScalar kd w body s = .next u ∧ Effect s u c x (g (s.core c)) := by
  have h := scalar_ok hi hp hb (outside_updCore (outside_refl s c) g)
  rwa [State.core_updCore_same] at h

/-- The count of Marionette is no part of an effect. -/
theorem effect_of_mxcnt {b u : State} {c x : Nat} {k k' : Core} (h : Effect b u c x k) (e : k' = { k with mxcnt := k'.mxcnt }) :
    Effect b u c x k' := by
  refine ⟨h.outside, ?_, fun y hy => ?_, ?_⟩
  · rw [h.core, e]
  · rw [h.others y hy, e]
  · have := h.own
    rw [e]
    exact this

/-! ### Instructions over registers -/

theorem queue_setQueue (k : Core) (n m : Nat) (l : List W64) : (k.setQueue n l).queue m = if m = n then l else k.queue m := by
  simp [Core.queue, Core.setQueue, Store.get_put]

/-- Pops leave all of a core but its queues. -/
theorem foldl_pop_core (l : List Nat) : ∀ k : Core,
    l.foldl (fun k q => k.setQueue q (k.queue q).tail) k = { k with q := (l.foldl (fun k q => k.setQueue q (k.queue q).tail) k).q } := by
  induction l with
  | nil => intro k; rfl
  | cons a l ih => intro k; rw [List.foldl_cons, ih]; rfl

theorem foldl_pop_queue (l : List Nat) : l.Nodup → ∀ (k : Core) (n : Nat),
    (l.foldl (fun k q => k.setQueue q (k.queue q).tail) k).queue n = if n ∈ l then (k.queue n).tail else k.queue n := by
  induction l with
  | nil => intro _ k n; simp
  | cons a l ih =>
    intro hl k n
    rw [List.foldl_cons, ih (List.nodup_cons.1 hl).2, queue_setQueue]
    by_cases h : n = a
    · subst h
      simp [(List.nodup_cons.1 hl).1]
    · simp [h]

theorem popSrcs_core (k : Core) (srcs : List Nat) : popSrcs k srcs = { k with q := (popSrcs k srcs).q } := foldl_pop_core _ _

theorem popSrcs_queue (k : Core) (srcs : List Nat) (n : Nat) :
    (popSrcs k srcs).queue n = if n + 24 ∈ srcs then (k.queue n).tail else k.queue n := by
  unfold popSrcs
  rw [foldl_pop_queue _ (by unfold queuesOf; exact List.nodup_dedup _)]
  simp only [mem_queuesOf]

/-- The pops and the write at the end of an instruction over registers. -/
def retired (t : State) (c x : Nat) (srcs : List Nat) (dst v : Option Nat) : State :=
  match dst, v with
  | some d, some v => (t.updCore c (fun k => popSrcs k srcs)).updCore c (fun k => writeReg k x d (w64 v))
  | _, _ => t.updCore c (fun k => popSrcs k srcs)

/-- withRegs where its operands are usable and its checks pass. -/
theorem withRegs_ok {srcs : List Nat} {dst : Option Nat} {pre : Core → Ex Unit} {f : List Nat → State → Ex (State × Option Nat × Flow)}
    {s t : State} {c x : Nat} {v : Option Nat} {fl : Flow} (hi : Issues s c x) (hu : Usable (s.core c) x srcs dst)
    (hp : pre (s.core c) = .ok ()) (hf : f (srcs.map (fun r => (src s c x r).toNat)) s = .ok (t, v, fl)) :
    withRegs srcs dst pre f s = .ok (retired t c x srcs dst v, fl) := by
  have hc : s.c = c := by simp [State.c, hi.cur]
  have hx : s.x = x := by simp [State.x, hi.cur]
  unfold withRegs
  simp only [hc, hx, regCheck_ok hu, hp, regReady_of hu, await, if_true, bind, Except.bind]
  simp only [src] at hf
  rw [hf]
  simp only [Except.mapError]
  cases dst <;> cases v <;> rfl

/-- An instruction over registers without a destination completes with its effect and its pops. -/
theorem regs_ok {kd : Kind} {w : Nat} {srcs : List Nat} {pre : Core → Ex Unit} {f : List Nat → State → Ex (State × Option Nat × Flow)}
    {s b t : State} {c x : Nat} {v : Option Nat} {fl : Flow} (hi : Issues s c x) (hp : placeTrap kd w (s.cx c x) = none)
    (hu : Usable (s.core c) x srcs none) (hpre : pre (s.core c) = .ok ())
    (hf : f (srcs.map (fun r => (src s c x r).toNat)) s = .ok (t, v, fl)) (ho : OutsideSame b t c) :
    ∃ u, runScalar kd w (withRegs srcs none pre f) s = .next u ∧ Effect b u c x (popSrcs (t.core c) srcs) := by
  have h := scalar_ok (b := b) hi hp (withRegs_ok hi hu hpre hf) (outside_updCore ho (fun k => popSrcs k srcs))
  have e : (retired t c x srcs none v).core c = popSrcs (t.core c) srcs := State.core_updCore_same t c _
  rwa [e] at h

/-- As regs_ok, where the effects are a change of the core's state. -/
theorem regs_upd {kd : Kind} {w : Nat} {srcs : List Nat} {pre : Core → Ex Unit} {f : List Nat → State → Ex (State × Option Nat × Flow)}
    {s : State} {c x : Nat} {v : Option Nat} {fl : Flow} (g : Core → Core) (hi : Issues s c x) (hp : placeTrap kd w (s.cx c x) = none)
    (hu : Usable (s.core c) x srcs none) (hpre : pre (s.core c) = .ok ())
    (hf : f (srcs.map (fun r => (src s c x r).toNat)) s = .ok (s.updCore c g, v, fl)) :
    ∃ u, runScalar kd w (withRegs srcs none pre f) s = .next u ∧ Effect s u c x (popSrcs (g (s.core c)) srcs) := by
  have h := regs_ok hi hp hu hpre hf (outside_updCore (outside_refl s c) g)
  rwa [State.core_updCore_same] at h

theorem popSrcs_nil (k : Core) : popSrcs k [] = k := rfl

@[simp] theorem orFlags_zero (k : Core) : k.orFlags 0 = k := by simp [Core.orFlags]

/-- The effect of pops, a write and flags, as RegEffect says it. -/
theorem regEffect_completed {s b t : State} {c x : Nat} {srcs : List Nat} {d : Nat} {v : W64} {n : Nat} (fl : Flow)
    (ho : OutsideSame b t c) (ht : t.core c = (b.core c).orFlags n) :
    RegEffect b (completed s ((t.updCore c (fun k => popSrcs k srcs)).updCore c (fun k => writeReg k x d v)) c x fl) c x srcs (some d) v n := by
  have h := effect_completed (s := s) (c := c) (x := x) fl
    (outside_updCore (outside_updCore ho (fun k => popSrcs k srcs)) (fun k => writeReg k x d v)) rfl
  revert h
  generalize completed s _ c x fl = u
  intro h
  have hk : ((t.updCore c (fun k => popSrcs k srcs)).updCore c (fun k => writeReg k x d v)).core c
      = writeReg (popSrcs ((b.core c).orFlags n) srcs) x d v := by simp [ht]
  rw [hk] at h
  have hpop := popSrcs_core ((b.core c).orFlags n) srcs
  have hcx : (popSrcs ((b.core c).orFlags n) srcs).cx = (b.core c).cx := by rw [hpop]; rfl
  have hw : ∀ k : Core, writeReg k x d v = { k with cx := (writeReg k x d v).cx, q := (writeReg k x d v).q } := by
    intro k; unfold writeReg; split
    · rfl
    · split <;> rfl
  have hwy : ∀ (k : Core) (y : Nat), y ≠ x → (writeReg k x d v).cx.get {} y = k.cx.get {} y := by
    intro k y hy; unfold writeReg; split
    · rfl
    · split
      · simp [Store.get_upd_ne _ _ _ hy]
      · rfl
  have hwx : ∀ k : Core, (writeReg k x d v).cx.get {} x =
      { k.cx.get {} x with s := if d ≠ 0 ∧ d < 24 then (k.cx.get {} x).s.put 0 d v else (k.cx.get {} x).s } := by
    intro k; unfold writeReg; split
    · rename_i h0; simp [h0]
    · rename_i h0
      split
      · rename_i h1; simp [h0, h1]
      · rename_i h1; simp [h1, Core.setQueue]
  have hown := h.own
  unfold FlowOnly at hown
  have hown' : u.cx c x = (u.core c).cx.get {} x := rfl
  have hs : (u.cx c x).s = if d ≠ 0 ∧ d < 24 then (b.cx c x).s.put 0 d v else (b.cx c x).s := by
    rw [hown, hwx, hcx]; rfl
  have hq : (u.core c).q = (writeReg (popSrcs ((b.core c).orFlags n) srcs) x d v).q := by rw [h.core]
  have hqueue : ∀ m, (u.core c).queue m = (writeReg (popSrcs ((b.core c).orFlags n) srcs) x d v).queue m := by
    intro m; unfold Core.queue; rw [hq]
  have hcore : u.core c = { b.core c with cx := (u.core c).cx, q := (u.core c).q, fpflags := (b.core c).fpflags ||| n, mxcnt := (u.core c).mxcnt } := by
    rw [h.core, hw, hpop]; rfl
  refine ⟨h.outside, hcore, fun y hy => ?_, ?_, fun r h0 h24 => ?_, rfl, fun m => ?_, fun a => ?_, fun a => ?_⟩
  · rw [h.others y hy, hwy _ _ hy, hcx]; rfl
  · unfold FlowOnly
    rw [hown, hwx, hcx]; rfl
  · rw [hs]
    by_cases hd : d = r
    · subst hd
      simp [show d ≠ 0 by omega, h24]
    · have : some d ≠ some r := by simpa using hd
      rw [if_neg this]
      split
      · exact Store.get_put_ne _ _ _ (fun e => hd e.symm)
      · rfl
  · rw [hqueue]
    have hp := popSrcs_queue ((b.core c).orFlags n) srcs m
    have hpre : ((b.core c).orFlags n).queue m = (b.core c).queue m := rfl
    rw [hpre] at hp
    unfold writeReg
    split
    · rename_i h0
      rw [hp]; simp [h0]
    · split
      · rename_i h1
        have : some d ≠ some (m + 24) := by simp; omega
        rw [if_neg this, List.append_nil, ← hp]
        rfl
      · rename_i h1
        rw [queue_setQueue]
        by_cases hm : m = d - 24
        · subst hm
          have e : d - 24 + 24 = d := by omega
          rw [if_pos rfl, hp, e, if_pos rfl]
        · have e : some d ≠ some (m + 24) := by
            simp only [ne_eq, Option.some.injEq]; omega
          rw [if_neg hm, hp, if_neg e, List.append_nil]
  · rw [h.outside.device]
  · rw [hcore]

theorem orFlags_core (k : Core) (n : Nat) : k.orFlags n = { k with fpflags := k.fpflags ||| n } := rfl

/-- An instruction over registers that writes one completes with its effect on b, its flags, its pops and the write. -/
theorem regs_write_ok {kd : Kind} {w : Nat} {srcs : List Nat} {d v n : Nat} {pre : Core → Ex Unit}
    {f : List Nat → State → Ex (State × Option Nat × Flow)} {s b t : State} {c x : Nat} {fl : Flow} (hi : Issues s c x)
    (hp : placeTrap kd w (s.cx c x) = none) (hu : Usable (s.core c) x srcs (some d)) (hpre : pre (s.core c) = .ok ())
    (hf : f (srcs.map (fun r => (src s c x r).toNat)) s = .ok (t, some v, fl))
    (ho : OutsideSame b t c) (ht : t.core c = (b.core c).orFlags n) :
    ∃ u, runScalar kd w (withRegs srcs (some d) pre f) s = .next u ∧ RegEffect b u c x srcs (some d) (w64 v) n :=
  ⟨_, runScalar_ok hi hp (withRegs_ok hi hu hpre hf), regEffect_completed fl ho ht⟩

/-- An instruction that computes a register completes. -/
theorem regOp_ok {s : State} {c x d : Nat} {srcs : List Nat} (f : Ctx → List Nat → Nat × Nat) (hi : Issues s c x)
    (hu : Usable (s.core c) x srcs (some d)) :
    ∃ t, regOp srcs d f s = .next t ∧
      RegEffect s t c x srcs (some d) (w64 (f (s.cx c x) (srcs.map (fun r => (src s c x r).toNat))).1)
        (f (s.cx c x) (srcs.map (fun r => (src s c x r).toNat))).2 := by
  have hc : s.c = c := by simp [State.c, hi.cur]
  have hx : s.x = x := by simp [State.x, hi.cur]
  refine ⟨_, runScalar_ok hi (placeTrap_plain _ _) (withRegs_ok (t := s.updCore c (·.orFlags (f (s.cx c x) (srcs.map (fun r => (src s c x r).toNat))).2))
    (v := some (f (s.cx c x) (srcs.map (fun r => (src s c x r).toNat))).1) (fl := .seq) hi hu rfl ?_), ?_⟩
  · simp only [hc, hx]
  · exact regEffect_completed .seq (outside_updCore (outside_refl s c) _) (State.core_updCore_same s c _)

/-- The effect of pops, a condition bit and flags, as CondEffect says it. -/
theorem condEffect_completed {s : State} {c x m n : Nat} {v : Bool} {srcs : List Nat} (fl : Flow) :
    CondEffect s (completed s (retired (s.updCore c (fun k => setCond (k.orFlags n) x m v)) c x srcs none none) c x fl) c x srcs m v n := by
  have h := effect_completed (s := s) (c := c) (x := x) fl
    (outside_updCore (outside_updCore (outside_refl s c) (fun k => setCond (k.orFlags n) x m v)) (fun k => popSrcs k srcs)) rfl
  unfold retired
  revert h
  generalize completed s _ c x fl = u
  intro h
  have hk : ((s.updCore c (fun k => setCond (k.orFlags n) x m v)).updCore c (fun k => popSrcs k srcs)).core c
      = popSrcs (setCond ((s.core c).orFlags n) x m v) srcs := by simp
  rw [hk, popSrcs_core] at h
  have hown := h.own
  unfold FlowOnly at hown
  have hcx : ∀ y, y ≠ x → (setCond ((s.core c).orFlags n) x m v).cx.get {} y = s.cx c y := by
    intro y hy
    simp [setCond, Core.orFlags, State.cx, Store.get_upd_ne _ _ _ hy]
  have hx : (setCond ((s.core c).orFlags n) x m v).cx.get {} x = { s.cx c x with c := (s.cx c x).c.put false m v } := by
    simp [setCond, Core.orFlags, State.cx]
  have hcore : u.core c = { s.core c with cx := (u.core c).cx, q := (u.core c).q, fpflags := (s.core c).fpflags ||| n, mxcnt := (u.core c).mxcnt } := by
    rw [h.core]; rfl
  have hq : (u.core c).q = (popSrcs (setCond ((s.core c).orFlags n) x m v) srcs).q := by rw [h.core]
  refine ⟨h.outside, hcore, fun y hy => ?_, ?_, fun j => ?_, fun j => ?_, fun a => ?_, fun a => ?_⟩
  · rw [h.others y hy]; exact hcx y hy
  · unfold FlowOnly
    rw [hown]
    simp only [hx]
  · rw [hown]
    simp only [hx]
    rw [Store.get_put]
  · unfold Core.queue
    rw [hq]
    exact popSrcs_queue (setCond ((s.core c).orFlags n) x m v) srcs j
  · rw [h.outside.device]
  · rw [hcore]

/-- An instruction that writes a condition bit completes. -/
theorem condOp_ok {s : State} {c x n : Nat} {srcs : List Nat} (f : Ctx → List Nat → Bool × Nat) (hi : Issues s c x)
    (hu : Usable (s.core c) x srcs none) :
    ∃ t, condOp srcs n f s = .next t ∧
      CondEffect s t c x srcs n (f (s.cx c x) (srcs.map (fun r => (src s c x r).toNat))).1
        (f (s.cx c x) (srcs.map (fun r => (src s c x r).toNat))).2 := by
  have hc : s.c = c := by simp [State.c, hi.cur]
  have hx : s.x = x := by simp [State.x, hi.cur]
  refine ⟨_, runScalar_ok hi (placeTrap_plain _ _) (withRegs_ok (t := s.updCore c (fun k => setCond (k.orFlags (f (s.cx c x) (srcs.map (fun r => (src s c x r).toNat))).2) x n (f (s.cx c x) (srcs.map (fun r => (src s c x r).toNat))).1))
    (v := none) (fl := .seq) hi hu rfl ?_), ?_⟩
  · simp only [hc, hx]
  · exact condEffect_completed .seq

end Sys2Proof.Machine
end

