-- ==== Sys2Proof/Laws/Shared.lean ====
section
/-! SUPPORT. What each shared frame of instructions and steps can do, said once: every answer of runScalar, runEngine, runFollow, runWord, onEntry, privileged, serve, onCounter, handle and complete is one of the cases named here. -/

namespace Sys2Proof.Machine

/-- A scalar instruction traps by its place, is passed over by a repeat of 0, stops, or completes and its context advances (13 R263, R273, R277). -/
theorem runScalar_cases (kd : Kind) (w : Nat) (body : State → Ex (State × Flow)) (s : State) :
    (∃ p, placeTrap kd w (s.cx s.c s.x) = some p ∧ runScalar kd w body s = .next (s.stopCx s.c s.x (.trap p.1 p.2))) ∨
    (placeTrap kd w (s.cx s.c s.x) = none ∧ (s.cx s.c s.x).rep = .skip ∧ runScalar kd w body s =
      .next (s.updCx s.c s.x (fun q => { q with rep := .none }.advance (s.cx s.c s.x).pend (s.cx s.c s.x).pc.toNat (if (s.cx s.c s.x).pfx.isSome then 8 else 4) .seq))) ∨
    (placeTrap kd w (s.cx s.c s.x) = none ∧ (s.cx s.c s.x).rep ≠ .skip ∧ ∃ e, body s = .error e ∧ runScalar kd w body s = .next (s.stopCx s.c s.x e)) ∨
    (placeTrap kd w (s.cx s.c s.x) = none ∧ (s.cx s.c s.x).rep ≠ .skip ∧ ∃ t fl, body s = .ok (t, fl) ∧ runScalar kd w body s =
      .next ((if s.x = 0 then t.updCore s.c (·.mxCount 5 1) else t).updCx s.c s.x
        (fun p => p.advance (s.cx s.c s.x).pend (s.cx s.c s.x).pc.toNat (if (s.cx s.c s.x).pfx.isSome then 8 else 4) fl))) := by
  unfold runScalar
  dsimp only
  split
  · next p h => exact .inl ⟨(_, _), h, rfl⟩
  · next h =>
    split
    · next hr => exact .inr (.inl ⟨h, hr, rfl⟩)
    · next hr =>
      split
      · next e he => exact .inr (.inr (.inl ⟨h, hr, e, he, rfl⟩))
      · next t fl he => exact .inr (.inr (.inr ⟨h, hr, t, fl, he, rfl⟩))

/-- The end of a ring word whose body has been run: it stops, overflows its raise, or finishes (14 R300; 13 R297). -/
def WordEnds (s t : State) (c : Nat) (m : Bool) (w : Word) (body : State → Ex (State × Nat × List W64)) : Prop :=
  (∃ e, body s = .error e ∧ t = s.stopWord c m w e) ∨
  (∃ u fl out, body s = .ok (u, fl, out) ∧ (u.core c).semFull w.rs = true ∧ t = s.haltWord c m .semOverflow w.rs w.bits w.accs) ∨
  (∃ u fl out, body s = .ok (u, fl, out) ∧ (u.core c).semFull w.rs = false ∧ t = u.finishWord c m w fl out)

/-- A word of a ring waits where it is, is ill-formed, is dequeued and run, or goes on (06 R111, R113; 12 R260; 14 R299). -/
theorem runEngine_cases (m : Bool) (word : Core → Word) (body : State → Ex (State × Nat × List W64)) (s : State) :
    ∃ t, runEngine m word body s = .next t ∧
      ((t = s ∧ ((s.core s.c).engineFree m = false ∨ (((s.core s.c).ring m).word = none ∧ (s.core s.c).wordReady m (word (s.core s.c)) = false))) ∨
        ((s.core s.c).engineFree m = true ∧ ((s.core s.c).ring m).word = none ∧ (word (s.core s.c)).legal = false ∧
          t = s.haltWord s.c m .illFormed 0 (word (s.core s.c)).bits (word (s.core s.c)).accs) ∨
        ((s.core s.c).engineFree m = true ∧ ((s.core s.c).ring m).word = none ∧ (word (s.core s.c)).legal = true ∧
          (s.core s.c).wordReady m (word (s.core s.c)) = true ∧
          WordEnds (s.dequeue s.c m (word (s.core s.c))) t s.c m (word (s.core s.c)) body) ∨
        ((s.core s.c).engineFree m = true ∧ ((s.core s.c).ring m).word.isSome = true ∧ WordEnds s t s.c m (word (s.core s.c)) body)) := by
  have go : ∀ u : State, ∃ t, (match body u with
      | .error e => (.next (u.stopWord s.c m (word (s.core s.c)) e) : Out)
      | .ok (t, fl, out) =>
        if (t.core s.c).semFull (word (s.core s.c)).rs then .next (u.haltWord s.c m .semOverflow (word (s.core s.c)).rs (word (s.core s.c)).bits (word (s.core s.c)).accs)
        else .next (t.finishWord s.c m (word (s.core s.c)) fl out)) = .next t ∧ WordEnds u t s.c m (word (s.core s.c)) body := by
    intro u
    split
    · next e he => exact ⟨_, rfl, .inl ⟨e, he, rfl⟩⟩
    · next t fl out he =>
      split
      · next h => exact ⟨_, rfl, .inr (.inl ⟨t, fl, out, he, h, rfl⟩)⟩
      · next h => exact ⟨_, rfl, .inr (.inr ⟨t, fl, out, he, by simpa using h, rfl⟩)⟩
  unfold runEngine
  dsimp only
  split
  · next h => exact ⟨s, rfl, .inl ⟨rfl, .inl (by simpa using h)⟩⟩
  · next h =>
    have hf : (s.core s.c).engineFree m = true := by simpa using h
    split
    · next hw =>
      obtain ⟨t, ht, he⟩ := go s
      exact ⟨t, ht, .inr (.inr (.inr ⟨hf, hw, he⟩))⟩
    · next hw =>
      have hn : ((s.core s.c).ring m).word = none := by simpa using hw
      split
      · next hl => exact ⟨_, rfl, .inr (.inl ⟨hf, hn, by simpa using hl, rfl⟩)⟩
      · next hl =>
        split
        · next hr =>
          obtain ⟨t, ht, he⟩ := go (s.dequeue s.c m (word (s.core s.c)))
          exact ⟨t, ht, .inr (.inr (.inl ⟨hf, hn, by simpa using hl, hr, he⟩))⟩
        · next hr => exact ⟨s, rfl, .inl ⟨rfl, .inr ⟨hn, by simpa using hr⟩⟩⟩

/-- A sampler word of a context that does not run, or whose reply is pending, changes nothing; else it goes on, ends, replies or waits for a line (09 R200; 16 R360, R361). -/
theorem runWord_cases (f : Core → Seq → WordEnd) (s : State) :
    let n := s.seqNo
    let q := s.seq n
    ((seqRuns s q = false ∨ q.reply.isSome = true) ∧ runWord f s = .next s) ∨
    (seqRuns s q = true ∧ q.reply = none ∧
      ((∃ r, f (s.core q.core) q = .go r ∧ runWord f s = .next (s.updSeq n (fun _ => { r with pc := q.pc + 4, emptyAt := none }))) ∨
        (f (s.core q.core) q = .idle ∧ runWord f s = .next (s.updSeq n (fun q => { q with st := 0, emptyAt := none }))) ∨
        (∃ st token, f (s.core q.core) q = .reply st token ∧ runWord f s = .next (s.updSeq n (·.stop st token s.tick))) ∨
        (∃ l, f (s.core q.core) q = .empty l ∧ runWord f s = .next (s.updSeq n (fun q => { q with emptyAt := some l }))))) := by
  dsimp only
  unfold runWord
  dsimp only
  split
  · next h =>
    refine .inl ⟨?_, rfl⟩
    simpa using h
  · next h =>
    simp only [Bool.or_eq_true, Bool.not_eq_true', not_or, Bool.not_eq_false, Bool.not_eq_true, Option.isSome_eq_false_iff, Option.isNone_iff_eq_none] at h
    refine .inr ⟨h.1, h.2, ?_⟩
    split
    · next r he => exact .inl ⟨r, he, rfl⟩
    · next he => exact .inr (.inl ⟨he, rfl⟩)
    · next st tk he => exact .inr (.inr (.inl ⟨st, tk, he, rfl⟩))
    · next l he => exact .inr (.inr (.inr ⟨l, he, rfl⟩))

/-- Porter carries out the entry at the read count and writes its status record, waits, or has nothing of the kind to do (03 R45, R46, R49). -/
theorem onEntry_cases (kind : Nat → Nat → Bool) (f : Nat → Nat → State → Carried) (s : State) :
    ((s.ringLive s.unit = false ∨ kind s.unit (s.entry s.unit % 256) = false) ∧ onEntry kind f s = .next s) ∨
    (s.ringLive s.unit = true ∧ kind s.unit (s.entry s.unit % 256) = true ∧
      ((∃ m t, f s.unit (s.entry s.unit) s = .wait m t ∧ onEntry kind f s = .next (t.updVi s.unit (fun w => { w with taken := some (s.entry s.unit, m) }))) ∨
        ∃ code t, f s.unit (s.entry s.unit) s = .done code t ∧ onEntry kind f s =
          .next ((t.writeStatus s.unit (bitsOf (s.entry s.unit) 383 320) code).updVi s.unit
            (fun w => { w with pubrd := (w.pubrd + 1) % 2 ^ 64, taken := none })))) := by
  unfold onEntry
  dsimp only
  split
  · next h =>
    simp only [Bool.and_eq_true] at h
    refine .inr ⟨h.1, h.2, ?_⟩
    split
    · next m t he => exact .inl ⟨m, t, he, rfl⟩
    · next code t he => exact .inr ⟨code, t, he, rfl⟩
  · next h =>
    refine .inl ⟨?_, rfl⟩
    simp only [Bool.and_eq_true, not_and, Bool.not_eq_true] at h
    by_cases hl : s.ringLive s.unit = true
    · exact .inr (h hl)
    · exact .inl (by simpa using hl)

/-- The kernel answers a posted request with a status and takes it off the list, or the request is not of the kind or must wait (03 R59; 13 R293). -/
theorem serve_cases (code : Nat) (f : Request → Core → Nat → State → Option (Nat × State)) (s : State) :
    serve code f s = .next s ∨ ∃ r k st t, s.requests[s.unit]? = some r ∧ s.asker r = some k ∧
      serve code f s = .next ({ t with requests := t.requests.erase r }.updAsker r (fun k => { k with cx := k.cx.upd {} r.x (fun q => { q with wait := .reply st }) })) ∧
      (t = s ∨ ∃ b, f r k b s = some (st, t)) := by
  unfold serve
  split
  · exact .inl rfl
  · next r hr =>
    split
    · exact .inl rfl
    · next k hk =>
      dsimp only
      split
      · exact .inl rfl
      · split
        · split
          · exact .inr ⟨r, k, svcBadarg, s, hr, hk, rfl, .inl rfl⟩
          · split
            · next st t he => exact .inr ⟨r, k, st, t, hr, hk, rfl, .inr ⟨_, he⟩⟩
            · exact .inl rfl
        · split
          · exact .inr ⟨r, k, svcBadcode, s, hr, hk, rfl, .inl rfl⟩
          · exact .inl rfl

/-- The host's operation on a counter acts on a granted one, marks VISTAT for one beyond the grant, and does nothing on a device that is not ready (03 R43; 02 R32). -/
theorem onCounter_cases (v i : Nat) (f : Nat → State → State) (s : State) :
    (s.boot ≠ 1 ∧ onCounter v i f s = .next s) ∨
    (s.boot = 1 ∧ i < (s.vi v).evcount ∧ onCounter v i f s = .next (f ((s.vi v).evbase + i) s)) ∨
    (s.boot = 1 ∧ (s.vi v).evcount ≤ i ∧ onCounter v i f s = .next (s.updVi v (fun e => { e with vistat := e.vistat ||| 1 }))) := by
  unfold onCounter
  split
  · next h => exact .inl ⟨h, rfl⟩
  · next h =>
    split
    · next hi => exact .inr (.inl ⟨by simpa using h, hi, rfl⟩)
    · next hi => exact .inr (.inr ⟨by simpa using h, by omega, rfl⟩)

/-- A peer's command of another kind waits; one of the kind is performed and answered (01 R17). -/
theorem handle_cases (op : Nat) (f : PeerCmd → State → Nat × Nat × State) (s : State) :
    ((∀ c r, s.rx = c :: r → c.op ≠ op) ∧ handle op f s = .next s) ∨
    ∃ c r, s.rx = c :: r ∧ c.op = op ∧
      handle op f s = .next ((f c { s with rx := r }).2.2.respond c (f c { s with rx := r }).1 (f c { s with rx := r }).2.1) := by
  unfold handle
  split
  · next h => exact .inl ⟨fun c r e => by simp [h] at e, rfl⟩
  · next c r h =>
    split
    · next ho => exact .inr ⟨c, r, h, ho, rfl⟩
    · next ho =>
      refine .inl ⟨fun c' r' e => ?_, rfl⟩
      rw [h] at e
      cases e
      exact ho

/-- A step answers a next state exactly where its agent's move does, and the move's state is the step's but for the count of moves and the cores' cycles. -/
theorem step_next {s t : State} (h : step s = .next t) : ∃ u, moveOf s.pick s.acting = .next u ∧ t = u.after := by
  unfold step at h
  split at h
  · next u hu =>
    refine ⟨u, hu, ?_⟩
    cases h
    rfl
  · cases h
  · cases h

end Sys2Proof.Machine
end

