-- ==== Sys2Proof/Tests/Slice0.lean ====
section
/-! SUPPORT. Tests: terms that the well-formedness checks refuse, the decoding of every constructor, single steps, and for every statement with hypotheses a state and operands that meet them. -/

namespace Sys2Proof.Tests
open Sys2Proof Sys2Proof.Machine Sys2Proof.Stated
set_option Elab.async false

/-! ### Ill-formed terms: one for each check of WellFormed, with the last value that is allowed beside it -/

/-- No term of a list is well-formed. -/
def refused (l : List Instr) : Bool := l.all (fun i => !i.wf)
/-- Every term of a list is well-formed. -/
def allowed (l : List Instr) : Bool := l.all (fun i => i.wf)

/-- Functions of three registers take none above 31 (R237). -/
theorem test_wf_three_registers :
    (([.add, .sub, .iand, .ior, .ixor, .sll, .srl, .sra, .mul, .mulh, .mulhu, .div, .divu, .rem, .remu, .min, .max, .minu, .maxu,
       .fadd, .fsub, .fmul, .fdiv, .fma, .fmin, .fmax, .evadd, .evwait] : List (Nat → Nat → Nat → Instr)).all
      (fun f => (f 31 31 31).wf && refused [f 32 0 0, f 0 32 0, f 0 0 32])) = true := by decide

/-- Functions of two registers. -/
theorem test_wf_two_registers :
    (([.clz, .ctz, .popc, .fsqrt, .fabs, .fneg, .fclass, .evrd, .syscall, .fpop] : List (Nat → Nat → Instr)).all
      (fun f => (f 31 31).wf && refused [f 32 0, f 0 32])) = true := by decide

/-- Functions of one register. -/
theorem test_wf_one_register :
    (([.repA, .lcbwait, .relrow, .relmat, .empty, .fullset, .tjoin] : List (Nat → Instr)).all (fun f => (f 31).wf && !(f 32).wf)) = true := by decide

/-- Compares: a condition bit below 8, registers below 32, a condition code below 6, an immediate of 13 bits (R242, R267). -/
theorem test_wf_compares :
    (([.cmpEq, .cmpNe, .cmpLt, .cmpGe, .cmpLtu, .cmpGeu, .fcmpEq, .fcmpLt, .fcmpLe, .fcmpUn] : List (Nat → Nat → Nat → Instr)).all
      (fun f => (f 7 31 31).wf && refused [f 8 0 0, f 0 32 0, f 0 0 32])) = true ∧
    (([.cand, .cor, .cxor] : List (Nat → Nat → Nat → Instr)).all (fun f => (f 7 7 7).wf && refused [f 8 0 0, f 0 8 0, f 0 0 8])) = true ∧
    allowed [.cmpi 5 7 31 8191, .cnot 7 7, .sel 31 31 31 7] = true ∧
    refused [.cmpi 6 0 0 0, .cmpi 0 8 0 0, .cmpi 0 0 32 0, .cmpi 0 0 0 8192, .cnot 8 0, .cnot 0 8, .sel 32 0 0 0, .sel 0 32 0 0, .sel 0 0 32 0,
      .sel 0 0 0 8] = true := by decide

/-- Immediates of 16 bits, shifts below 64 (R266). -/
theorem test_wf_immediates :
    (([.addi, .andi, .ori, .xori] : List (Nat → Nat → Nat → Instr)).all (fun f => (f 31 31 65535).wf && refused [f 32 0 0, f 0 32 0, f 0 0 65536])) = true ∧
    (([.slli, .srli, .srai] : List (Nat → Nat → Nat → Instr)).all (fun f => (f 31 31 63).wf && refused [f 32 0 0, f 0 32 0, f 0 0 64])) = true ∧
    (([.movi, .movhi] : List (Nat → Nat → Instr)).all (fun f => (f 31 65535).wf && refused [f 32 0, f 0 65536])) = true := by decide

/-- Format codes of the extensions and conversions (R243, R265, R270). -/
theorem test_wf_formats :
    allowed [.sext 1 2 2, .zext 1 2 4, .zext 1 2 6, .cvtfi 1 2 2, .cvtfi 1 2 7, .cvtif 1 2 7, .cvtff 1 2 8, .cvtff 1 2 0x24, .cvtft 1 2 0x3F] = true ∧
    refused [.sext 1 2 3, .sext 32 2 2, .sext 1 32 2, .zext 1 2 3, .zext 1 2 7, .zext 32 2 4, .zext 1 32 4, .cvtfi 1 2 0, .cvtfi 1 2 4, .cvtfi 32 2 2,
      .cvtfi 1 32 2, .cvtif 1 2 8, .cvtif 32 2 0, .cvtif 1 32 0, .cvtff 1 2 11, .cvtff 1 2 0x23, .cvtff 32 2 8, .cvtff 1 32 8, .cvtft 1 2 64, .cvtft 1 2 7,
      .cvtft 32 2 8, .cvtft 1 32 8] = true := by decide

/-- Control registers, loads, stores and strong accesses (R271, R278, R279). -/
theorem test_wf_memory :
    allowed [.csrr 31 65535, .csrw 31 65535, .ld 31 31 7 4095, .st 31 31 4 4095, .lda 31 31 3 4 1, .stl 31 31 3 4 2, .xadd 31 31 4 3, .xrd 31 31 4 3] = true ∧
    refused [.csrr 32 0, .csrr 0 65536, .csrw 32 0, .csrw 0 65536, .ld 32 0 0 0, .ld 0 32 0 0, .ld 0 0 8 0, .ld 0 0 0 4096, .st 32 0 4 0, .st 0 32 4 0,
      .st 0 0 3 0, .st 0 0 8 0, .st 0 0 4 4096, .lda 32 0 0 0 0, .lda 0 32 0 0 0, .lda 0 0 4 0 0, .lda 0 0 0 5 0, .lda 0 0 0 0 2, .stl 32 0 0 0 0,
      .stl 0 32 0 0 0, .stl 0 0 4 0 0, .stl 0 0 0 5 0, .stl 0 0 0 0 1, .xadd 32 0 0 0, .xadd 0 32 0 0, .xadd 0 0 5 0, .xadd 0 0 0 4, .xrd 32 0 0 0,
      .xrd 0 32 0 0, .xrd 0 0 5 0, .xrd 0 0 0 4] = true := by decide

/-- Atomics (R280). -/
theorem test_wf_atomics :
    (([.amoAdd, .amoSwap, .amoCas, .amoAnd, .amoOr, .amoXor, .amoMin, .amoMax, .amoMinu, .amoMaxu, .amoFadd] :
        List (Nat → Nat → Nat → Nat → Nat → Nat → Instr)).all (fun f => (f 31 31 31 1 4 3).wf &&
      refused [f 32 0 0 0 0 0, f 0 32 0 0 0 0, f 0 0 32 0 0 0, f 0 0 0 2 0 0, f 0 0 0 0 5 0, f 0 0 0 0 0 4])) = true := by decide

/-- Prefix, branches, loops and repeats (R240, R245, R272 to R277). -/
theorem test_wf_control :
    allowed [.pfx 3 true true 0x1FFFFF, .pfx 0 false true 0, .pbt 3 65535, .pbr 3 31, .br 3 15, .br 3 16, .brl 3 31, .loopHw 1 31 65535, .trap 63,
      .fence 4, .phase 4, .phasePub 4, .phaseRef 4, .repi 64, .lcget 31 1] = true ∧
    refused [.pfx 8 true true 0, .pfx 0 false true 0x200000, .pfx 1 false true 0, .pfx 4 true true 0, .pbt 4 0, .pbt 0 65536, .pbr 4 0, .pbr 0 32,
      .br 4 0, .br 0 17, .brl 4 0, .brl 0 32, .loopHw 2 0 0, .loopHw 0 32 0, .loopHw 0 0 65536, .trap 64, .fence 5, .phase 5, .phasePub 5, .phaseRef 5,
      .repi 0, .repi 65, .lcget 32 0, .lcget 0 2] = true := by decide

/-- Synchronisation objects, power, coder, windows and tails (R284 to R289, R347, R357, R358). -/
theorem test_wf_units :
    allowed [.semraise 31, .semwait 31, .bsel 7, .bbarm 15 31, .bbwait 15, .cbcons 7 31, .cbset 7 31, .pwr 3 2, .rcinitEnc 63 31, .rcinitDec 63 31,
      .rcenc 63 15 31, .rcdec 31 63 15, .rcdecn 48 16, .rcflush 63, .rcsave 63 31, .rcload 63 31, .cdld 15 31, .cdsave 15 31, .swopen 3 31, .swstep 3,
      .swcommit 31 3 31, .swabort 3, .swalloc 31 3, .swstat 31 3, .relc 7 31 31 3] = true ∧
    refused [.semraise 32, .semwait 32, .bsel 8, .bbarm 16 0, .bbarm 0 32, .bbwait 16, .cbcons 8 0, .cbcons 0 32, .cbset 8 0, .cbset 0 32, .pwr 4 0,
      .pwr 0 3, .rcinitEnc 64 0, .rcinitEnc 0 32, .rcinitDec 64 0, .rcinitDec 0 32, .rcenc 64 0 0, .rcenc 0 16 0, .rcenc 0 0 32, .rcdec 32 0 0,
      .rcdec 0 64 0, .rcdec 0 0 16, .rcdecn 64 1, .rcdecn 0 0, .rcdecn 0 17, .rcdecn 49 16, .rcflush 64, .rcsave 64 0, .rcsave 0 32, .rcload 64 0,
      .rcload 0 32, .cdld 16 0, .cdld 0 32, .cdsave 16 0, .cdsave 0 32, .swopen 4 0, .swopen 0 32, .swstep 4, .swcommit 32 0 0, .swcommit 0 4 0,
      .swcommit 0 0 32, .swabort 4, .swalloc 32 0, .swalloc 0 4, .swstat 32 0, .swstat 0 4, .relc 8 0 0 0, .relc 0 32 0 0, .relc 0 0 32 0,
      .relc 0 0 0 4] = true := by decide

/-- Row words: every field of R249 within its width. -/
theorem test_wf_row :
    (([.rowNotify, .vnop, .vadd, .vsub, .vmul, .vfma, .vfms, .vdiv, .vsqrt, .vmin, .vmax, .vabs, .vneg, .vand, .vor, .vxor, .vshl, .vshr, .vmov, .vsel,
       .vcmpEq, .vcmpNe, .vcmpLt, .vcmpLe, .vcmpGt, .vcmpUn, .vpand, .vpor, .vpnot, .vvoteAny, .vvoteAll, .vcvt, .vqnt, .vqchk, .vexp, .vln, .vtanh,
       .vsigm, .vrsqrt, .vrcp, .vsin, .vcos, .vrsum, .vrmax, .vrmin, .vrargmax, .vdot, .vxacc, .vnoise, .vcdf, .vld, .vst, .vperm, .vbcast, .vext,
       .vtopk, .vsmax] : List (RowF → Instr)).all (fun f => (f {}).wf && !(f { rep := 64 }).wf)) = true ∧
    refused [.vadd { fmt := 64 }, .vadd { rnd := 8 }, .vadd { psel := 8 }, .vadd { d := 2 ^ 18 }, .vadd { a := 2 ^ 18 }, .vadd { b := 2 ^ 18 },
      .vadd { aw := 32 }, .vadd { rs := 32 }, .vadd { scope := 8 }] = true := by decide

/-- Matrix words: every field of R254 within its width. -/
theorem test_wf_matrix :
    (([.matNotify, .mnop, .mmul, .mmv, .mtr, .mperm, .mrred, .mrd, .mwr, .mclr] : List (MatF → Instr)).all
      (fun f => (f {}).wf && !(f { acc := 4 }).wf)) = true ∧
    refused [.mmul { afmt := 64 }, .mmul { bfmt := 64 }, .mmul { cfmt := 64 }, .mmul { arow := 512 }, .mmul { astr := 128 }, .mmul { brow := 512 },
      .mmul { bstr := 128 }, .mmul { mm1 := 64 }, .mmul { nm1 := 64 }, .mmul { km1 := 2 ^ 14 }, .mmul { sc := 64 }, .mmul { rnd := 8 },
      .mmul { nvec := 8 }, .mmul { outctl := 8 }, .mmul { ofmt := 64 }, .mmul { orow := 512 }, .mmul { ostr := 128 }, .mmul { aw := 32 },
      .mmul { rs := 32 }, .mmul { scope := 8 }, .mmul { resv := 2 ^ 51 }] = true := by decide

/-- Sampler words (R258). -/
theorem test_wf_sampler :
    allowed [.smpLdc 511 128, .smpMask 3 3, .smpTemp 7, .smpTopk 3, .smpTopp 7, .smpArgmax 3, .smpAccept 3 7 3, .smpEmit 3, .smpStat 3, .smpMovx 7 7,
      .smpMovk 3 3, .smpLdx 7 0x3FFFC, .smpLdk 3 0x3FFFF, .smpSeed 0x3FFF8, .smpPosadd 0x3FFFF] = true ∧
    refused [.smpLdc 512 1, .smpLdc 0 0, .smpLdc 0 129, .smpMask 4 0, .smpMask 0 4, .smpTemp 8, .smpTopk 4, .smpTopp 8, .smpArgmax 4, .smpAccept 4 0 0,
      .smpAccept 0 8 0, .smpAccept 0 0 4, .smpEmit 4, .smpStat 4, .smpMovx 8 0, .smpMovx 0 8, .smpMovk 4 0, .smpMovk 0 4, .smpLdx 8 0, .smpLdx 0 0x40000,
      .smpLdx 0 2, .smpLdk 4 0, .smpLdk 0 0x40000, .smpSeed 0x40000, .smpSeed 4, .smpPosadd 0x40000] = true := by decide

/-- Steps of other agents: interfaces, counters, ports, cores and channels within their numbering (R9, R39). -/
theorem test_wf_steps :
    (([.hostAdd, .hostWait, .trigt, .arm, .disarm] : List (Nat → Nat → Nat → Instr)).all
      (fun f => (f 255 4095 1).wf && refused [f 256 0 0, f 0 4096 0, f 0 0 (2 ^ 64)])) = true ∧
    allowed [.regWrite 0 255 8 1, .patrolScrub 0 3, .retrain 15 true 8, .faultResume 191 0 true, .copyStart 191 2 15 1, .copyLineLand 191 15 0,
      .illegalInstruction (2 ^ 32 - 1), .illFormedWord 1 (2 ^ 192 - 1), .illformedSamplerWord (2 ^ 32 - 1), .atsPriCapabilityWrite 255 true { alloc := 2 ^ 32 - 1 },
      .flitReceive 15 { corrected := 2 ^ 32 - 1 },
      .invalidateRequest (2 ^ 20 - 1) 0 0, .pageRequestGroupResponse (2 ^ 20 - 1) 0 0, .translationCompletion (2 ^ 20 - 1) 0 0 0 true true] = true ∧
    refused [.regWrite 0 256 8 1, .regWrite 0 0 8 (2 ^ 64), .patrolScrub 0 4, .retrain 16 true 8, .faultResume 192 0 true, .copyStart 192 0 0 0,
      .copyStart 0 3 0 0, .copyStart 0 0 16 0, .copyStart 0 0 0 (2 ^ 64), .copyLineLand 192 0 0, .copyLineLand 0 16 0, .illegalInstruction (2 ^ 32),
      .illFormedWord 2 0, .illFormedWord 0 (2 ^ 192), .illformedSamplerWord (2 ^ 32), .atsPriCapabilityWrite 256 true {}, .atsPriCapabilityWrite 0 true { alloc := 2 ^ 32 },
      .invalidateRequest (2 ^ 20) 0 0, .pageRequestGroupResponse (2 ^ 20) 0 0, .translationCompletion (2 ^ 20) 0 0 0 true true,
      .flitReceive 16 {}, .flitReceive 0 { corrected := 2 ^ 32 }] = true := by decide

/-! ### Decoding: every constructor from a word put together as the tables of R237 to R258 place its fields -/

/-- The RR format of R237. -/
def rr (maj d a b fn md : Nat) : Nat := maj * 2 ^ 26 + d * 2 ^ 21 + a * 2 ^ 16 + b * 2 ^ 11 + fn * 2 ^ 5 + md
/-- The RI format. -/
def ri (maj d a imm : Nat) : Nat := maj * 2 ^ 26 + d * 2 ^ 21 + a * 2 ^ 16 + imm
/-- The BP format. -/
def bp (bn sub x imm : Nat) : Nat := 0x18 * 2 ^ 26 + bn * 2 ^ 24 + sub * 2 ^ 21 + x * 2 ^ 16 + imm
/-- The SYS format. -/
def sys (maj d a rx ry fn : Nat) : Nat := maj * 2 ^ 26 + d * 2 ^ 21 + a * 2 ^ 16 + rx * 2 ^ 10 + ry * 2 ^ 6 + fn
/-- A sampler word of R258. -/
def smp (op d a b imm : Nat) : Nat := op * 2 ^ 27 + d * 2 ^ 24 + a * 2 ^ 21 + b * 2 ^ 18 + imm

/-- Whether the scalar decoder reads each word as its instruction. -/
def reads (l : List (Nat × Instr)) : Bool := l.all (fun p => decodeScalar p.1 == .ok p.2)

/-- R243: major 0x01, FN 0x00 to 0x17. -/
theorem test_decode_integer :
    reads ((List.range 19).zip (([.add, .sub, .iand, .ior, .ixor, .sll, .srl, .sra, .mul, .mulh, .mulhu, .div, .divu, .rem, .remu, .min, .max, .minu,
      .maxu] : List (Nat → Nat → Nat → Instr)).map (fun f => f 5 17 30)) |>.map (fun p => (rr 1 5 17 30 p.1 0, p.2))) = true ∧
    reads [(rr 1 5 17 0 0x13 0, .clz 5 17), (rr 1 5 17 0 0x14 0, .ctz 5 17), (rr 1 5 17 0 0x15 0, .popc 5 17), (rr 1 5 17 0 0x16 2, .sext 5 17 2),
      (rr 1 5 17 0 0x17 4, .zext 5 17 4)] = true := by decide +kernel

/-- R242: the register-immediate majors. -/
theorem test_decode_immediate :
    reads [(ri 2 5 17 0xBEEF, .addi 5 17 0xBEEF), (ri 3 5 17 0xBEEF, .andi 5 17 0xBEEF), (ri 4 5 17 0xBEEF, .ori 5 17 0xBEEF),
      (ri 5 5 17 0xBEEF, .xori 5 17 0xBEEF), (ri 6 5 17 41, .slli 5 17 41), (ri 6 5 17 (64 + 41), .srli 5 17 41), (ri 6 5 17 (128 + 41), .srai 5 17 41),
      (ri 7 5 0 0xBEEF, .movi 5 0xBEEF), (ri 8 5 0 0xBEEF, .movhi 5 0xBEEF), (ri 9 5 17 (3 * 2 ^ 13 + 0x1ABC), .cmpi 3 5 17 0x1ABC),
      (ri 0x0C 5 0 0x98, .csrr 5 0x98), (ri 0x0D 0 17 0x98, .csrw 17 0x98)] = true := by decide +kernel

/-- R243: majors 0x0A and 0x0B. -/
theorem test_decode_compare_float :
    reads [(rr 0xA 5 17 30 0 0, .cmpEq 5 17 30), (rr 0xA 5 17 30 1 0, .cmpNe 5 17 30), (rr 0xA 5 17 30 2 0, .cmpLt 5 17 30),
      (rr 0xA 5 17 30 3 0, .cmpGe 5 17 30), (rr 0xA 5 17 30 4 0, .cmpLtu 5 17 30), (rr 0xA 5 17 30 5 0, .cmpGeu 5 17 30),
      (rr 0xA 5 6 7 8 0, .cand 5 6 7), (rr 0xA 5 6 7 9 0, .cor 5 6 7), (rr 0xA 5 6 7 0xA 0, .cxor 5 6 7), (rr 0xA 5 6 0 0xB 0, .cnot 5 6),
      (rr 0xA 5 17 30 0x10 6, .sel 5 17 30 6)] = true ∧
    reads [(rr 0xB 5 17 30 0 0, .fadd 5 17 30), (rr 0xB 5 17 30 1 0, .fsub 5 17 30), (rr 0xB 5 17 30 2 0, .fmul 5 17 30),
      (rr 0xB 5 17 30 3 0, .fdiv 5 17 30), (rr 0xB 5 17 0 4 0, .fsqrt 5 17), (rr 0xB 5 17 30 5 0, .fma 5 17 30), (rr 0xB 5 17 30 6 0, .fmin 5 17 30),
      (rr 0xB 5 17 30 7 0, .fmax 5 17 30), (rr 0xB 5 17 0 8 0, .fabs 5 17), (rr 0xB 5 17 0 9 0, .fneg 5 17), (rr 0xB 5 17 0 0xA 3, .cvtfi 5 17 3),
      (rr 0xB 5 17 0 0xB 5, .cvtif 5 17 5), (rr 0xB 5 17 1 0xC 6, .cvtff 5 17 0x26), (rr 0xB 5 17 0 0xD 9, .cvtft 5 17 9),
      (rr 0xB 5 17 30 0xE 0, .fcmpEq 5 17 30), (rr 0xB 5 17 30 0xF 0, .fcmpLt 5 17 30), (rr 0xB 5 17 30 0x10 0, .fcmpLe 5 17 30),
      (rr 0xB 5 17 30 0x11 0, .fcmpUn 5 17 30), (rr 0xB 5 17 0 0x12 0, .fclass 5 17)] = true := by decide +kernel

/-- R242, R244: loads and stores, strong accesses, atomics, event counters. -/
theorem test_decode_memory :
    reads [(0x10 * 2 ^ 26 + 5 * 2 ^ 21 + 17 * 2 ^ 16 + 2 * 2 ^ 12 + 0xABC, .ld 5 17 2 0xABC),
      (0x11 * 2 ^ 26 + 5 * 2 ^ 21 + 17 * 2 ^ 16 + 6 * 2 ^ 12 + 0xABC, .st 5 17 6 0xABC), (rr 0x12 5 17 0 2 (3 * 4 + 1), .lda 5 17 2 3 1),
      (rr 0x12 0 17 30 0xB (2 * 4 + 2), .stl 17 30 3 2 2), (rr 0x13 0 17 30 (11 * 2 + 1) (4 * 4 + 2), .xadd 17 30 4 2),
      (rr 0x13 5 17 0 (12 * 2 + 1) (3 * 4 + 1), .xrd 5 17 3 1), (rr 0x14 5 17 30 0 0, .evadd 5 17 30), (rr 0x14 5 17 30 1 0, .evwait 5 17 30),
      (rr 0x14 5 17 0 2 0, .evrd 5 17)] = true ∧
    reads ((List.range 11).zip (([.amoAdd, .amoSwap, .amoCas, .amoAnd, .amoOr, .amoXor, .amoMin, .amoMax, .amoMinu, .amoMaxu, .amoFadd] :
      List (Nat → Nat → Nat → Nat → Nat → Nat → Instr)).map (fun f => f 5 17 30 1 3 2)) |>.map (fun p => (rr 0x13 5 17 30 (2 * p.1 + 1) (3 * 4 + 2), p.2)))
      = true := by decide +kernel

/-- R240, R245: prefix and the branch words. -/
theorem test_decode_control :
    reads [(0x3F * 2 ^ 26 + 2 * 2 ^ 23 + 2 ^ 22 + 2 ^ 21 + 0x123, .pfx 2 true true 0x123), (bp 2 0 0 0xFFFE, .pbt 2 0xFFFE), (bp 2 1 17 0, .pbr 2 17),
      (bp 2 2 13 0, .br 2 13), (bp 2 2 16 0, .br 2 16), (bp 2 3 17 0, .brl 2 17), (bp 1 4 17 0x7FFF, .loopHw 1 17 0x7FFF)] = true := by decide +kernel

/-- R246: SYS words of major 0x00. -/
theorem test_decode_system :
    reads [(0, .nop), (1, .done), (sys 0 0 0 33 0 2, .trap 33), (3, .tret), (sys 0 5 17 0 0 4, .syscall 5 17), (sys 0 0 0 3 0 5, .fence 3),
      (sys 0 0 0 3 0 6, .phase 3), (sys 0 0 0 3 0 7, .phasePub 3), (sys 0 0 0 3 0 8, .phaseRef 3), (sys 0 0 17 0 0 9, .repA 17),
      (sys 0 0 0 63 0 0xA, .repi 64), (sys 0 5 0 0 1 0xB, .lcget 5 1), (sys 0 0 17 0 0 0xC, .lcbwait 17), (sys 0 0 17 0 0 0x10, .relrow 17),
      (sys 0 0 17 0 0 0x11, .relmat 17), (sys 0 0 0 30 0 0x12, .semraise 30), (sys 0 0 0 30 0 0x13, .semwait 30), (sys 0 0 0 0 0 0x14, .bopen),
      (sys 0 0 0 0 0 0x15, .bswitch), (sys 0 0 0 6 0 0x16, .bsel 6), (sys 0 0 17 13 0 0x17, .bbarm 13 17), (sys 0 0 0 13 0 0x18, .bbwait 13),
      (sys 0 0 17 6 0 0x19, .cbcons 6 17), (sys 0 0 17 6 0 0x1A, .cbset 6 17), (sys 0 0 17 0 0 0x1B, .empty 17), (sys 0 0 17 0 0 0x1C, .fullset 17),
      (sys 0 0 0 3 1 0x1D, .pwr 3 1)] = true := by decide +kernel

/-- R247: coder, windows and tails. -/
theorem test_decode_coder_window_tail :
    reads [(sys 0x1C 0 17 60 0 0, .rcinitEnc 60 17), (sys 0x1C 0 17 60 0 1, .rcinitDec 60 17), (sys 0x1C 0 17 60 11 2, .rcenc 60 11 17),
      (sys 0x1C 5 0 60 11 3, .rcdec 5 60 11), (sys 0x1C 0 0 48 15 4, .rcdecn 48 16), (sys 0x1C 0 0 60 0 5, .rcflush 60), (sys 0x1C 0 17 60 0 6, .rcsave 60 17),
      (sys 0x1C 0 17 60 0 7, .rcload 60 17), (sys 0x1C 0 17 0 11 8, .cdld 11 17), (sys 0x1C 0 17 0 11 9, .cdsave 11 17), (sys 0x1D 0 17 0 2 0, .swopen 2 17),
      (sys 0x1D 0 0 0 2 1, .swstep 2), (sys 0x1D 5 17 0 2 2, .swcommit 5 2 17), (sys 0x1D 0 0 0 2 3, .swabort 2), (sys 0x1D 5 0 0 2 4, .swalloc 5 2),
      (sys 0x1D 5 0 0 2 5, .swstat 5 2), (sys 0x1E 5 17 6 3 0, .relc 6 5 17 3), (sys 0x1E 0 17 0 0 1, .tjoin 17), (sys 0x1E 5 17 0 0 2, .fpop 5 17)]
      = true := by decide +kernel

/-- The row words, in the order of their opcodes (R253). -/
def rowWords : List (RowF → Instr) :=
  List.append [.rowNotify, .vnop, .vadd, .vsub, .vmul, .vfma, .vfms, .vdiv, .vsqrt, .vmin, .vmax, .vabs, .vneg, .vand, .vor, .vxor, .vshl, .vshr, .vmov] (List.append
  [.vsel, .vcmpEq, .vcmpNe, .vcmpLt, .vcmpLe, .vcmpGt, .vcmpUn, .vpand, .vpor, .vpnot, .vvoteAny, .vvoteAll, .vcvt, .vqnt, .vqchk, .vexp, .vln, .vtanh, .vsigm]
  [.vrsqrt, .vrcp, .vsin, .vcos, .vrsum, .vrmax, .vrmin, .vrargmax, .vdot, .vxacc, .vnoise, .vcdf, .vld, .vst, .vperm, .vbcast, .vext, .vtopk, .vsmax])

/-- A row word of an opcode with every field of R249 set. -/
def rowBits (op : Nat) : Nat :=
  op * 2 ^ 88 + 6 * 2 ^ 83 + 2 * 2 ^ 80 + 5 * 2 ^ 77 + 0x21001 * 2 ^ 59 + 0x20001 * 2 ^ 41 + 0x20801 * 2 ^ 23 + 15 * 2 ^ 17 + 2 * 2 ^ 12
          + 4 * 2 ^ 7 + 2 ^ 6 + 2 ^ 5 + 2 ^ 4 + 3 * 2 + 1
/-- A matrix word of an opcode with every field of R254 set. -/
def matBits (op : Nat) : Nat :=
  op * 2 ^ 184 + 0x30 * 2 ^ 178 + 0x26 * 2 ^ 172 + 0xA * 2 ^ 166 + 2 * 2 ^ 164 + 300 * 2 ^ 155 + 127 * 2 ^ 148 + 129 * 2 ^ 139 + 3 * 2 ^ 132
          + 62 * 2 ^ 126 + 61 * 2 ^ 120 + 8191 * 2 ^ 106 + 2 ^ 105 + 2 ^ 104 + 20 * 2 ^ 98 + 1 * 2 ^ 95 + 2 ^ 94 + 6 * 2 ^ 91 + 2 * 2 ^ 88 + 9 * 2 ^ 82
          + 301 * 2 ^ 73 + 5 * 2 ^ 66 + 7 * 2 ^ 61 + 8 * 2 ^ 56 + 2 ^ 55 + 2 ^ 54 + 4 * 2 ^ 51 + 77
/-- Whether the row decoder reads a word as an instruction. -/
def rowReads (w : Nat) (i : Instr) : Bool := decodeRow w == .ok i
/-- Whether the matrix decoder reads a word as an instruction. -/
def matReads (w : Nat) (i : Instr) : Bool := decodeMat w == .ok i

/-- R249, R253: each row opcode, all fields of the word set; and the word of the manual's trace, which R253 prints. -/
theorem test_decode_row :
    ((([1, 2] ++ List.range' 0x10 18 ++ List.range' 0x28 11 ++ List.range' 0x38 3 ++ List.range' 0x40 8 ++ List.range' 0x50 5 ++ List.range' 0x58 3
        ++ List.range' 0x60 7).zip
      rowWords).all (fun (p : Nat × (RowF → Instr)) =>
      rowReads (rowBits p.1)
        (p.2 { fmt := 0x26, rnd := 2, psel := 5, d := 0x21001, a := 0x20001, b := 0x20801, rep := 15, aw := 2, rs := 4, acq := true, rel := true,
                   scope := 3, sat := true }))) = true ∧
    decodeRow 0x105010800C000304009E2200 = .ok (.vadd { fmt := 0x0A, d := 0x21001, a := 0x20001, b := 0x20801, rep := 15, aw := 2, rs := 4 }) := by
  decide +kernel

/-- R254, R256: each matrix opcode, all fields of the word set. -/
theorem test_decode_matrix :
    (([1, 2, 0x10, 0x11, 0x12, 0x13, 0x14, 0x20, 0x21, 0x22].zip
      ([.matNotify, .mnop, .mmul, .mmv, .mtr, .mperm, .mrred, .mrd, .mwr, .mclr] : List (MatF → Instr))).all (fun (p : Nat × (MatF → Instr)) =>
      matReads (matBits p.1)
        (p.2 { afmt := 0x30, bfmt := 0x26, cfmt := 0xA, acc := 2, arow := 300, astr := 127, brow := 129, bstr := 3, mm1 := 62, nm1 := 61, km1 := 8191,
                   init := true, exact := true, sc := 20, rnd := 1, sat := true, nvec := 6, outctl := 2, ofmt := 9, orow := 301, ostr := 5, aw := 7,
                   rs := 8, acq := true, rel := true, scope := 4, resv := 77 }))) = true := by decide +kernel

/-- R258: each sampler word. -/
theorem test_decode_sampler :
    ([(smp 1 0 0 0 0, .smpEndp), (smp 2 0 0 0 (127 * 512 + 300), .smpLdc 300 128), (smp 3 0 2 3 0, .smpMask 2 3), (smp 4 0 6 0 0, .smpTemp 6),
      (smp 5 0 3 0 0, .smpTopk 3), (smp 6 0 6 0 0, .smpTopp 6), (smp 7 0 0 0 0, .smpNorm), (smp 8 0 0 0 0, .smpGumb), (smp 9 3 0 0 0, .smpArgmax 3),
      (smp 0xA 1 6 2 0, .smpAccept 1 6 2), (smp 0xB 0 3 0 0, .smpEmit 3), (smp 0xC 3 0 0 0, .smpStat 3), (smp 0xD 7 6 0 0, .smpMovx 7 6),
      (smp 0xE 2 1 0 0, .smpMovk 2 1), (smp 0xF 7 0 0 0x1234, .smpLdx 7 0x1234), (smp 0x10 3 0 0 0x3FFFF, .smpLdk 3 0x3FFFF),
      (smp 0x11 0 0 0 0x1238, .smpSeed 0x1238), (smp 0x12 0 0 0 0x3FFFF, .smpPosadd 0x3FFFF)] : List (Nat × Instr)).all
      (fun p => decodeSampler p.1 == .ok p.2) = true := by decide +kernel

/-- Words that the rules print with their assembly form: R274, R357 to R359, R286, R291. -/
theorem test_decode_printed :
    reads [(0x60850002, .loopHw 0 5 2), (0x78B40480, .relc 1 5 20 2), (0x74C70002, .swcommit 6 0 7), (0x4C8638AD, .amoCas 4 6 7 1 3 1),
      (0x50642820, .evwait 3 4 5), (0x00001413, .semwait 5), (0x0000080A, .repi 3), (0x07193000, .add 24 25 6), (0x70091082, .rcenc 4 2 9),
      (0x700020C4, .rcdecn 8 4)] = true := by decide +kernel

/-- Words that are no instruction are refused: a reserved major, FN, SUB, TY, code, index, order, and a nonzero unused field (R238, R259). -/
theorem test_decode_refuses :
    ([0x0E * 2 ^ 26, rr 1 5 17 30 0x18 0, rr 1 5 17 30 0 1, rr 1 5 17 3 0x13 0, rr 1 5 17 0 0x16 3, rr 0xA 8 17 30 0 0, rr 0xA 5 17 30 6 0,
      ri 6 5 17 (3 * 64), ri 6 5 17 256, ri 7 5 1 0, ri 9 5 17 (6 * 2 ^ 13), rr 0xB 5 17 2 0xC 8, rr 0xB 5 17 1 4 0, ri 0xC 5 1 0, ri 0xD 1 17 0,
      0x10 * 2 ^ 26 + 8 * 2 ^ 12, 0x11 * 2 ^ 26 + 3 * 2 ^ 12, rr 0x12 5 17 1 2 0, rr 0x12 5 17 0 2 2, rr 0x12 0 17 30 8 1, rr 0x13 5 17 30 0 (5 * 4),
      rr 0x13 0 17 30 22 0, rr 0x13 5 17 30 26 0, rr 0x14 5 17 30 0 1, bp 0 5 0 0, bp 2 4 5 1, bp 0 2 17 0, bp 0 1 5 1, sys 0 1 0 0 0 0, sys 0 0 0 0 0 0xD,
      sys 0 0 0 5 0 5, sys 0 0 0 0 2 0xB, sys 0 0 0 32 0 0x12, sys 0 0 0 0 3 0x1D, sys 0 0 0 4 0 0x1D, sys 0x1C 0 17 0 0 0xA, sys 0x1C 0 0 60 15 4,
      sys 0x1D 0 17 0 4 0, sys 0x1E 5 17 8 0 0, 0x3F * 2 ^ 26 + 2 ^ 23, 0x3F * 2 ^ 26 + 4 * 2 ^ 23 + 2 ^ 22] : List Nat).all
      (fun w => (decodeScalar w).toOption.isNone) = true ∧
    ([0, 0x13 * 2 ^ 27, 1 * 2 ^ 27 + 1, smp 3 0 4 0 0, smp 5 0 4 0 0, smp 9 4 0 0 0, smp 0xF 0 0 0 2, smp 0x11 0 0 0 4] : List Nat).all
      (fun w => (decodeSampler w).toOption.isNone) = true ∧
    ([0, 3, 0x22, 0x3B, 0x48, 0x67] : List Nat).all (fun o => (decodeRow (o * 2 ^ 88)).toOption.isNone) = true ∧
    ([0, 3, 0x15, 0x23] : List Nat).all (fun o => (decodeMat (o * 2 ^ 184)).toOption.isNone) = true := by decide +kernel

/-- Core 0 runs the probe task's main context, whose move it is. -/
def base : State := { State.reset.placeScalar 0 with cur := .scalar 0 0 }
/-- The base with a change of core 0. -/
def withCore (f : Core → Core) : State := base.updCore 0 f
/-- The base with a change of the main context. -/
def withCx (f : Ctx → Ctx) : State := base.updCx 0 0 f
/-- The base with registers of the main context set. -/
def withRegs (l : List (Nat × W64)) : State := withCx (fun q => { q with s := l.foldl (fun m p => m.put 0 p.1 p.2) q.s })
/-- The base with a prefix before the instruction. -/
def prefixed (p : Pfx) (s : State) : State := s.updCx 0 0 (fun q => { q with pfx := some p })
/-- The state after one instruction. -/
def after (i : Instr) (s : State) : State := match exec i s with | .next t => t | _ => s
/-- What a register of the main context holds after an instruction. -/
def gives (i : Instr) (s : State) (r : Nat) : Nat := (((after i s).cx 0 0).s.get 0 r).toNat
/-- FPFLAGS after an instruction. -/
def flags (i : Instr) (s : State) : Nat := ((after i s).core 0).fpflags
/-- A condition bit of the main context after an instruction. -/
def cond (i : Instr) (s : State) (n : Nat) : Bool := ((after i s).cx 0 0).c.get false n
/-- The cause and TVAL of the last fault record. -/
def trapped (i : Instr) (s : State) : Option (Cause × Nat) := (after i s).faults.getLast?.map (fun r => (r.cause, r.tval))
/-- Registers 2 and 3 hold two values. -/
def pair (x y : Nat) : State := withRegs [(2, BitVec.ofNat 64 x), (3, BitVec.ofNat 64 y)]

/-! ### Integer functions: corners of R265 and R266 -/

theorem test_add_wraps : gives (.add 1 2 3) (pair (2 ^ 64 - 1) 2) 1 = 1 := by decide +kernel
theorem test_add_saturates : gives (.add 1 2 3) (prefixed { sat := true } (pair (2 ^ 63 - 1) 1)) 1 = 2 ^ 63 - 1 ∧
    flags (.add 1 2 3) (prefixed { sat := true } (pair (2 ^ 63 - 1) 1)) = 32 := by decide +kernel
theorem test_sub_is_not_commuted : gives (.sub 1 2 3) (pair 3 5) 1 = 2 ^ 64 - 2 := by decide +kernel
theorem test_sra_takes_six_bits : gives (.sra 1 2 3) (pair (2 ^ 63) 65) 1 = 3 * 2 ^ 62 := by decide +kernel
theorem test_srl_fills_zero : gives (.srl 1 2 3) (pair (2 ^ 63) 63) 1 = 1 := by decide +kernel
theorem test_mulh_signed : gives (.mulh 1 2 3) (pair (2 ^ 64 - 1) (2 ^ 64 - 1)) 1 = 0 := by decide +kernel
theorem test_mulhu_unsigned : gives (.mulhu 1 2 3) (pair (2 ^ 64 - 1) (2 ^ 64 - 1)) 1 = 2 ^ 64 - 2 := by decide +kernel
theorem test_div_truncates : gives (.div 1 2 3) (pair (2 ^ 64 - 7) 2) 1 = 2 ^ 64 - 3 ∧ gives (.div 1 2 3) (pair 7 0) 1 = 2 ^ 64 - 1 := by decide +kernel
theorem test_div_overflow : gives (.div 1 2 3) (pair (2 ^ 63) (2 ^ 64 - 1)) 1 = 2 ^ 63 ∧ gives (.rem 1 2 3) (pair (2 ^ 63) (2 ^ 64 - 1)) 1 = 0 := by
  decide +kernel
theorem test_rem_keeps_the_sign : gives (.rem 1 2 3) (pair (2 ^ 64 - 7) 2) 1 = 2 ^ 64 - 1 ∧ gives (.rem 1 2 3) (pair 7 0) 1 = 7 := by decide +kernel
theorem test_counts : gives (.clz 1 2) (pair 1 0) 1 = 63 ∧ gives (.clz 1 2) (pair 0 0) 1 = 64 ∧ gives (.ctz 1 2) (pair 8 0) 1 = 3 ∧
    gives (.popc 1 2) (pair 0xFF00 0) 1 = 8 := by decide +kernel
theorem test_extends : gives (.sext 1 2 0) (pair 0x180 0) 1 = 2 ^ 64 - 128 ∧ gives (.zext 1 2 5) (pair 0x1FFFF 0) 1 = 0xFFFF := by decide +kernel
theorem test_min_max : gives (.min 1 2 3) (pair (2 ^ 64 - 1) 1) 1 = 2 ^ 64 - 1 ∧ gives (.minu 1 2 3) (pair (2 ^ 64 - 1) 1) 1 = 1 ∧
    gives (.max 1 2 3) (pair (2 ^ 64 - 1) 1) 1 = 1 ∧ gives (.maxu 1 2 3) (pair (2 ^ 64 - 1) 1) 1 = 2 ^ 64 - 1 := by decide +kernel
theorem test_immediates : gives (.addi 1 2 0xFFFF) (pair 5 0) 1 = 4 ∧ gives (.andi 1 2 0xFFFF) (pair (2 ^ 64 - 1) 0) 1 = 0xFFFF ∧
    gives (.movi 1 0x8000) base 1 = 2 ^ 64 - 2 ^ 15 ∧ gives (.movhi 1 0x8000) base 1 = 2 ^ 31 ∧ gives (.srai 1 2 1) (pair (2 ^ 63) 0) 1 = 3 * 2 ^ 62 := by
  decide +kernel
/-- The addi of the manual's worked example: SExt(0x1 ∥ 0x86A0, 37) = 100 000 (R241). -/
theorem test_prefix_extends_the_immediate : gives (.addi 1 0 0x86A0) (prefixed { hi := 1 } base) 1 = 100000 ∧
    gives (.movi 1 0xFF00) (prefixed {} base) 1 = 0xFF00 := by decide +kernel
theorem test_s0_discards : ((after (.add 0 2 3) (pair 1 2)).cx 0 0).s.get 0 0 = 0 := by decide +kernel

/-! ### Conditions and binary64 (R267, R269, R270) -/

theorem test_compares : cond (.cmpLt 1 2 3) (pair (2 ^ 64 - 1) 0) 1 = true ∧ cond (.cmpLtu 1 2 3) (pair (2 ^ 64 - 1) 0) 1 = false ∧
    cond (.cmpi 5 1 2 0x1FFF) (pair (2 ^ 64 - 2) 0) 1 = false ∧ cond (.cmpi 3 1 2 0x1FFF) (pair 0 0) 1 = true := by decide +kernel
theorem test_sel : gives (.sel 1 2 3 4) (pair 7 9) 1 = 9 := by decide +kernel
/-- 1 + 2^-53 rounds to even and is inexact. -/
theorem test_fadd_rounds : gives (.fadd 1 2 3) (pair 0x3FF0000000000000 0x3CA0000000000000) 1 = 0x3FF0000000000000 ∧
    flags (.fadd 1 2 3) (pair 0x3FF0000000000000 0x3CA0000000000000) = 16 := by decide +kernel
/-- The same sum rounded up. -/
theorem test_fadd_rup : gives (.fadd 1 2 3) (prefixed { rv := true, rnd := 2 } (pair 0x3FF0000000000000 0x3CA0000000000000)) 1 = 0x3FF0000000000001 := by
  decide +kernel
theorem test_fdiv_by_zero : gives (.fdiv 1 2 3) (pair 0xBFF0000000000000 0) 1 = 0xFFF0000000000000 ∧
    flags (.fdiv 1 2 3) (pair 0xBFF0000000000000 0) = 2 := by decide +kernel
theorem test_fsqrt : gives (.fsqrt 1 2) (pair 0x4010000000000000 0) 1 = 0x4000000000000000 ∧ gives (.fsqrt 1 2) (pair (2 ^ 63) 0) 1 = 2 ^ 63 := by decide +kernel
theorem test_fmin_orders_zeros : gives (.fmin 1 2 3) (pair 0 (2 ^ 63)) 1 = 2 ^ 63 ∧ gives (.fmax 1 2 3) (pair 0 (2 ^ 63)) 1 = 0 := by decide +kernel
theorem test_fcmp_zeros_equal : cond (.fcmpEq 1 2 3) (pair 0 (2 ^ 63)) 1 = true ∧ cond (.fcmpUn 1 2 3) (pair 0x7FF8000000000000 0) 1 = true := by decide +kernel
theorem test_cvtif_negative : gives (.cvtif 1 2 3) (pair (2 ^ 64 - 1) 0) 1 = 0xBFF0000000000000 := by decide +kernel

/-! ### Traps, flow of control and memory -/

theorem test_trap_record : trapped (.trap 9) base = some (.softwareTrap, 9) ∧ trapped .tret base = some (.controlValue, 0) := by decide +kernel
theorem test_queue_direction : trapped (.add 1 24 2) base = some (.queueDirection, 0) ∧ trapped (.add 25 1 2) base = some (.queueDirection, 1) := by
  decide +kernel
theorem test_pc_advances : ((after .nop base).cx 0 0).pc = 0x10004 := by decide +kernel
theorem test_br_waits_two : ((after (.br 0 16) (withCx (fun q => { q with b := q.b.put 0 0 0x10040 }))).cx 0 0).pend = some (some 0x10040, 2) := by
  decide +kernel
theorem test_pbt_goes_back : ((after (.pbt 1 0xFFFF) base).cx 0 0).b.get 0 1 = 0xFFC0 := by decide +kernel
/-- Four bytes stored little-endian, then read back with the sign of the top byte (R4, R278). -/
theorem test_store_load : gives (.ld 1 0 2 64) (after (.st 3 0 6 64) (pair 0 0x1_8000_0001)) 1 = 2 ^ 64 - 2 ^ 31 + 1 := by decide +kernel
theorem test_semaphore : ((after (.semraise 5) base).core 0).sem.get 0 5 = 1 ∧ ((after (.semwait 5) base).cx 0 0).stalled = true := by decide +kernel
theorem test_relrow : ((after (.relrow 2) ((pair 1 0).updCore 0 (fun k => { k with row := { k.row with size := 2 } }))).core 0).row.rel = 1 := by decide +kernel

/-! ### Digests, the exact accumulator and the coder -/

/-- The standard's digest of the three bytes abc (FIPS 180-4; log 18). -/
theorem test_sha512 : (sha512 [0x61, 0x62, 0x63]).take 8 = [0xdd, 0xaf, 0x35, 0xa1, 0x93, 0x61, 0x7a, 0xba] := by decide +kernel
/-- 1.0 into an object of weight 2^0 with three bins is one in the lowest bin; -1.0 is its inverse (R164). -/
theorem test_xadd_object : xobjAdd 0 [0, 0, 0] (.num false 1 0) = (0, [1, 0, 0]) ∧ xobjAdd 0 [1, 0, 0] (.num true 1 0) = (0, [0, 0, 0]) ∧
    xobjAdd 0 [2 ^ 39 - 1, 0, 0] (.num false 1 0) = (0, [-(2 ^ 39), 1, 0]) := by decide +kernel
/-! ### Witnesses: a state and operands that meet the hypotheses of each statement, clause by clause -/

/-- The main context of core 0 may issue any instruction. -/
theorem base_issues : Issues base 0 0 := ⟨rfl, by decide⟩
theorem base_control : IssuesControl base 0 0 := ⟨base_issues, rfl, rfl⟩

/-- Core 0 with an entry in queue 1, which register 25 names. -/
def queued : State := withCore (fun k => { k with q := k.q.put [] 1 [7] })

/-- No context of the core has an instruction under way that takes a queue's entry. -/
theorem none_taken {k : Core} (x q : Nat) (h : k.cx.all (fun p => p.2.takes.isEmpty) = true) : k.taken x q = false := by
  unfold Core.taken
  rw [List.any_eq_false]
  intro p hp
  have e : p.2.takes = [] := by simpa using List.all_eq_true.mp h p hp
  simp [e]

theorem queued_usable : Usable (queued.core 0) 0 [25, 2] (some 24) := by
  refine ⟨fun q h => ?_, fun q _ => none_taken _ _ (by decide +kernel), fun q h => ?_⟩
  · simp at h; subst h; exact ⟨by decide, by decide, by decide +kernel, by decide +kernel⟩
  · simp at h; subst h; exact ⟨by decide, by decide +kernel, by decide +kernel⟩
theorem usable23 (k : Core) (x : Nat) : Usable k x [2, 3] (some 1) := ⟨by simp, by simp, by simp⟩
theorem usable2 (k : Core) (x : Nat) : Usable k x [2] (some 1) := ⟨by simp, by simp, by simp⟩
theorem usable2n (k : Core) (x : Nat) : Usable k x [2] none := ⟨by simp, by simp, by simp⟩
theorem usable21n (k : Core) (x : Nat) : Usable k x [2, 1] none := ⟨by simp, by simp, by simp⟩
theorem usable23n (k : Core) (x : Nat) : Usable k x [2, 3] none := ⟨by simp, by simp, by simp⟩
theorem usable0 (k : Core) (x : Nat) : Usable k x [] (some 1) := ⟨by simp, by simp, by simp⟩
theorem usable0n (k : Core) (x : Nat) : Usable k x [] none := ⟨by simp, by simp, by simp⟩

theorem spad_readable {k : Core} (a n : Nat) (e : k.empty = []) (p : k.spoison = []) : SpadReadable k a n :=
  ⟨fun l _ => by simp [Core.isEmpty, e, Store.get], fun w _ _ => by simp [p, Store.get]⟩
theorem readable {k : Core} (a n : Nat) (h : (k.empty.isEmpty && k.spoison.isEmpty && k.corr.isEmpty) = true) : Readable k a n := by
  simp only [Bool.and_eq_true, List.isEmpty_iff] at h
  exact ⟨spad_readable a n h.1.1 h.1.2, fun p hp => by simp [h.2] at hp⟩

/-- Queue operands, a prefix with .sat on the largest sum, and a prefix before an immediate. -/
theorem witness_IntegerFunctions :
    (IntForm (.add 24 25 2) 24 [25, 2] (two (fun x y => x + y)) ∧ Issues queued 0 0 ∧ satOf (queued.cx 0 0) = false ∧ Usable (queued.core 0) 0 [25, 2] (some 24)) ∧
    IntWord 31 31 31 0x12 0 (.maxu 31 31 31) ∧ (0x13 ≤ 0x17 ∧ (0x17 : Nat) ≤ 0x17 ∧ (31 : Nat) < 32 ∧ (31 : Nat) ≠ 0) ∧
    (let s := prefixed { sat := true } (pair (2 ^ 63 - 1) 1)
     SatForm (.add 1 2 3) 1 [2, 3] (fun x y => x + y) ∧ Issues s 0 0 ∧ satOf (s.cx 0 0) = true ∧ Usable (s.core 0) 0 [2, 3] (some 1)) ∧
    (let s := prefixed { hi := 2 ^ 21 - 1 } base
     ImmForm (s.cx 0 0) (.movi 1 0xFFFF) 1 [] (fun _ => ofI (signedImm (s.cx 0 0) 16 0xFFFF)) ∧ Issues s 0 0 ∧
       (∀ p, (s.cx 0 0).pfx = some p → p.hi < 2 ^ 21) ∧ Usable (s.core 0) 0 [] (some 1)) := by
  refine ⟨⟨.add _ _ _, ⟨rfl, by decide⟩, rfl, queued_usable⟩, .maxu, by decide, ⟨.add _ _ _, ⟨rfl, by decide⟩, rfl, usable23 _ _⟩,
    .movi _ _, ⟨rfl, by decide⟩, fun p h => ?_, usable0 _ _⟩
  have : p = { hi := 2 ^ 21 - 1 } := by simpa using (Option.some.inj h).symm
  subst this; decide

theorem witness_Compares :
    (CondForm (base.cx 0 0) (.cmpi 5 7 2 0x1FFF) 7 [2] (fun vs => relHolds 5 (vs.getD 0 0) (ofI (signedImm (base.cx 0 0) 13 0x1FFF))) ∧
      Issues base 0 0 ∧ Usable (base.core 0) 0 [2] none) ∧
    FloatCompare (.fcmpLt 0 2 3) 0 2 3 false (fun u x y => !u && decide (x < y)) ∧ Usable ((pair 0x7FF0000000000001 1).core 0) 0 [2, 3] none :=
  ⟨⟨.cmpi _ _ _ _, base_issues, usable2n _ _⟩, .lt _ _ _, usable23n _ _⟩

theorem witness_FloatFunctions :
    (FloatForm (.fma 1 2 3) 1 [2, 3, 1] (fun m v => fmaVal m false (v 0) (v 1) (v 2)) ∧ Issues base 0 0 ∧ Usable (base.core 0) 0 [2, 3, 1] (some 1)) ∧
    ∃ g, FloatOther (modeOf (base.cx 0 0)) (satOf (base.cx 0 0)) (.fmin 1 2 3) 1 [2, 3] g ∧ Usable (base.core 0) 0 [2, 3] (some 1) :=
  ⟨⟨.fma _ _ _, base_issues, by simp, by simp, by simp⟩, _, .fmin _ _ _, usable23 _ _⟩

/-- The last Marionette register, a loop counter and a move. -/
theorem witness_Reads :
    (∃ g, ReadForm base 0 0 (.csrr 1 (0x280 + 8 * 7)) 1 [] g) ∧ (∃ g, ReadForm base 0 0 (.lcget 1 1) 1 [] g) ∧ (∃ g, ReadForm base 0 0 (.sel 1 2 3 7) 1 [2, 3] g) ∧
    Issues base 0 0 ∧ Usable (base.core 0) 0 [] (some 1) ∧ Usable (base.core 0) 0 [2, 3] (some 1) :=
  ⟨⟨_, .csrr _ _ _ (.mxact 7 (by decide))⟩, ⟨_, .lcget _ _⟩, ⟨_, .sel _ _ _ _⟩, base_issues, usable0 _ _, usable23 _ _⟩

/-- Core 0 with banks open, one word held in bank A and one in bank B. -/
def banked : State := withCore (fun k => { k with bank := 2, row := { k.row with size := 4, bankA := [none], bankB := [none] }, sem := k.sem.put 0 5 1 })

/-- Each clause of the table at an edge: the last semaphore, a ring filled to its size, the last word of a barrier's range, a bank that turns on. -/
theorem witness_Synchronisation :
    (∃ k, SyncForm banked 0 0 (.semwait 5) [] banked k) ∧ (∃ k, SyncForm banked 0 0 (.semraise 30) [] banked k) ∧
    (∃ k, SyncForm ((pair 2 0).updCore 0 (fun k => { k with row := { k.row with size := 2 } })) 0 0 (.relrow 2) [2]
      ((pair 2 0).updCore 0 (fun k => { k with row := { k.row with size := 2 } })) k) ∧
    (∃ k, SyncForm (pair (2 ^ 48 - 1) 0) 0 0 (.bbarm 15 2) [2] (pair (2 ^ 48 - 1) 0) k) ∧
    (∃ k, SyncForm (pair 0x7FF80 0) 0 0 (.empty 2) [2] (pair 0x7FF80 0) k) ∧ (∃ k, SyncForm (pair 0 0) 0 0 (.cbset 7 2) [2] (pair 0 0) k) ∧
    (∃ k, SyncForm (pair 0 0) 0 0 (.cbcons 7 2) [2] (pair 0 0) k) ∧ (∃ k, SyncForm base 0 0 (.bbwait 15) [] base k) ∧
    (∃ k, SyncForm base 0 0 (.pwr 3 2) [] base k) ∧ (∃ k, SyncForm base 0 0 .bopen [] base k) ∧
    (∃ k, SyncForm (pair 0x1F 0) 0 0 (.csrw 2 0x050) [2] (pair 0x1F 0) k) ∧ (∃ k, SyncForm (pair (2 ^ 48 - 64) 0) 0 0 (.csrw 2 0x078) [2] (pair (2 ^ 48 - 64) 0) k) ∧
    ((banked.core 0).bank ≠ 0 ∧ ∀ m, m < 16 → ((banked.core 0).ch m).tag = 0) ∧ Issues banked 0 0 := by
  refine ⟨⟨_, .semwait 5 (by decide) (by decide +kernel) (by decide +kernel)⟩, ⟨_, .semraise 30 (by decide) (by decide +kernel) (by decide +kernel)⟩,
    ⟨_, .relrow 2 _ (by decide +kernel) (by decide +kernel) (.closed (by decide +kernel))⟩,
    ⟨_, .bbarm 15 2 _ (by decide +kernel) rfl (by decide +kernel)⟩,
    ⟨_, .empty 2 (by decide +kernel) (by decide +kernel) (by decide +kernel)⟩,
    ⟨_, .cbset 7 2 {} (by decide +kernel) (by decide +kernel) (by decide +kernel) (readable _ _ (by decide +kernel)) (by decide +kernel) (by decide +kernel) (by decide +kernel)
      (by decide +kernel) rfl (by decide +kernel) (by decide +kernel) (by decide +kernel)⟩,
    ⟨_, .cbcons 7 2 (by decide +kernel) (by decide +kernel) (by decide +kernel)⟩, ⟨_, .bbwait 15 (by decide +kernel) (by decide +kernel) (by decide +kernel)⟩,
    ⟨_, .pwrOn 3 ⟨12, by decide, ⟨by decide, by decide⟩, by decide +kernel⟩ (by decide) ⟨.inl (by decide +kernel), .inl (by decide +kernel)⟩ (by decide +kernel) ⟨by decide +kernel, by decide +kernel, by decide +kernel, by decide +kernel, by decide +kernel⟩⟩, ⟨_, .bopen (by decide +kernel)⟩,
    ⟨_, .csrw 2 _ _ .fpflags⟩, ⟨_, .csrw 2 _ _ (.tvec (by decide +kernel) (by decide +kernel))⟩, ⟨by decide +kernel, by decide +kernel⟩, rfl, by decide⟩

/-- The main context at the last word of a block, with a loop level whose body ends there. -/
def looping (n : Nat) : State := withCx (fun q => { q with pc := 0x1003C, lc := q.lc.put 0 1 n, loops := [{ n := 1, start := 0x10000, fin := 0x10040 }] })

/-- Every way a context continues, and a branch that is taken in an armed body that holds its delay instructions to its last word. -/
theorem witness_FlowOfControl :
    (∃ q, Continues (base.cx 0 0) q) ∧ (∃ q, Continues ((looping 2).cx 0 0) q) ∧ (∃ q, Continues ((looping 1).cx 0 0) q) ∧
    (∃ q, Continues ((withCx (fun q => { q with rep := .run 2 })).cx 0 0) q) ∧
    (∃ q, Continues ((withCx (fun q => { q with pend := some (some 0x10040, 2) })).cx 0 0) q) ∧
    (∃ q, Continues ((withCx (fun q => { q with pend := some (some 0x10040, 1) })).cx 0 0) q) ∧
    (∃ q, Continues ((withCx (fun q => { q with pend := some (none, 1) })).cx 0 0) q) ∧
    (let s := withCx (fun q => { q with pc := 0x10034, b := q.b.put 0 3 (BitVec.ofNat 64 (2 ^ 48 - 64)), loops := [{ n := 0, start := 0x10000, fin := 0x10040 }] })
     IssuesControl s 0 0 ∧ DelayInside s 0 0 ∧ NoEnd (s.cx 0 0) ∧ branchTaken (s.cx 0 0) 16 = true ∧
       ((s.cx 0 0).b.get 0 3).toNat % 64 = 0 ∧ ((s.cx 0 0).b.get 0 3).toNat < 2 ^ 48 ∧ Usable (s.core 0) 0 [] (some 1)) := by
  refine ⟨⟨{ pc := 0x10004 }, .straight _ rfl (.inl rfl) (by decide +kernel) (by decide +kernel) ⟨rfl, rfl, rfl, rfl⟩⟩,
    ⟨{ (looping 2).cx 0 0 with pc := 0x10000, lc := ((looping 2).cx 0 0).lc.put 0 1 1 },
      .loopBack _ { n := 1, start := 0x10000, fin := 0x10040 } [] rfl (.inl rfl) rfl (by decide +kernel) (by decide +kernel) (by decide +kernel) ⟨rfl, rfl, rfl, rfl⟩⟩,
    ⟨{ (looping 1).cx 0 0 with pc := 0x10040, lc := ((looping 1).cx 0 0).lc.put 0 1 0, loops := [] },
      .loopExit _ { n := 1, start := 0x10000, fin := 0x10040 } [] rfl (.inl rfl) rfl (by decide +kernel) (by decide +kernel) (by simp) (by decide +kernel)
        ⟨rfl, rfl, rfl, rfl⟩⟩,
    ⟨{ pc := 0x10000, rep := .run 1 }, .again _ 0 rfl (by decide +kernel) ⟨rfl, rfl, rfl, rfl⟩⟩,
    ⟨{ pc := 0x10004, pend := some (some 0x10040, 1) }, .delay _ (some 0x10040) rfl (.inl rfl) (by decide +kernel) (by decide +kernel) ⟨rfl, rfl, rfl, rfl⟩⟩,
    ⟨{ pc := 0x10040 }, .land _ 0x10040 rfl (.inl rfl) ⟨by decide, rfl, rfl⟩ ⟨rfl, rfl⟩⟩,
    ⟨{ pc := 0x10004 }, .fall _ rfl (.inl rfl) (by decide +kernel) (by decide +kernel) ⟨rfl, rfl, rfl, rfl⟩⟩,
    ⟨⟨rfl, by decide⟩, rfl, rfl⟩, ?_, ?_, rfl, by decide +kernel, by decide +kernel, usable0 _ _⟩
  · unfold DelayInside; decide +kernel
  · unfold NoEnd; decide +kernel

/-- The largest count and the largest body; a count of zero; the largest repeat; a repeat of 0. -/
theorem witness_LoopsAndRepeats :
    (let s := pair (2 ^ 32 - 1) 0
     IssuesControl s 0 0 ∧ Usable (s.core 0) 0 [2] none ∧ (src s 0 0 2).toNat < 2 ^ 32 ∧ ∀ l ∈ (s.cx 0 0).loops, l.n ≠ 1 ∧ l.start ≤ 0x10040) ∧
    (let s := pair (2 ^ 16 - 1) 0
     IssuesControl s 0 0 ∧ (src s 0 0 2).toNat < 2 ^ 16 ∧ ∀ l ∈ (s.cx 0 0).loops, l.fin ≠ (s.cx 0 0).pc.toNat + 4) ∧
    (let s := withCx (fun q => { q with rep := .skip })
     IntForm (.popc 1 2) 1 [2] (one (fun x => ofN ((List.range 64).filter x.getLsbD).length)) ∧ s.cur = .scalar 0 0 ∧ (s.cx 0 0).rep = .skip ∧
       (s.cx 0 0).pend = none ∧ NoEnd (s.cx 0 0)) :=
  ⟨⟨⟨⟨rfl, by decide⟩, rfl, rfl⟩, usable2n _ _, by decide +kernel, by decide +kernel⟩, ⟨⟨⟨rfl, by decide⟩, rfl, rfl⟩, by decide +kernel, by decide +kernel⟩,
    .popc _ _, rfl, rfl, rfl, by unfold NoEnd; decide +kernel⟩

theorem witness_DoneAndReturn :
    IssuesControl base 0 0 ∧ (base.core 0).bank = 0 ∧ (base.cx 0 0).window = none ∧
    (let s := withCore (fun k => { k with hndst := 1, aside := some (some (none, 1), .none) }); IssuesControl s 0 0 ∧ (s.core 0).hndst = 1 + 2 * 0) :=
  ⟨base_control, rfl, rfl, ⟨⟨rfl, by decide⟩, rfl, rfl⟩, rfl⟩

theorem witness_TrapsTaken :
    IssuesControl base 0 0 ∧
    (let d : Delivery := { x := 2, cause := .softwareTrap, tval := 63, epc := 0x10004 }
     let s := { withCore (fun k => { k with deliveries := [d] }) with cur := .event .trapDelivery 0 0 }
     s.cur = .event .trapDelivery 0 0 ∧ (s.core 0).deliveries = [d] ∧ (s.core 0).hndst % 2 = 0) :=
  ⟨base_control, rfl, rfl, rfl⟩

/-- The last eight bytes of the scratchpad claim. -/
theorem witness_ScratchpadAccess :
    let s := pair 0x7FFF8 5
    Issues s 0 0 ∧ Usable (s.core 0) 0 [2] (some 1) ∧ Usable (s.core 0) 0 [2, 3] none ∧ (∀ p, (s.cx 0 0).pfx = some p → p.hi < 2 ^ 21) ∧ (7 : Nat) < 8 ∧
      ea s 0 0 2 0 < 0x80000 ∧ ea s 0 0 2 0 + 2 ^ 3 ≤ (s.core 0).spadLimit ∧ Readable (s.core 0) (ea s 0 0 2 0) 8 ∧ Storable (s.core 0) (ea s 0 0 2 0) 8 :=
  ⟨⟨rfl, by decide⟩, usable2 _ _, usable23n _ _, nofun, by decide, by decide +kernel, by decide +kernel, readable _ _ (by decide +kernel),
    ⟨⟨by decide +kernel, by decide +kernel, by decide +kernel, by decide +kernel, by decide +kernel⟩, by decide +kernel, by decide +kernel, by decide +kernel, by decide +kernel⟩⟩

/-- The 64 KiB page at 0x20_0000 of context 1, on frame 2, readable and writable. -/
def dataLeaf : Leaf := { va := 0x200000, size := 1, pte := 0xB5 + 0x20000 }
/-- The state with a table for the 2 MiB from 0x20_0000 of context 1, whose entries from i on are those of a 64 KiB page. -/
def tabled (i pte step : Nat) (s : State) : State :=
  { s with tables := (s.tables.put [] 0x102 [(0, 0x103001), (1, 0x104001)]).put [] 0x104 ((List.range 16).map (fun k => (i + k, pte + step * k))) }
/-- The state with the data page, its translation held by the data TLB. -/
def mapped (s : State) : State :=
  (tabled 0 dataLeaf.pte 0x1000 s).updPhys 0 (fun p => { p with dtlb := [{ id := 1, va := 0x200000, size := 65536, ent := dataLeaf.pte }] })
/-- The base with that page and registers 2 and 3. -/
def paged (x y : Nat) : State := mapped (pair x y)

theorem ok_of {e : Ex (Target × Option Leaf)} {x : Target} {l : Option Leaf}
    (h : (match e with | .ok p => p.1 == x && p.2 == l | .error _ => false) = true) : e = .ok (x, l) := by
  cases e with
  | error _ => simp at h
  | ok p => simp at h; exact congrArg _ (Prod.ext h.1 h.2)

/-- Its last eight bytes lie in device memory. -/
theorem paged_device (n : Need) (h : n = .read ∨ n = .write ∨ n = .both) : OnDevice (paged 0x20FFF8 5) 0 0 0x20FFF8 8 0x2FFF8 n := by
  refine ⟨⟨by decide, by decide, by decide +kernel, some dataLeaf, ok_of ?_, ?_⟩, by decide +kernel⟩
  · obtain rfl | rfl | rfl := h <;> decide +kernel
  · intro f e; obtain rfl := Option.some.inj e; decide +kernel

/-- No write to a word has been made, and none is on its way. -/
theorem no_race {s : State} (pa n : Nat) (h : s.hist = []) (o : (s.cores.all (fun p => p.2.dirty.isEmpty)) = true) : NoRace s 0 0 pa n := by
  intro w _ _
  refine ⟨by simp [State.past, h, Store.get], ?_⟩
  simp only [State.onTheWay, List.flatMap_eq_nil_iff]
  intro p hp
  have e : p.2.dirty = [] := by simpa using List.all_eq_true.mp o p hp
  split <;> simp [e]

/-- Nothing waits on core 0. -/
theorem none_waits {s : State} (pa n : Nat) (h : (s.phys 0).dirty = []) : NothingWaits s 0 pa n := by
  intro x hx; rw [h] at hx; cases hx

/-- The last eight bytes of a page. -/
theorem witness_DeviceAccess :
    let s := paged 0x20FFF8 5
    Issues s 0 0 ∧ Usable (s.core 0) 0 [2] (some 1) ∧ Usable (s.core 0) 0 [2, 3] none ∧ (∀ p, (s.cx 0 0).pfx = some p → p.hi < 2 ^ 21) ∧
      ea s 0 0 2 0 = 0x20FFF8 ∧ OnDevice s 0 0 0x20FFF8 8 0x2FFF8 .read ∧ OnDevice s 0 0 0x20FFF8 8 0x2FFF8 .write ∧ (s.cx 0 0).window = none ∧
      s.devPoison 0 0x2FFF8 8 = false ∧ NoRace s 0 0 0x2FFF8 8 ∧ ∀ e ∈ (s.phys 0).dirty, e.word ≠ 0x2FFF8 / 8 :=
  ⟨⟨rfl, by decide⟩, usable2 _ _, usable23n _ _, nofun, by decide +kernel, paged_device _ (by simp), paged_device _ (by simp), rfl, by decide +kernel,
    no_race _ _ rfl (by decide +kernel), by decide +kernel⟩

/-- Core 0 has read back a write of its own that is on its way, and no other is. -/
theorem witness_DeviceAccess_own :
    let s := ((paged 0 0).ordWrite 0 0 0 0x2FFF8 [5]).tookOwn 0 0x5FFF
    (∃ e ∈ (s.phys 0).dirty, e.word = 0x5FFF ∧ e.read = true) ∧ s.onTheWay 0 0x5FFF = [] := by decide +kernel

/-- Core 0 has written a word of that page, which core 3 of its cluster has not seen; a write of core 3 that core 0 may take in, at the newest end of its word. -/
theorem witness_PublicationAndRefresh :
    (let s := (paged 0 0).ordWrite 0 0 0 0x2FFF8 [5]
     (∀ e ∈ (s.phys 0).dirty, e.scope = none ∧ e.part = false ∧ e.word < hostWords ∧ e.off + e.bs.length ≤ 8) ∧
       (∃ e ∈ (s.phys 0).dirty, e.word = 0x2FFF8 / 8) ∧ (∀ e ∈ (s.phys 3).dirty, e.word ≠ 0x2FFF8 / 8) ∧ 3 ≠ 0 ∧ covers 1 0 3 = true) ∧
    (let e : Past := { core := 4, pubs := [(1, 0)] }
     let s : State := { base with hist := [(0x5FFF, [e])] }
     s.past 0x5FFF = [] ++ e :: [] ∧ s.takesIn 0 1 e = true) := by decide +kernel

theorem strong_at (n : Need) (h : n = .read ∨ n = .write ∨ n = .both) : StrongAt (paged 0x20FFF8 5) 0 0 2 8 0x2FFF8 n :=
  { paged_device n h with window := by decide +kernel, aligned := by decide +kernel, clean := by decide +kernel }

theorem witness_StrongAccess :
    let s := paged 0x20FFF8 5
    Issues s 0 0 ∧ (3 : Nat) < 4 ∧ NothingWaits s 0 0x2FFF8 (2 ^ 3) ∧ Usable (s.core 0) 0 [2] (some 1) ∧ StrongAt s 0 0 2 (2 ^ 3) 0x2FFF8 .read ∧
      Usable (s.core 0) 0 [2, 3] none ∧ StrongAt s 0 0 2 (2 ^ 3) 0x2FFF8 .write :=
  ⟨⟨rfl, by decide⟩, by decide, none_waits _ _ (by decide +kernel), usable2 _ _, strong_at _ (by simp), usable23n _ _, strong_at _ (by simp)⟩

theorem witness_Atomics :
    let s := paged 0x20FFF8 5
    AmoForm 1 2 3 1 4 3 (.amoMaxu 1 2 3 1 4 3) (fun _ x y => if x.ule y then y else x) ∧ Issues s 0 0 ∧ (1 : Nat) < 2 ∧ Usable (s.core 0) 0 [2, 3] (some 1) ∧
      Usable (s.core 0) 0 [2, 3, 1] (some 1) ∧ StrongAt s 0 0 2 (4 * (1 + 1)) 0x2FFF8 .both ∧ NothingWaits s 0 0x2FFF8 (4 * (1 + 1)) :=
  ⟨.maxu, ⟨rfl, by decide⟩, by decide, usable23 _ _, ⟨by simp, by simp, by simp⟩, strong_at _ (by simp), none_waits _ _ (by decide +kernel)⟩

/-- A slice that adds at once, and one in ordered mode. -/
theorem witness_FloatAtomics :
    (let s := paged 0x20FFF8 5
     Issues s 0 0 ∧ Usable (s.core 0) 0 [2, 3] (some 1) ∧ StrongAt s 0 0 2 (4 * (1 + 1)) 0x2FFF8 .both ∧ NothingWaits s 0 0x2FFF8 (4 * (1 + 1)) ∧
       (s.core 0).tk.ordered = false ∧ ∀ sl, sliceOfPa 0x2FFF8 = some sl → (s.slice sl).atommode = 0) ∧
    (let s := (paged 0x20FFF8 5).updSlice 0 (fun e => { e with atommode := 1 })
     Issues s 0 0 ∧ StrongAt s 0 0 2 (4 * (1 + 1)) 0x2FFF8 .both ∧ sliceOfPa 0x2FFF8 = some 0 ∧ ((s.core 0).tk.ordered = true ∨ (s.slice 0).atommode = 1)) := by
  refine ⟨⟨⟨rfl, by decide⟩, usable23 _ _, strong_at _ (by simp), none_waits _ _ (by decide +kernel), by decide +kernel, ?_⟩,
    ⟨rfl, by decide⟩, ⟨⟨⟨by decide, by decide, by decide +kernel, some dataLeaf, ok_of (by decide +kernel), ?_⟩, by decide +kernel⟩, by decide +kernel, by decide +kernel, by decide +kernel⟩,
    by decide +kernel, .inr (by decide +kernel)⟩
  · intro sl h
    have : sl = 0 := by have : sliceOfPa 0x2FFF8 = some 0 := by decide +kernel
                        rw [this] at h; exact (Option.some.inj h).symm
    subst this; decide +kernel
  · intro f e; obtain rfl := Option.some.inj e; decide +kernel

/-- The last event counter of the claim. -/
theorem witness_EventInstructions :
    let s := pair 63 0
    Issues s 0 0 ∧ EventAt s 0 0 (src s 0 0 2).toNat 63 ∧ Usable (s.core 0) 0 [2, 3] (some 1) ∧ Usable (s.core 0) 0 [2] (some 1) ∧
      (src s 0 0 3).toNat ≤ (s.counter 63).toNat :=
  ⟨⟨rfl, by decide⟩, ⟨by decide +kernel, by decide +kernel, by decide +kernel⟩, usable23 _ _, usable2 _ _, by decide +kernel⟩

/-- An object of three bins at the start of the page: weight 2^-80, header as R163 lays it out. -/
def objected : State := { paged 0x200000 5 with mem := (base.mem.setNum 0x20000 16 (2 ^ 16 - 80 + 3 * 2 ^ 16)) }

theorem object_at (n : Need) (h : n = .read ∨ n = .both) : ObjectAt objected 0 0 2 0x20000 3 n := by
  have d : (objected.phys 0).dirty = [] := by decide +kernel
  refine ⟨by decide +kernel, by decide +kernel, by decide +kernel, by decide +kernel, by decide +kernel, ⟨some dataLeaf, ?_, ?_⟩, by decide +kernel, by decide +kernel,
    ⟨none_waits _ _ d, none_waits _ _ d⟩, by decide +kernel⟩
  · obtain rfl | rfl := h <;> exact ok_of (by decide +kernel)
  · intro f e; obtain rfl := Option.some.inj e; decide +kernel

theorem witness_ExactObjects :
    Issues objected 0 0 ∧ Usable (objected.core 0) 0 [2, 3] none ∧ Usable (objected.core 0) 0 [2] (some 1) ∧ ObjectAt objected 0 0 2 0x20000 3 .both ∧
      ObjectAt objected 0 0 2 0x20000 3 .read :=
  ⟨⟨rfl, by decide⟩, usable23n _ _, usable2 _ _, object_at _ (by simp), object_at _ (by simp)⟩

/-- The largest operand that three bins of weight 1 admit, an odd one that weight 2 does not, and a full window. -/
theorem witness_ExactAddIsExact :
    ([0, 0, 0] : List Int) ≠ [] ∧ (2 ^ 32 : Nat).testBit 32 = true ∧ (0 : Nat).testBit 32 = false ∧
    Admits (BitVec.ofNat 16 0).toInt 3 (.num true (2 ^ 80 - 1) 0) (-(2 ^ 80 - 1)) ∧ (∀ k, ¬Admits (BitVec.ofNat 16 1).toInt 3 (.num false 1 0) k) ∧
    Stated.Balanced [-(2 ^ 39), 2 ^ 39 - 1, 2 ^ 62] := by
  refine ⟨by simp, by decide, by decide, ⟨true, 2 ^ 80 - 1, 0, 2 ^ 80 - 1, rfl, by decide, by decide, by decide, by decide⟩, ?_, by unfold Stated.Balanced; decide⟩
  rintro k ⟨neg, m, e, n, h, -, hn, -⟩
  obtain ⟨rfl, rfl, rfl⟩ := Val.num.inj h
  have : (BitVec.ofNat 16 1).toInt = 1 := by decide
  rw [this] at hn
  simp at hn

theorem witness_ExactAddsInAnyOrder :
    ([0, 0] : List Int) ≠ [] ∧ (0 : Nat).testBit 32 = false ∧ [Val.num false 1 0, .num true 3 0].Perm [.num true 3 0, .num false 1 0] ∧
    ∀ x ∈ [Val.num false 1 0, .num true 3 0], ∃ k, Admits (BitVec.ofNat 16 0).toInt 2 x k := by
  refine ⟨by simp, by decide, .swap _ _ _, fun x h => ?_⟩
  simp at h
  obtain rfl | rfl := h
  · exact ⟨1, false, 1, 0, 1, rfl, by decide, by decide, by decide, by decide⟩
  · exact ⟨-3, true, 3, 0, 3, rfl, by decide, by decide, by decide, by decide⟩

theorem quiet_base (k : Core) (h : (k.rerr.isEmpty && k.corr.isEmpty && k.spoison.isEmpty && decide (k.einj < 2 ^ 31) && k.liveWins.isEmpty) = true) : Quiet k := by
  simp at h; exact ⟨h.1.1.1.1, h.1.1.1.2, h.1.1.2, h.1.2, h.2⟩

/-- A probability register of two symbols of one half each (R194) and a stream that decodes (R190). -/
def coding : State := (pair 0 1).updCore 0 (fun k => { k with
  cd := k.cd.put {} 15 { n := 2, p := 10, cum := [0, 512, 1024] }
  st := (k.st.put {} 63 { mode := 2, range := 2 ^ 32 - 1, base := 0, limit := 64, cursor := 5, ctx := 1 }).put {} 62
    { mode := 1, range := 2 ^ 32 - 1, base := 64, limit := 128, cursor := 64, pend := 1, ctx := 1 }
  q := (k.q.put [] 4 [15]) })

/-- An encoder whose carry runs through a byte held back and two pending, with the narrowest range. -/
def carrying : Stream := { mode := 1, low := 2 ^ 32 + 5, range := 2 ^ 24, cache := 0x7F, pend := 3, limit := 64 }

theorem witness_EntropyCoder :
    (∃ k, CoderForm coding 0 0 (.rcenc 62 15 3) [3] k) ∧ (∃ k, CoderForm coding 0 0 (.rcflush 62) [] k) ∧ (∃ k, CoderForm coding 0 0 (.rcsave 63 2) [2] k) ∧
    (∃ k, CoderForm coding 0 0 (.cdsave 15 2) [2] k) ∧ (∃ k, CoderForm coding 0 0 (.rcinitEnc 63 2) [2] k) ∧ (∃ k, CoderForm coding 0 0 (.rcload 63 2) [2] k) ∧
    Issues coding 0 0 ∧ (coding.cx 0 0).window = none ∧ Usable (coding.core 0) 0 [3] none ∧ Usable (coding.core 0) 0 [] (some 1) ∧
    StreamOk (coding.core 0) 63 2 ∧ TableOk (coding.core 0) 15 ∧ Quiet (coding.core 0) ∧
    (∃ v t, decode1 (coding.core 0) ((coding.core 0).prob 15) ((coding.core 0).stream 63) 63 = .ok (v, t)) ∧
    (coding.core 0).cl.has (.queue 4) = true ∧ (coding.core 0).cl.has (.queue 5) = true ∧ (coding.core 0).queue 4 ≠ [] ∧
    ((coding.core 0).queue 5).length + (1 + 7) / 8 ≤ 16 ∧ (∃ l, decodeN (coding.core 0) (((coding.core 0).queue 4).headD 0).toNat 63 1 0 = .ok l) ∧
    (∃ u bs, encode1 ((coding.core 0).prob 15) carrying 0 1 = .ok (u, bs)) ∧ (∃ u bs, shiftLows 5 carrying = some (u, bs)) ∧ 1 ≤ carrying.pend ∧
    carrying.low < 2 ^ 33 ∧ ((coding.core 0).prob 15).cell 0 = 0 ∧ ((coding.core 0).prob 15).cell ((coding.core 0).prob 15).n = 2 ^ ((coding.core 0).prob 15).p := by
  have some' {α : Type} {e : Ex α} (h : (match e with | .ok _ => true | .error _ => false) = true) : ∃ x, e = .ok x := by
    cases e with
    | ok x => exact ⟨x, rfl⟩
    | error _ => simp at h
  have q : Quiet (coding.core 0) := quiet_base _ (by decide +kernel)
  have enc : ∃ x, encode1 ((coding.core 0).prob 15) ((coding.core 0).stream 62) 62 (src coding 0 0 3).toNat = .ok x := some' (by decide +kernel)
  obtain ⟨⟨t, bs⟩, he⟩ := enc
  have fl : ∃ x, shiftLows 5 ((coding.core 0).stream 62) = some x := Option.isSome_iff_exists.mp (by decide +kernel)
  obtain ⟨⟨t', bs'⟩, hf⟩ := fl
  obtain ⟨⟨v, u⟩, hd⟩ := (some' (by decide +kernel) : ∃ x, decode1 (coding.core 0) ((coding.core 0).prob 15) ((coding.core 0).stream 63) 63 = .ok x)
  refine ⟨⟨_, .enc _ _ _ t bs ⟨by decide +kernel, by decide +kernel, by decide +kernel⟩ ⟨by decide +kernel, by decide +kernel⟩ q he⟩,
    ⟨_, .flush _ t' bs' ⟨by decide +kernel, by decide +kernel, by decide +kernel⟩ q hf⟩,
    ⟨_, .save _ _ (by decide +kernel) (by decide +kernel) ⟨q, by decide +kernel, by decide +kernel, by decide +kernel, by decide +kernel⟩⟩,
    ⟨_, .cdsave _ _ (by decide +kernel) (by decide +kernel) ⟨q, by decide +kernel, by decide +kernel, by decide +kernel, by decide +kernel⟩⟩,
    ⟨_, .initEnc _ _ (by decide +kernel) ⟨readable _ _ (by decide +kernel), by decide +kernel, by decide +kernel⟩
      ⟨by decide +kernel, by decide +kernel, by decide +kernel, by decide +kernel⟩⟩,
    ⟨_, .load _ _ (by decide +kernel) ⟨readable _ _ (by decide +kernel), by decide +kernel, by decide +kernel⟩ (by decide +kernel)⟩,
    ⟨rfl, by decide⟩, rfl, ⟨by simp, by simp, by simp⟩, usable0 _ _, ⟨by decide +kernel, by decide +kernel, by decide +kernel⟩, ⟨by decide +kernel, by decide +kernel⟩, q,
    ⟨v, u, hd⟩, by decide +kernel, by decide +kernel, by decide +kernel, by decide +kernel, some' (by decide +kernel), ?_, ?_, by decide, by decide,
    by decide +kernel, by decide +kernel⟩
  · obtain ⟨⟨y, l⟩, h⟩ := (some' (by decide +kernel) : ∃ y, encode1 ((coding.core 0).prob 15) carrying 0 1 = .ok y)
    exact ⟨y, l, h⟩
  · obtain ⟨⟨y, l⟩, h⟩ := (Option.isSome_iff_exists.mp (by decide +kernel) : ∃ y, shiftLows 5 carrying = some y)
    exact ⟨y, l, h⟩

/-! ### Witnesses: windows, tails, services, traps, steps -/

/-- The main context owns window 3, opened at step 15 of 16 less one, with one logged line. -/
def windowed (w : Window) : State := (pair 1 0).updPhys 0 (fun p => { p with k := { p.k with
  win := p.k.win.put {} 3 w, cx := p.k.cx.upd {} 0 (fun q => { q with window := some 3 }) } })
/-- A window that step 14 of context 0 has open. -/
def open14 : Window := { st := 1, owner := 0, step := 14, allocVa := 0x400000, allocMax := 2, rlog := [{ step := 3, line := 5, bs := List.replicate 128 0, poison := [80], corr := [95] }] }

theorem owns : Owns ((windowed open14).core 0) 0 3 := ⟨by decide +kernel, by decide +kernel, by decide +kernel⟩
theorem windowed_control : IssuesControl (windowed open14) 0 0 := ⟨⟨rfl, by decide⟩, rfl, rfl⟩

/-- Core 0 after a tail with frame mark 4 has ended in slot 1 and one with mark 5 in slot 2, and a value in register 2. -/
def ended (v : Nat) : State := (pair v 0).updCore 0 (fun k => { k with cx := (k.cx.put {} 1 { fmark := 4, serial := 2 }).put {} 2 { fmark := 5, serial := 3 } })

theorem popped (n : Nat) : (n != 0 && n != 3) = true ↔ PoppedTail (ended 5) 0 (src (ended 5) 0 0 2).toNat n := by
  have e1 : ((ended 5).cx 0 1).serial = 2 ∧ ((ended 5).cx 0 1).live = false ∧ ((ended 5).cx 0 1).fmark.toNat < (src (ended 5) 0 0 2).toNat := by decide +kernel
  have e2 : ((ended 5).cx 0 2).serial = 3 ∧ ¬((ended 5).cx 0 2).fmark.toNat < (src (ended 5) 0 0 2).toNat := by decide +kernel
  simp only [PoppedTail, Bool.and_eq_true, bne_iff_ne, ne_eq]
  refine and_congr_right fun _ => ⟨fun h i hi e => ?_, fun h e => ?_⟩
  · obtain rfl | rfl := hi
    · exact e1.2
    · exact absurd (e.symm.trans e2.1) h
  · exact e2.2 (h 2 (.inr rfl) (e2.1.trans e.symm)).2

/-- Every window instruction at an edge: the last step may begin, all 15 steps commit, a zero commit aborts, a page is allocated, the first of its range. -/
theorem witness_Windows :
    (∃ k, WindowForm (pair 0 0) 0 0 (.swopen 3 2) [2] (pair 0 0) k) ∧ (∃ k, WindowForm (windowed open14) 0 0 (.swstep 3) [] (windowed open14) k) ∧
    (∃ b k, WindowForm (windowed open14) 0 0 (.swabort 3) [] b k) ∧ (∃ b k, WindowForm (pair 2 0) 0 0 (.tjoin 2) [2] b k) ∧ (∃ b k, WindowForm (ended 1) 0 0 (.tjoin 2) [2] b k) ∧
    (∃ b v, WindowReads (windowed open14) 0 0 (.swcommit 1 3 2) [2] 1 b v) ∧
    (∃ b v, WindowReads (windowed { open14 with st := 1, allocVa := 0 }) 0 0 (.swalloc 1 3) [] 1 b v) ∧
    (∃ b v, WindowReads (windowed open14) 0 0 (.swalloc 1 3) [] 1 b v ∧ v = 0x400000) ∧
    (∃ v, WindowReads (windowed open14) 0 0 (.swstat 1 3) [] 1 (windowed open14) v) ∧ (∃ b v, WindowReads (ended 5) 0 0 (.fpop 1 2) [2] 1 b v) ∧
    IssuesControl (pair 0 0) 0 0 ∧ IssuesControl (pair 2 0) 0 0 ∧ IssuesControl (windowed open14) 0 0 ∧ IssuesControl (ended 5) 0 0 ∧ IssuesControl (ended 1) 0 0 ∧
    (∀ e ∈ ((windowed open14).core 0 |>.window 3).rlog, e.bs.length = 128 ∧ ∀ i ∈ e.corr, i / 16 = e.line) := by
  have fi : (windowed open14).freeIndex ((windowed open14).core 0).tk.ctx (((windowed open14).core 0).window 3) = some 0 := by decide +kernel
  have fr : ∃ q, pageAt (windowed open14) 0 ((((windowed open14).core 0).window 3).allocVa + 65536 * 0) = some q := Option.isSome_iff_exists.mp (by decide +kernel)
  obtain ⟨⟨f, u⟩, fr⟩ := fr
  have op : ∃ w, windowOf ((pair 0 0).core 0) 0 (((pair 0 0).core 0).spad.num (src (pair 0 0) 0 0 2).toNat 32) = some w := Option.isSome_iff_exists.mp (by decide +kernel)
  obtain ⟨w, op⟩ := op
  exact ⟨⟨_, .swopen 3 2 w (by decide +kernel) (by decide +kernel) rfl
      ⟨readable _ _ (by decide +kernel), by decide +kernel, by decide +kernel⟩ op (by decide +kernel)⟩,
    ⟨_, .swstep 3 owns (by decide +kernel) (by decide +kernel) (by decide +kernel)⟩,
    ⟨_, _, .swabort 3 owns (by decide +kernel)⟩, ⟨_, _, .tjoin 2 (by decide +kernel) (.inl (by decide +kernel))⟩, ⟨_, _, .tjoin 2 (by decide +kernel) (.inr (.inl (by decide +kernel)))⟩,
    ⟨_, _, .swcommit 1 3 2 owns (by decide +kernel) (by decide +kernel) (by decide +kernel) (by decide +kernel)⟩,
    ⟨_, _, .swallocNone 1 3 ⟨by decide +kernel, by decide +kernel, by decide +kernel⟩ (.inl (by decide +kernel))⟩,
    ⟨_, _, .swalloc 1 3 0 f u owns (by decide +kernel) (by decide +kernel) (by decide +kernel) fi fr, by decide +kernel⟩,
    ⟨_, .swstat 1 3 (by decide +kernel)⟩, ⟨_, _, .fpop 1 2 (fun n => n != 0 && n != 3) popped (.inl rfl) (by intro i h; obtain rfl | rfl := h <;> decide +kernel)⟩,
    ⟨⟨rfl, by decide⟩, rfl, rfl⟩, ⟨⟨rfl, by decide⟩, rfl, rfl⟩, windowed_control, ⟨⟨rfl, by decide⟩, rfl, rfl⟩, ⟨⟨rfl, by decide⟩, rfl, rfl⟩, by decide +kernel⟩

/-- Both tails free, and no tail free. -/
theorem witness_TailRelease :
    (let s := withCx (fun q => { q with b := q.b.put 0 3 0x10040 })
     IssuesControl s 0 0 ∧ (s.cx 0 0).window = none ∧ ((s.cx 0 0).b.get 0 3).toNat % 64 = 0 ∧ ((s.cx 0 0).b.get 0 3).toNat < 2 ^ 48 ∧
       (s.core 0).freeTail = some 0) ∧
    (let s := withCore (fun k => { k with cx := (k.cx.put {} 1 { live := true }).put {} 2 { live := true } })
     IssuesControl s 0 0 ∧ (s.core 0).freeTail = none ∧ NoEnd (s.cx 0 0)) :=
  ⟨⟨⟨⟨rfl, by decide⟩, rfl, rfl⟩, rfl, by decide +kernel, by decide +kernel, by decide +kernel⟩,
    ⟨⟨⟨rfl, by decide⟩, rfl, rfl⟩, by decide +kernel, by unfold NoEnd; decide +kernel⟩⟩

/-- The last block of the claim; a reply that has come; a flag in scratchpad and one in device memory at the end of its page. -/
theorem witness_ServicesAndLoopCounts :
    (let s := pair 0x7FFC0 0
     IssuesControl s 0 0 ∧ Usable (s.core 0) 0 [2] (some 1) ∧ (s.cx 0 0).wait = .none ∧ (src s 0 0 2).toNat % 64 = 0 ∧
       (src s 0 0 2).toNat + 64 ≤ (s.core 0).spadLimit ∧ (s.cx 0 0).window = none) ∧
    (let s := withCx (fun q => { q with wait := .reply 5 }); IssuesControl s 0 0 ∧ (s.cx 0 0).wait = .reply 5) ∧
    (let s := (pair 0x7FFF0 0).updCore 0 (fun k => { k with spad := k.spad.setNum 0x7FFF0 16 1 })
     IssuesControl s 0 0 ∧ Usable (s.core 0) 0 [2] none ∧ (s.cx 0 0).loops = [] ∧ (src s 0 0 2).toNat % 4096 + 16 ≤ 4096 ∧
       (s.cx 0 0).window = none ∧ (src s 0 0 2).toNat % 8 = 0 ∧ Readable (s.core 0) 0x7FFF0 16 ∧ (s.core 0).spad.num 0x7FFF0 8 ≠ 0) ∧
    (let s : State := { paged 0x20FFF0 0 with mem := base.mem.setNum 0x2FFF0 16 1 }
     IssuesControl s 0 0 ∧ OnDevice s 0 0 0x20FFF0 8 0x2FFF0 .read ∧ s.devPoison 0 0x2FFF0 16 = false ∧ NothingWaits s 0 0x2FFF0 16 ∧ s.mem.num 0x2FFF0 8 ≠ 0) :=
  ⟨⟨⟨⟨rfl, by decide⟩, rfl, rfl⟩, usable2 _ _, rfl, by decide +kernel, by decide +kernel, rfl⟩, ⟨⟨⟨rfl, by decide⟩, rfl, rfl⟩, rfl⟩,
    ⟨⟨⟨rfl, by decide⟩, rfl, rfl⟩, usable2n _ _, rfl, by decide +kernel, rfl, by decide +kernel, readable _ _ (by decide +kernel), by decide +kernel⟩,
    ⟨⟨⟨rfl, by decide +kernel⟩, by decide +kernel, by decide +kernel⟩,
      ⟨⟨by decide, by decide, by decide +kernel, some dataLeaf, ok_of (by decide +kernel), fun f e => by obtain rfl := Option.some.inj e; decide +kernel⟩, by decide +kernel⟩,
      by decide +kernel, none_waits _ _ (by decide +kernel), by decide +kernel⟩⟩

/-- Each condition of the traps and of the stalls. -/
theorem witness_TrapsAndStalls :
    (base.cur = .scalar 0 0 ∧ Issues base 0 0) ∧ TrapForm base 0 0 (.illegalInstruction 0xFFFFFFFF) .illegalInstruction 0xFFFFFFFF ∧
    TrapForm (withCx (fun q => { q with pc := 0x1003C })) 0 0 (.pfx 0 false true 0) .orphanPrefix (word (.pfx 0 false true 0)) ∧
    TrapForm (withCx (fun q => { q with pend := some (none, 1) })) 0 0 (.br 0 16) .controlInDelay (word (.br 0 16)) ∧
    TrapForm (withCx (fun q => { q with rep := .run 1 })) 0 0 .done .controlValue (word .done) ∧
    TrapForm base 0 0 (.clz 1 30) .queueDirection 6 ∧ TrapForm base 0 0 (.csrr 1 0x2C0) .controlValue 0x2C0 ∧
    TrapForm (pair 0 0) 0 0 (.csrw 2 0x051) .controlValue 0x051 ∧
    TrapForm (withCx (fun q => { q with b := q.b.put 0 0 (BitVec.ofNat 64 (2 ^ 48)) })) 0 0 (.br 0 16) .alignment (2 ^ 48) ∧
    TrapForm (pair 4 0) 0 0 (.lda 1 2 3 0 1) .misaligned 4 ∧ TrapForm (windowed open14) 0 0 (.phase 0) .strongInWindow 3 ∧
    TrapForm (pair 0x82000 0) 0 0 (.ld 1 2 7 0) .controlValue 0x82000 ∧ TrapForm (pair (2 ^ 48) 0) 0 0 (.ld 1 2 7 0) .notMapped (2 ^ 48) ∧
    TrapForm (withCore (fun k => { k with sem := k.sem.put 0 30 65535 })) 0 0 (.semraise 30) .semOverflow 30 ∧
    TrapForm (withCore (fun k => { k with bb := k.bb.put {} 15 { overrun := true } })) 0 0 (.bbwait 15) .barrierOverrun 15 ∧
    TrapForm (withCore (fun k => { k with bank := 1 })) 0 0 .done .banksOpen 0 ∧ TrapForm (windowed open14) 0 0 .done .windowAtDone 3 ∧
    TrapForm (withCx (fun q => { q with pend := some (none, 1) })) 0 0 (.lcbwait 2) .controlInDelay (word (.lcbwait 2)) ∧
    TrapForm (withCore (fun k => { k with task := some { probeTask with claims := { probeTask.claims with queues := 0 } } })) 0 0 (.clz 1 25) .unclaimed 1 ∧
    TrapForm (windowed open14) 0 0 (.lda 1 2 3 0 1) .strongInWindow 3 ∧ TrapForm (pair 0x7FFFC 0) 0 0 (.ld 1 2 7 0) .unclaimed 0x7FFFC ∧
    StallForm (withCore (fun k => { k with q := k.q.put [] 0 (List.replicate (qDepth 0) 0) })) 0 0 (.clz 24 2) none none ∧
    TrapForm base 0 0 .tret .controlValue 0 ∧ StallForm base 0 0 (.clz 1 25) none none ∧ StallForm base 0 0 (.semwait 30) none none ∧
    StallForm (withCore (fun k => { k with bb := k.bb.put {} 15 { count := 1 } })) 0 0 (.bbwait 15) none (some (.barrier 15)) ∧ StallForm (pair 63 1) 0 0 (.evwait 1 2 3) none none ∧
    StallForm ((pair 1 0).updCore 0 (fun k => { k with row := { k.row with size := 1, rel := 1 } })) 0 0 (.relrow 2) none none ∧
    StallForm ((pair 0x7FFF8 0).updCore 0 (fun k => { k with empty := k.empty.put false 4095 true })) 0 0 (.ld 1 2 7 0) (some 0x7FF80) none ∧
    StallForm ((pair 1 0).updCore 0 (fun k => { k with cx := k.cx.put {} 2 { live := true, serial := 9 } })) 0 0 (.tjoin 2) none (some (.tail 9)) := by
  refine ⟨⟨rfl, base_issues⟩, .illegal _ rfl, .orphan _ _ _ _ (by decide +kernel), .delaySlot _ (.br _ _) (by decide +kernel),
    .repeated _ .done rfl (by decide +kernel), .direction _ 1 6 [] _ (.clz 1 30) (by decide +kernel) (by decide) (by simp),
    .csrr 1 _ (usable0 _ _) (by decide +kernel) (by decide), .csrw 2 _ (usable2n _ _) (by decide +kernel) (by decide),
    .target 0 16 rfl rfl (by decide +kernel) (by decide +kernel), .misaligned 1 2 3 0 1 (usable2 _ _) (by decide +kernel) rfl (by decide +kernel),
    .phase 0 3 (by decide +kernel) rfl, .hole 1 2 7 0 (usable2 _ _) (by decide +kernel) nofun (by decide +kernel) (by decide +kernel),
    .unmapped 1 2 7 0 (usable2 _ _) (by decide +kernel) nofun (by decide +kernel) (by decide +kernel) (by decide +kernel) (by decide +kernel) (.inl (by decide +kernel)),
    .overflow 30 rfl (by decide +kernel) (by decide) (by decide +kernel) (by decide +kernel), .overrun 15 (by decide +kernel) (by decide +kernel) (by decide +kernel),
    .banks rfl rfl (by decide +kernel), .windowLeft 3 rfl rfl (by decide +kernel) rfl,
    .lcbDelay 2 (by decide +kernel), .unclaimed _ 1 1 _ (.clz 1 25) (by decide +kernel) (by decide) (by decide) (by decide) (by decide +kernel),
    .strong 1 2 3 0 1 3 (usable2 _ _) (by decide +kernel) rfl, .beyond 1 2 7 0 (usable2 _ _) (by decide +kernel) nofun (by decide +kernel) (by decide +kernel),
    .destination _ 0 [2] _ (.clz 24 2) (by decide) (by decide +kernel) (by decide +kernel) (usable2n _ _), .notHandler rfl rfl (by decide +kernel),
    .source _ 1 1 _ (.clz 1 25) (by decide) (by decide) (by decide) (by decide +kernel) (by decide +kernel),
    .semwait 30 (by decide) (by decide +kernel) (by decide +kernel), .bbwait 15 (by decide +kernel) (by decide +kernel) (by decide +kernel),
    .evwait 1 2 3 63 (usable23 _ _) ⟨by decide +kernel, rfl, by decide +kernel⟩ (by decide +kernel), .relrow 2 (usable2n _ _) (by decide +kernel) (by decide +kernel),
    .emptyLine 1 2 7 0 4095 (usable2 _ _) nofun (by decide +kernel) (by decide +kernel) (by decide +kernel),
    .tjoin 2 (usable2n _ _) rfl rfl (by decide +kernel) (by decide +kernel) nofun⟩

/-- A prefix at the first word of a block, before a movi. -/
theorem witness_Prefix :
    let s : State := { State.reset.placeScalar 0xFC000001 with cur := .scalar 0 0 }
    s.cur = .scalar 0 0 ∧ (s.cx 0 0).pc.toNat % 64 ≠ 60 ∧ ∃ w u, fetchWord 0 ((s.cx 0 0).pc.toNat + 4) s = .ok (w, u) ∧ w / 2 ^ 26 ≠ 0x3F := by
  have ok {e : Ex (Nat × State)} (h : (match e with | .ok p => p.1 == 0 | .error _ => false) = true) : ∃ u, e = .ok (0, u) := by
    cases e with
    | ok p => simp at h; exact ⟨p.2, by rw [← h]⟩
    | error _ => simp at h
  intro s
  obtain ⟨u, h⟩ := (ok (by decide +kernel) : ∃ u, fetchWord 0 ((s.cx 0 0).pc.toNat + 4) s = .ok (0, u))
  exact ⟨rfl, by decide +kernel, 0, u, h, by decide⟩

/-! ### Witnesses: row words -/

/-- The row engine of core 0 is to run a word: its banks are on, semaphore 2 is raised, and q0 holds entries. -/
def rowing (q0 : List W64) : State :=
  { base.updPhys 0 (fun p => { p with k := { p.k with tbpwr := 0xAA, sem := p.k.sem.put 0 2 1, q := p.k.q.put [] 0 q0 } }) with cur := .row 0 }

/-- The row engine's state with a change of its core. -/
def rowingOf (q0 : List W64) (f : Core → Core) : State := (rowing q0).updCore 0 f

/-- What a check of a state, a row word and its operand columns says of the word's start. -/
def starts (s : State) (sp : RowSpec) (f : RowF) : Bool :=
  let k := s.core 0
  k.engineFree false && k.row.word.isNone && rowLegal k sp f && (f.aw == 31 || decide (0 < k.sem.get 0 f.aw)) &&
    decide (sp.pops + f.hasQ0.toNat ≤ (k.queue 0).length) && decide ((k.queue 1).length + sp.pushes ≤ 16) && k.empty.isEmpty && k.rerr.isEmpty &&
    k.spoison.isEmpty && decide (k.einj < 2 ^ 31) && k.liveWins.isEmpty
/-- What it says of the word's course. -/
def goes (s : State) (sp : RowSpec) (f : RowF) : Bool :=
  starts s sp f && (rowBanks (s.core 0) sp f).all (fun b => (s.core 0).tbpwr / 4 ^ b % 4 != 0) &&
    (f.rs == 31 || decide ((s.core 0).sem.get 0 f.rs - (if f.aw = f.rs then 1 else 0) < 65535))

theorem no_error {k : Core} (st w n : Nat) (h : k.rerr = []) : Sound k st w n := fun p hp => by simp [h] at hp
theorem sound_row {k : Core} (r : RowAt) (e : k.empty = []) (h : k.rerr = []) (p : k.spoison = []) : RowSound k r := by
  cases r with
  | sp n => exact spad_readable _ _ e p
  | _ => exact fun st w _ => no_error st w _ h
theorem log_fits {s : State} {c : Nat} (ls : List Nat) (h : (s.core c).liveWins = []) : LogFits s c ls := by
  unfold LogFits
  simp [h]
theorem not_aimed {k : Core} (hit : Nat → Nat → Prop) (h : k.einj < 2 ^ 31) : NotAimed k hit := fun e => by
  rw [Nat.testBit_lt_two_pow h] at e
  cases e

theorem row_starts (s : State) (sp : RowSpec) (f : RowF) (c : s.cur = .row 0) (h : starts s sp f = true) : RowStart s 0 sp f := by
  simp only [starts, Bool.and_eq_true, Bool.or_eq_true, beq_iff_eq, decide_eq_true_eq, List.isEmpty_iff, Option.isNone_iff_eq_none] at h
  obtain ⟨⟨⟨⟨⟨⟨⟨⟨⟨⟨h1, hw⟩, h2⟩, h3⟩, h4⟩, h5⟩, h11⟩, h6⟩, h8⟩, h9⟩, h10⟩ := h
  exact
    { cur := c, free := h1, fresh := hw, legal := h2, await := fun n => h3.resolve_left n, entries := h4, room := h5
      reads := fun r _ => sound_row r h11 h6 h8, trailer := fun r _ => spad_readable _ _ h11 h8, preds := fun p _ => no_error _ _ _ h6
      parts := .inr fun _ _ _ _ _ _ _ _ => no_error _ _ _ h6, logs := log_fits _ h10, aim := not_aimed _ h9 }

theorem row_goes (s : State) (sp : RowSpec) (f : RowF) (c : s.cur = .row 0) (h : goes s sp f = true) : RowGo s 0 sp f := by
  simp only [goes, Bool.and_eq_true, Bool.or_eq_true, beq_iff_eq, bne_iff_ne, ne_eq, decide_eq_true_eq, List.all_eq_true] at h
  exact { row_starts s sp f c h.1.1 with banks := h.1.2, raise := fun n => h.2.resolve_left n }

/-- The word of the manual's trace (R253). -/
def traceWord : RowF := { fmt := 0x0A, d := 0x21001, a := 0x20001, b := 0x20801, rep := 15, aw := 2, rs := 4 }

theorem witness_RowElements :
    ∃ sp e, ElemForm ((rowing []).core 0) traceWord (.vadd traceWord) sp e ∧ RowGo (rowing []) 0 sp traceWord :=
  ⟨_, _, .vadd, row_goes _ _ _ rfl (by decide +kernel)⟩

/-- A shift of a whole row, the edge between vext and its fault. -/
theorem witness_RowElements_vext :
    let f : RowF := { fmt := 0x0A, d := 0x21001, a := 0x20001, b := 0x20801 }
    ∃ sp e, ElemForm ((rowing [256]).core 0) f (.vext f) sp e ∧ RowGo (rowing [256]) 0 sp f :=
  ⟨_, _, .vext (by decide +kernel), row_goes _ _ _ rfl (by decide +kernel)⟩

/-- A word into row 0 of tile 2 of a core that is not at rest: its bank is in retention, a line and a word of scratchpad and a word of the tiles that it does not read are empty, poisoned and in error, a window is open, and an injection aims at another word. -/
theorem witness_RowElements_busy :
    let f : RowF := { fmt := 0x0A, d := 0x01000, a := 0x20001, b := 0x20801 }
    let s := rowingOf [] (fun k => { k with
      tbpwr := 0xA9, empty := [(4095, true)], spoison := [(60000, true)], rerr := [(16000, true)], win := k.win.put {} 3 open14
      einj := 2 ^ 31 + 16000 * 16 })
    ∃ sp e, ElemForm (s.core 0) f (.vadd f) sp e ∧ RowGo s 0 sp f := by
  intro f s
  have e : (s.core 0).empty = [(4095, true)] ∧ (s.core 0).spoison = [(60000, true)] ∧ (s.core 0).rerr = [(16000, true)] := by decide +kernel
  have row {i : Nat} (h : i ≤ f.rep) : i = 0 := Nat.le_zero.mp h
  have dst : operandRow (s.core 0) f.dOp 0 = some (.tile 16) ∧ Stated.rowWords (.tile 16) = some (0, 2048) := by decide +kernel
  have spad (n : Nat) (h : n < 17) : RowSound (s.core 0) (.sp n) := by
    refine ⟨fun l hl => ?_, fun w lo hi => ?_⟩
    · have : l < 4095 := by simp [linesOf] at hl; omega
      simp [Core.isEmpty, e.1, Store.get, show 4095 ≠ l by omega]
    · simp [e.2.1, Store.get, show 60000 ≠ w by omega]
  refine ⟨_, _, .vadd, { cur := rfl, free := by decide +kernel, fresh := by decide +kernel, legal := by decide +kernel, await := by decide +kernel
                         entries := by decide +kernel, room := by decide +kernel, reads := fun r h => ?_, trailer := fun r h => ?_, preds := fun p h => ?_
                         parts := .inl ⟨.inl (by decide +kernel), by decide, by decide, by decide⟩, logs := ⟨by decide +kernel, .inl (by decide +kernel)⟩
                         aim := fun _ h => ?_, banks := by decide +kernel, raise := by decide +kernel }⟩
  · have a0 : operandRow (s.core 0) f.aOp 0 = some (.sp 0) := by decide +kernel
    have b0 : operandRow (s.core 0) f.bOp 0 = some (.sp 16) := by decide +kernel
    obtain ⟨u, -⟩ | ⟨i, hi, h⟩ | ⟨-, -, i, hi, h⟩ := h
    · cases u
    · obtain rfl := row (Nat.le_of_lt_succ hi)
      obtain rfl := Option.some.inj (a0.symm.trans h); exact spad 0 (by decide)
    · obtain rfl := row hi
      obtain rfl := Option.some.inj (b0.symm.trans h); exact spad 16 (by decide)
  · exact absurd h.1 (by decide)
  · intro q hq
    rw [e.2.2] at hq
    obtain rfl := List.mem_singleton.mp hq
    left
    simp only [errKey]
    omega
  · obtain ⟨r, v, h, hv, lo, hi⟩ := h
    have aim : (s.core 0).einj % 16 = 0 ∧ (s.core 0).einj / 2 ^ 4 % 2 ^ 20 = 16000 := by decide +kernel
    rw [aim.1] at hv
    rw [aim.2] at lo hi
    obtain ⟨i, hi', h⟩ | ⟨p, h, -⟩ | ⟨h, -⟩ := h
    · obtain rfl := row (Nat.le_of_lt_succ hi')
      obtain rfl := Option.some.inj (dst.1.symm.trans h)
      have := (Prod.mk.inj (Option.some.inj (dst.2.symm.trans hv))).2
      omega
    · exact absurd h (by have : f.dOp = .tile 2 0 0 := by decide +kernel
                         simp [this])
    · exact absurd h (by decide)

/-- A compare into vp3 and a vote of it. -/
theorem witness_RowPredicates :
    (let f : RowF := { fmt := 0x0A, d := 0x35800, a := 0x20001, b := 0x20801 }
     ∃ sp out fl p, PredForm ((rowing []).core 0) f (.vcmpLt f) sp out fl p ∧ RowGo (rowing []) 0 sp f) ∧
    (let f : RowF := { fmt := 0x0A, a := 0x35800, psel := 7 }
     ∃ sp out fl p, PredForm ((rowing []).core 0) f (.vvoteAll f) sp out fl p ∧ RowGo (rowing []) 0 sp f) ∧
    (let f : RowF := { d := 0, a := 0, b := 0 }
     ∃ sp out fl p, PredForm ((rowing []).core 0) f (.rowNotify f) sp out fl p ∧ RowGo (rowing []) 0 sp f) :=
  ⟨⟨_, _, _, _, .vcmpLt 3 (by decide +kernel), row_goes _ _ _ rfl (by decide +kernel)⟩,
    ⟨_, _, _, _, .vvoteAll 3 (by decide +kernel), row_goes _ _ _ rfl (by decide +kernel)⟩,
    ⟨_, _, _, _, .rowNotify, row_goes _ _ _ rfl (by decide +kernel)⟩⟩

/-- Sixteen results to q1, the most it takes, and sixty-four to a row. -/
theorem witness_RowReductions :
    (let f : RowF := { fmt := 0x06, a := 0x20001, rep := 15 }
     ∃ sp wd res, ReduceForm f (.vrsum f) sp wd res ∧ RowGo (rowing []) 0 sp f) ∧
    (let f : RowF := { fmt := 0x0A, d := 0x22001, a := 0x20001, rep := 63 }
     ∃ sp wd res, ReduceForm f (.vrargmax f) sp wd res ∧ RowGo (rowing []) 0 sp f) :=
  ⟨⟨_, _, _, .vrsum, row_goes _ _ _ rfl (by decide +kernel)⟩,
    ⟨_, _, _, .vrargmax, row_goes _ _ _ rfl (by decide +kernel)⟩⟩

/-- Two weights as cells of precision 10; a tile of 1024 bytes quantised, and one whose trailer holds its CRC; the most candidates. -/
theorem witness_RowTables_vcdf :
    let f : RowF := { fmt := 0x0A, d := 0x21001, a := 0x20001 }
    let sp : RowSpec := { op := 0x5A, fmt := (· == F32), d := .dst, a := .src, b := .none, psel := 0, pops := 1 }
    let s := rowing [ofN (2 + 10 * 512)]
    let k := s.core 0
    ∃ cells, cdfCells 10 ((List.range 2).map (fun j => valueOf F32 (srcAt k k.rowRaw f.aOp 4 0 j))) = some cells ∧
      ownEntry k f 0 = 2 + 10 * 512 ∧ RowGo s 0 sp f ∧
      HeadStep k f 0 (cells.flatMap (toBytes 2)) k.rowRaw
        (fun r => if operandRow k f.dOp 0 = some r then cells.flatMap (toBytes 2) ++ (k.rowRaw r).drop (cells.flatMap (toBytes 2)).length else k.rowRaw r) := by
  intro f sp s k
  obtain ⟨cells, h⟩ : ∃ cells, cdfCells 10 ((List.range 2).map (fun j => valueOf F32 (srcAt k k.rowRaw f.aOp 4 0 j))) = some cells :=
    Option.isSome_iff_exists.mp (by decide +kernel)
  refine ⟨cells, h, by decide +kernel, row_goes _ _ _ rfl (by decide +kernel), fun r e => ⟨if_pos e, fun q n => if_neg fun e' => n ?_⟩⟩
  exact (Option.some.inj (e.symm.trans e')).symm

/-- The CRC of 128 zero bytes after a value. -/
def crcZeros (c : Nat) : Nat := (List.replicate 128 (0 : Byte)).foldl (fun c b => crcShift 8 (Nat.xor c b.toNat)) c
theorem crc_zeros_low : crcZeros 0xffffffff = 0xf7d89b24 ∧ crcZeros 0xf7d89b24 = 0x478d4e6f ∧ crcZeros 0x478d4e6f = 0x4509d0c9 ∧ crcZeros 0x4509d0c9 = 0xcf03123f := by decide +kernel
theorem crc_zeros_high : crcZeros 0xcf03123f = 0x1fd80331 ∧ crcZeros 0x1fd80331 = 0xc5c4c2f9 ∧ crcZeros 0xc5c4c2f9 = 0xd77c4c0 ∧ crcZeros 0xd77c4c0 = 0x11512183 := by decide +kernel
theorem crc_of_zeros : crc32c (List.replicate 1024 0) = 0xeeaede7c := by
  obtain ⟨a, b, c, d⟩ := crc_zeros_low
  obtain ⟨e, f, g, h⟩ := crc_zeros_high
  have z : List.replicate 1024 (0 : Byte) = List.replicate 128 0 ++ (List.replicate 128 0 ++ (List.replicate 128 0 ++ (List.replicate 128 0 ++
    (List.replicate 128 0 ++ (List.replicate 128 0 ++ (List.replicate 128 0 ++ List.replicate 128 0)))))) := by simp only [List.replicate_append_replicate]
  rw [crc32c, z]
  simp only [List.foldl_append]
  unfold crcZeros at *
  rw [a, b, c, d, e, f, g, h]
  rfl

theorem witness_RowTables :
    (let f : RowF := { fmt := 0x0A, d := 0x21001, a := 0x20001 }
     let sp : RowSpec := { op := 0x65, fmt := (· == F32), d := .sp, a := .src, b := .none, pops := 1, dRows := fun _ => 8 }
     let s := rowing [ofN (1024 * 2 ^ 32)]
     ownEntry (s.core 0) f 0 / 2 ^ 32 % 2048 = 1024 ∧ RowGo s 0 sp f) ∧
    (let f : RowF := { fmt := 0x00, d := 0x21001, a := 0x20001, b := 0x0A, rep := 3 }
     RowGo (rowing []) 0 (quantSpec f) f ∧ f.dOp = .sp 32 1) ∧
    (let f : RowF := { fmt := 0x0A, d := 0x20001, a := 0x21001, b := 0x00, rep := 3 }
     let s := rowingOf [] (fun k => { k with spad := k.spad.setNum (1024 * 33 + 12) 4 0xeeaede7c })
     let tr := elemAt ((s.core 0).rowRaw (.sp 33)) 16 0
     RowGo s 0 (checkSpec f) f ∧ f.aOp = .sp 32 1 ∧ tr / 2 ^ 96 = crc32c (spadRows (s.core 0).rowRaw 32 1) ∧ tr / 2 ^ 72 % 64 = f.b % 64) := by
  refine ⟨⟨by decide +kernel, row_goes _ _ _ rfl (by decide +kernel)⟩, ⟨row_goes _ _ _ rfl (by decide +kernel), by decide +kernel⟩,
    row_goes _ _ _ rfl (by decide +kernel), by decide +kernel, ?_, by decide +kernel⟩
  have z : spadRows ((rowingOf [] (fun k => { k with spad := k.spad.setNum (1024 * 33 + 12) 4 0xeeaede7c })).core 0).rowRaw 32 1 = List.replicate 1024 0 := by
    decide +kernel
  rw [z, crc_of_zeros]
  decide +kernel

/-- The row engine's state with the data page and an address in q0. -/
def rowPaged (q0 : List W64) : State := mapped (rowing q0)

/-- Whether the last row of the page is where its page says. -/
def rowMapped (s : State) (need : Need) : Bool := (List.range 1024).all (fun b =>
  (match translate s 0 (0x20FC00 + b) need with | .ok p => p.1 == .dev (0x2FC00 + b) && p.2 == some dataLeaf | .error _ => false) &&
    !s.devPoison 0 (0x2FC00 + b) 1 && (sliceOfPa (0x2FC00 + b)).isSome)

theorem row_mapped (f : RowF) (need : Need) (r : f.rep = 0) (h : ownEntry ((rowPaged [0x20FC00]).core 0) f 0 = 0x20FC00)
    (m : rowMapped (rowPaged [0x20FC00]) need = true) :
    RowsOnDevice (rowPaged [0x20FC00]) 0 f (fun _ => 0x20FC00) (fun v => v - 0x200000 + 0x20000) need := by
  simp only [rowMapped, List.all_eq_true, List.mem_range, Bool.and_eq_true, Bool.not_eq_true'] at m
  refine ⟨fun i hi => ?_, by rw [h], fun i b _ hb => ?_, fun i b _ hb _ => ?_, fun x hx => nomatch hx⟩
  · obtain rfl : i = 0 := by omega
    show ((0x20FC00 : Nat) : Int) = ((ownEntry ((rowPaged [0x20FC00]).core 0) f 0 % 2 ^ 48 : Nat) : Int) + _ * ((0 : Nat) : Int)
    rw [h]; simp
  · have e : 0x20FC00 + b - 0x200000 + 0x20000 = 0x2FC00 + b := by omega
    obtain ⟨⟨g, p⟩, sl⟩ := m b hb
    simp only [e]
    refine ⟨⟨by omega, by omega, sl, some dataLeaf, ok_of g, fun f e => ?_⟩, fun _ => p⟩
    obtain rfl := Option.some.inj e; decide +kernel
  · show 0x20FC00 + b + 1 - 0x200000 + 0x20000 = 0x20FC00 + b - 0x200000 + 0x20000 + 1
    omega

/-- The last row of a page loaded and stored; adds to an object of three bins. -/
theorem witness_RowMemory :
    let f : RowF := { fmt := 0x0A, d := 0x21001 }
    let g : RowF := { fmt := 0x0A, a := 0x21001 }
    let pa : Nat → Nat := fun v => v - 0x200000 + 0x20000
    let s := rowPaged [0x20FC00]
    (RowGo s 0 { op := 0x60, fmt := fmtOk, d := .dst, a := .none, b := .none, pops := 1 } f ∧ RowsOnDevice s 0 f (fun _ => 0x20FC00) pa .read ∧
      ∀ b, b < 1024 → NoRace (acquired s 0 f) 0 0 (pa (0x20FC00 + b)) 1) ∧
    (RowGo s 0 { op := 0x61, fmt := fmtOk, d := .none, a := .src, b := .none, pops := 1 } g ∧ RowsOnDevice s 0 g (fun _ => 0x20FC00) pa .write ∧
      ∀ b d, b < 1024 → d < 1024 → pa (0x20FC00 + b) = pa (0x20FC00 + d) → 0x20FC00 + b = 0x20FC00 + d) ∧
    (let s : State := { rowPaged [0x200000] with mem := base.mem.setNum 0x20000 16 (2 ^ 16 - 80 + 3 * 2 ^ 16) }
     RowGo s 0 { op := 0x58, fmt := isFloatFmt, d := .none, a := .src, b := .none, pops := 1 } g ∧
       (s.core 0).row.tags.get none (s.core 0).row.rd = none ∧ ∀ e ∈ exactAdds (s.core 0) g, ObjectHeld s 0 e.1 0x20000 3) := by
  intro f g pa s
  refine ⟨⟨row_goes _ _ _ rfl (by decide +kernel), row_mapped _ _ rfl (by decide +kernel) (by decide +kernel), fun b hb => ?_⟩,
    ⟨row_goes _ _ _ rfl (by decide +kernel), row_mapped _ _ rfl (by decide +kernel) (by decide +kernel), fun b d hb hd e => ?_⟩,
    row_goes _ _ _ rfl (by decide +kernel), by decide +kernel, fun e h => ?_⟩
  · exact no_race _ _ rfl (by decide +kernel)
  · simp only [pa] at e; omega
  · have m : ∀ e ∈ exactAdds ((rowPaged [0x200000]).core 0) g, e.1 = 0x200000 := by
      have : (exactAdds ((rowPaged [0x200000]).core 0) g).all (fun e => e.1 == 0x200000) = true := by decide +kernel
      simpa [List.all_eq_true] using this
    rw [m e h]
    refine ⟨by decide, by decide, by decide +kernel, ⟨some dataLeaf, ok_of (by decide +kernel), fun f e => ?_⟩, by decide +kernel,
      ⟨none_waits _ _ (by decide +kernel), none_waits _ _ (by decide +kernel)⟩, by decide +kernel⟩
    obtain rfl := Option.some.inj e; decide +kernel

theorem foldl_stays {α β : Type} {f : β → α → β} {z : β} {l : List α} (h : ∀ a ∈ l, f z a = z) : l.foldl f z = z := by
  induction l with
  | nil => rfl
  | cons a l ih => rw [List.foldl_cons, h a (by simp)]; exact ih fun b hb => h b (by simp [hb])

/-- No window holds a line of store log in any slice. -/
theorem no_log {s : State} (sl : Nat)
    (h : (s.cores.flatMap (·.2.tasks)).all (fun k => (k.win.map (·.2)).all (fun w => w.dlog.isEmpty && w.rlog.isEmpty)) = true) : s.sliceLog sl = 0 := by
  refine foldl_stays fun k hk => foldl_stays fun w hw => ?_
  have := List.all_eq_true.mp (List.all_eq_true.mp h k hk) w hw
  simp only [Bool.and_eq_true, List.isEmpty_iff] at this
  simp [this.1, this.2]

/-- The same stores, by a word that belongs to step 14 of an open window with an empty log. -/
theorem witness_RowMemory_window :
    let g : RowF := { fmt := 0x0A, a := 0x21001 }
    let pa : Nat → Nat := fun v => v - 0x200000 + 0x20000
    let s := (rowPaged [0x20FC00]).updCore 0 (fun k => { k with
      win := k.win.put {} 3 { open14 with rlog := [] }, row := { k.row with tags := k.row.tags.put none k.row.rd (some (3, 14)) } })
    RowStart s 0 { op := 0x61, fmt := fmtOk, d := .none, a := .src, b := .none, pops := 1 } g ∧
      rowTag s 0 = some (3, 14) ∧ ((s.core 0).window 3).lines = 0 ∧ (∀ sl, s.sliceLog sl = 0) ∧
      ∀ L : List Nat, L.Nodup → (∀ l ∈ L, ((s.core 0).window 3).stored l = false ∧ ∃ b, b < 1024 ∧ pa (0x20FC00 + b) / 128 = l) → L.length ≤ 8 := by
  intro g pa s
  refine ⟨?_, by decide +kernel, by decide +kernel, fun sl => no_log sl (by decide +kernel), fun L n h => ?_⟩
  · exact
      { cur := rfl, free := by decide +kernel, fresh := by decide +kernel, legal := by decide +kernel, await := by decide +kernel
        entries := by decide +kernel, room := by decide +kernel, reads := fun r _ => sound_row r (by decide +kernel) (by decide +kernel) (by decide +kernel)
        trailer := fun r _ => spad_readable _ _ (by decide +kernel) (by decide +kernel), preds := fun p _ => no_error _ _ _ (by decide +kernel)
        parts := .inr fun _ _ _ _ _ _ _ _ => no_error _ _ _ (by decide +kernel), logs := ⟨by decide +kernel, .inl (by decide +kernel)⟩
        aim := not_aimed _ (by decide +kernel) }
  · refine ((n.subperm (l₂ := List.range' (0x2FC00 / 128) 8)) fun l hl => ?_).length_le.trans (by simp)
    obtain ⟨-, b, hb, rfl⟩ := h l hl
    simp only [pa, List.mem_range'_1]
    omega

/-- A reserved opcode in each ring, and a row word with an address level that its opcode does not take. -/
theorem witness_IllFormedWords :
    (rowing []).c = 0 ∧ ((rowing []).cx 0 0).live = true ∧ ((rowing []).core 0).engineFree false = true ∧ ((rowing []).core 0).engineFree true = true ∧
      ((rowing []).core 0).row.word = none ∧ ((rowing []).core 0).mat.word = none ∧
      ∃ sp, RowAny ((rowing []).core 0) {} (.vadd {}) sp ∧ rowLegal ((rowing []).core 0) sp {} = false :=
  ⟨by decide +kernel, by decide +kernel, by decide +kernel, by decide +kernel, by decide +kernel, by decide +kernel,
    _, .inl (.inl ⟨_, .vadd⟩), by decide +kernel⟩

/-- Each fault: a bank that is off, a raise that is full, a shift past the row, an address off its line, a trailer of another format; and a word that waits for q0. -/
theorem witness_RowFaults :
    (let f : RowF := { fmt := 0x0A, d := 0x01000, a := 0x20001, b := 0x20801 }
     let s := rowingOf [] (fun k => { k with tbpwr := 0 })
     ∃ sp, RowFault (s.core 0) f (.vadd f) sp .tileBankOff 0 ∧ RowStart s 0 sp f ∧ (s.cx 0 0).live = true) ∧
    (let s := rowingOf [] (fun k => { k with sem := k.sem.put 0 4 65535 })
     ∃ sp, RowFault (s.core 0) traceWord (.vadd traceWord) sp .semOverflow 4 ∧ RowStart s 0 sp traceWord) ∧
    (let f : RowF := { fmt := 0x0A, d := 0x21001, a := 0x20001, b := 0x20801 }
     ∃ sp, RowFault ((rowing [257]).core 0) f (.vext f) sp .controlValue 257 ∧ RowStart (rowing [257]) 0 sp f) ∧
    (let f : RowF := { fmt := 0x0A, d := 0x21001 }
     ∃ sp, RowFault ((rowing [0x200001]).core 0) f (.vld f) sp .misaligned 0x200001 ∧ RowStart (rowing [0x200001]) 0 sp f) ∧
    (let f : RowF := { fmt := 0x0A, d := 0x20001, a := 0x21001, b := 0x00, rep := 3 }
     let s := rowingOf [] (fun k => { k with spad := k.spad.setNum (1024 * 33 + 9) 1 5 })
     ∃ sp, RowFault (s.core 0) f (.vqchk f) sp .trailerMismatch 32768 ∧ RowStart s 0 sp f) ∧
    (let f : RowF := { fmt := 0x0A, d := 0x21001 }
     ∃ sp, RowAny ((rowing []).core 0) f (.vld f) sp ∧ rowLegal ((rowing []).core 0) sp f = true ∧ ((rowing []).core 0).queue 0 = [] ∧ sp.pops = 1) := by
  refine ⟨⟨_, .bankOff _ _ 0 (.inl (.inl ⟨_, .vadd⟩)) (by decide +kernel), ?_, by decide +kernel⟩, ⟨_, .overflow _ _ (.inl ⟨_, .vadd⟩) (by decide +kernel) (by decide) (by decide +kernel), ?_⟩,
    ⟨_, .shift (by decide +kernel) (by decide +kernel), ?_⟩, ⟨_, .address (by decide +kernel) (by decide +kernel), ?_⟩,
    ⟨_, .tile 32 (by decide +kernel) (by decide +kernel) (.inr (by decide +kernel)), ?_⟩, ⟨_, .inr .vld, by decide +kernel, by decide +kernel, rfl⟩⟩
  all_goals exact row_starts _ _ _ rfl (by decide +kernel)

/-! ### Witnesses: matrix words -/

/-- The matrix engine of core 0 is to run a word. -/
def matting (f : Core → Core) : State := { (withCore (fun k => f { k with tbpwr := 0xAA, sem := k.sem.put 0 2 1 })) with cur := .mat 0 }

/-- What a check of a core and a matrix word says of the word's start, and of its course. -/
def begins (k : Core) (op : MatOp) (f : MatF) : Bool :=
  matLegal k op f && decide (f.mm1 < 64 ∧ f.nm1 < 64 ∧ f.acc < 4) && (f.aw == 31 || decide (0 < k.sem.get 0 f.aw)) && k.empty.isEmpty && k.rerr.isEmpty &&
    k.spoison.isEmpty && decide (k.einj < 2 ^ 31) && k.liveWins.isEmpty
def readies (k : Core) (op : MatOp) (f : MatF) : Bool :=
  begins k op f && (f.outctl != 2 || (List.range (outRows op f)).all (fun r => k.tbpwr / 4 ^ outBank f r % 4 != 0)) &&
    (f.rs == 31 || decide (k.sem.get 0 f.rs - (if f.aw = f.rs then 1 else 0) < 65535))

theorem mat_starts (s : State) (op : MatOp) (f : MatF) (h : begins (s.core 0) op f = true) : MatStart s 0 op f := by
  simp only [begins, Bool.and_eq_true, Bool.or_eq_true, beq_iff_eq, decide_eq_true_eq, List.isEmpty_iff] at h
  obtain ⟨⟨⟨⟨⟨⟨⟨h1, h2⟩, h3⟩, h4⟩, h5⟩, h7⟩, h8⟩, h9⟩ := h
  exact
    { legal := h1, fields := h2, await := fun n => h3.resolve_left n, readA := fun _ _ _ _ _ => spad_readable _ _ h4 h7
      readB := fun _ _ _ _ _ => spad_readable _ _ h4 h7, readIx := fun _ => spad_readable _ _ h4 h7, acc := fun _ p hp => by simp [h5] at hp
      parts := fun _ => .inr fun _ _ => no_error _ _ _ h5, logs := log_fits _ h9, aim := not_aimed _ h8 }

theorem mat_ready (s : State) (op : MatOp) (f : MatF) (h : readies (s.core 0) op f = true) : MatReady s 0 op f := by
  simp only [readies, Bool.and_eq_true, Bool.or_eq_true, bne_iff_ne, ne_eq, beq_iff_eq, decide_eq_true_eq, List.all_eq_true, List.mem_range] at h
  exact { mat_starts s op f h.1.1 with banks := fun e => h.1.2.resolve_left (fun n => n e), raise := fun n => h.2.resolve_left n }

/-- The product of the manual's dimensions with its store-out. -/
def mmulWord : MatF :=
  { afmt := 48, bfmt := 48, cfmt := 10, acc := 1, astr := 1, brow := 128, bstr := 1, mm1 := 63, nm1 := 63, km1 := 255, init := true
    outctl := 1, ofmt := 9, orow := 300, ostr := 1, aw := 2, rs := 3 }
/-- An exact product of one element over the old value 2^63 - 1, the largest. -/
def exactWord : MatF := { afmt := 48, bfmt := 48, cfmt := 3, astr := 1, brow := 128, bstr := 1, exact := true, sc := 20 }
def exactMat (one : Nat) : State := matting (fun k => { k with
  spad := (k.spad.setNum 0 1 one).setNum (1024 * 128) 1 one, acc := (k.acc.setNum 0 4 (2 ^ 32 - 1)).setNum 16384 4 (2 ^ 31 - 1)
  acctag := (k.acctag.put {} 0 { valid := true, kind := 2 }).put {} 1 { valid := true, kind := 2 } })
/-- A permutation of two rows; p is the second index. -/
def permWord : MatF := { afmt := 10, cfmt := 10, astr := 1, brow := 128, mm1 := 1, init := true }
def permMat (p : Nat) : State := matting (fun k => { k with spad := k.spad.setNum (1024 * 128 + 2) 2 p })

theorem witness_MatrixWords :
    (∃ m n r, MatForm ((matting id).core 0) mmulWord (.mmul mmulWord) .mmul m n r ∧ MatReady (matting id) 0 .mmul mmulWord ∧
      (matting id).cur = .mat 0 ∧ ((matting id).core 0).engineFree true = true ∧ ((matting id).core 0).mat.word = none) ∧
    (let s := exactMat 0
     ∃ m n r, MatForm (s.core 0) exactWord (.mmul exactWord) .mmul m n r ∧ MatReady s 0 .mmul exactWord ∧ (s.core 0).engineFree true = true) ∧
    (let s := permMat 1
     ∃ m n r, MatForm (s.core 0) permWord (.mperm permWord) .mperm m n r ∧ MatReady s 0 .mperm permWord) := by
  refine ⟨⟨_, _, _, .mmul rfl, mat_ready _ _ _ (by decide +kernel), rfl, by decide +kernel, by decide +kernel⟩,
    ⟨_, _, _, .mmulExact rfl ?_ ?_, mat_ready _ _ _ (by decide +kernel), by decide +kernel⟩,
    _, _, _, .mperm (by decide +kernel), mat_ready _ _ _ (by decide +kernel)⟩
  · intro i j x hi hj hx
    obtain rfl : i = 0 := Nat.le_zero.mp hi
    obtain rfl : j = 0 := Nat.le_zero.mp hj
    obtain rfl : x = 0 := Nat.le_zero.mp hx
    decide +kernel
  · intro i j x hi hj hx
    obtain rfl : i = 0 := Nat.le_zero.mp hi
    obtain rfl : j = 0 := Nat.le_zero.mp hj
    obtain rfl | rfl : x = 0 ∨ x = 1 := by have : x ≤ 1 := hx; omega
    all_goals decide +kernel

/-- The same product handed over by a copy. -/
theorem witness_FollowOnWords :
    let w := 0x10C302900014001FFF03FE00012658044300000000000000
    let s : State := { matting (fun k => { k with follow := [w] }) with cur := .event .followOnWord 0 0 }
    (∃ m n r, MatForm (s.core 0) mmulWord (.mmul mmulWord) .mmul m n r) ∧ MatReady s 0 .mmul mmulWord ∧ (s.core 0).phase = .running ∧
      (s.core 0).mat.halted = false ∧ (s.core 0).mat.word = none ∧ (s.core 0).followGo = false ∧ (s.core 0).follow = [w] ∧
      decodeMat w = .ok (.mmul mmulWord) :=
  ⟨⟨_, _, _, .mmul rfl⟩, mat_ready _ _ _ (by decide +kernel), by decide +kernel, by decide +kernel, by decide +kernel, by decide +kernel, by decide +kernel,
    by decide +kernel⟩

/-- A word with nothing set, an exact sum one past the range, an index one past the last row, and a raise that is full. -/
theorem witness_MatrixFaults :
    (∃ m n r, MatForm ((matting id).core 0) {} (.mmul {}) .mmul m n r ∧ matLegal ((matting id).core 0) .mmul {} = false) ∧
    (let s := exactMat 0x40
     MatFault (s.core 0) exactWord (.mmul exactWord) .mmul .exactRange 0 ∧ MatStart s 0 .mmul exactWord ∧ (s.core 0).engineFree true = true ∧
       (s.core 0).mat.word = none ∧ (s.cx 0 0).live = true) ∧
    (let s := permMat 2
     MatFault (s.core 0) permWord (.mperm permWord) .mperm .controlValue 2 ∧ MatStart s 0 .mperm permWord) ∧
    (let s := matting (fun k => { k with sem := k.sem.put 0 3 65535 })
     MatFault (s.core 0) { rs := 3 } (.mnop { rs := 3 }) .mnop .semOverflow 3 ∧ MatStart s 0 .mnop { rs := 3 }) := by
  refine ⟨⟨_, _, _, .mmul rfl, by decide +kernel⟩, ⟨.exact rfl 0 0 (by decide) (by decide) (.inr ⟨fun x hx => ?_, 1, by decide, ?_⟩), (mat_ready _ _ _ (by decide +kernel)).toMatStart,
      by decide +kernel, by decide +kernel, by decide +kernel⟩,
    ⟨.index 1 2 (by decide) (by decide +kernel) (by decide) (by decide +kernel), (mat_ready _ _ _ (by decide +kernel)).toMatStart⟩,
    .overflow (by decide) (by decide +kernel), mat_starts _ _ _ (by decide +kernel)⟩
  · obtain rfl : x = 0 := Nat.le_zero.mp hx
    decide +kernel
  · decide +kernel

/-! ### Witnesses: the sampler -/

/-- Sequence context 0 of core 0's cluster, which the probe task's item runs, with two slots. -/
def seq0 : Seq := { owner := some (0, 0, 0), st := 1, pc := 0x100, cand := [(0x3F800000, 3), (0x40000000, 5)], x := [(1, 0x3F800000)], k := [(1, 1024), (2, 5)] }
/-- The device with sequence context 0 as given, whose move it is. -/
def sampling (q : Seq) : State := { base.updSeq 0 (fun _ => q) with cur := .sampler 0 }

theorem one_above : AboveZero (valueOf F32 (seq0.x.get 0 1).toNat) := ⟨2 ^ 23, -23, by decide +kernel, by decide⟩
theorem seq0_clean : NoNan seq0 := by unfold NoNan; decide +kernel

/-- Each word that goes on, at an edge where there is one: the last address of the claim, a temperature and a threshold of 1, no candidate but minus infinity. -/
theorem witness_SamplerWords :
    let s := sampling seq0
    let q := seq0
    let k := s.core 0
    s.cur = .sampler 0 ∧ seqRuns s q = true ∧ q.reply = none ∧ s.seq 0 = q ∧ q.core = 0 ∧
    (∃ P, SampForm k q s.tick (.smpLdc 511 128) P) ∧ (∃ P, SampForm k q s.tick (.smpMask 2 1) P) ∧ (∃ P, SampForm k q s.tick (.smpTemp 1) P) ∧ (∃ P, SampForm k q s.tick (.smpTopk 1) P) ∧
    (∃ P, SampForm k q s.tick (.smpTopp 1) P) ∧ (∃ P, SampForm k q s.tick .smpNorm P) ∧ (∃ P, SampForm k { q with cand := [(0xFF800000, 1)] } s.tick .smpNorm P) ∧
    (∃ P, SampForm k q s.tick .smpGumb P) ∧ (∃ P, SampForm k q s.tick (.smpArgmax 1) P) ∧ (∃ P, SampForm k { q with cand := [] } s.tick (.smpArgmax 1) P) ∧
    (∃ P, SampForm k q s.tick (.smpAccept 3 1 2) P) ∧ (∃ P, SampForm k q s.tick (.smpStat 1) P) ∧ (∃ P, SampForm k q s.tick (.smpMovx 1 2) P) ∧ (∃ P, SampForm k q s.tick (.smpMovk 1 2) P) ∧
    (∃ P, SampForm k q s.tick (.smpLdx 1 0x7FFFC) P) ∧ (∃ P, SampForm k q s.tick (.smpLdk 1 0xFFFF) P) ∧ (∃ P, SampForm k q s.tick (.smpSeed 0x7FFF0) P) ∧
    (∃ P, SampForm k q s.tick (.smpPosadd 0xFFFF) P) ∧ (∃ P, SampForm k q s.tick .smpEndp P) ∧ (∃ P, SampForm k q s.tick (.smpEmit 1) P) := by
  have e : ((sampling seq0).core 0).empty = [] := by decide +kernel
  have load (a n : Nat) (h : a + n ≤ ((sampling seq0).core 0).spadLimit) : Loadable ((sampling seq0).core 0) a n :=
    ⟨h, fun l _ => by simp [Core.isEmpty, e, Store.get], by decide +kernel, by decide +kernel⟩
  exact ⟨rfl, by decide +kernel, rfl, by decide +kernel, rfl, ⟨_, .ldc _ _ (load _ _ (by decide +kernel))⟩, ⟨_, .mask _ _⟩, ⟨_, .temp _ seq0_clean one_above⟩, ⟨_, .topk _ seq0_clean⟩,
    ⟨_, .topp _ seq0_clean one_above (by decide +kernel) (by decide +kernel)⟩, ⟨_, .norm seq0_clean (by decide +kernel) (by decide +kernel)⟩,
    ⟨_, .normNone (by unfold NoNan; decide +kernel) (by decide +kernel)⟩, ⟨_, .gumb seq0_clean⟩,
    ⟨_, .argmax _ seq0_clean (0x40000000, 5) (by decide +kernel) (by decide +kernel) (by decide +kernel)⟩, ⟨_, .argmaxNone _ (by decide +kernel)⟩,
    ⟨_, .accept _ _ _ seq0_clean one_above _ rfl⟩, ⟨_, .stat _⟩, ⟨_, .movx _ _⟩, ⟨_, .movk _ _⟩, ⟨_, .ldx _ _ (load _ _ (by decide +kernel))⟩, ⟨_, .ldk _ _⟩,
    ⟨_, .seed _ (load _ _ (by decide +kernel))⟩, ⟨_, .posadd _⟩, ⟨_, .endp⟩, ⟨_, .emit _⟩⟩

/-- A NaN, a temperature of 0, an address past the claim, an empty line, a stall; starts at the last word of the claim and past it, with q7 at room for one and full; replies of status 0 and 2. -/
theorem witness_SamplerFlow :
    (let s := sampling { seq0 with cand := [(0x7FC00000, 3)] }
     seqRuns s (s.seq 0) = true ∧ SampHalt (s.core 0) (s.seq 0) (.smpTopk 1) 2 3) ∧
    (let s := sampling seq0
     SampHalt (s.core 0) (s.seq 0) (.smpTemp 0) 6 0x100 ∧ SampHalt (s.core 0) (s.seq 0) (.smpLdx 1 0x7FFFD) 5 0x100 ∧
       SampHalt (s.core 0) (s.seq 0) (.illformedSamplerWord 0) 5 0x100) ∧
    (let s := (sampling seq0).updCore 0 (fun k => { k with empty := k.empty.put false 4095 true })
     (linesOf 0x7FFFC 4).find? (s.core 0).isEmpty = some 4095) ∧
    (let s : State := { base.updSeq 0 (fun _ => { seq0 with emptyAt := some 5 }) with cur := .event .samplerStallTimeout 0 0 }
     seqRuns s (s.seq 0) = true ∧ (s.seq 0).reply = none ∧ (s.seq 0).emptyAt = some 5) ∧
    (let e : W64 := ofN 0x7FFFC
     let s (st n : Nat) : State := { (withCore (fun k => { k with q := (k.q.put [] 6 [e]).put [] 7 (List.replicate n 0) })).updSeq 0 (fun _ => { seq0 with st := st }) with
       cur := .event .samplerStart 0 0 }
     ∀ st, st < 3 → ∀ n, n < 5 → ((s st n).core 0).phase = .running ∧ ((s st n).core 0).queue 6 = [e] ∧ (((s st n).core 0).queue 7).length = n ∧
       e.toNat % 2 ^ 19 + 4 ≤ ((s st n).core 0).spadLimit ∧ ((s st n).core 0).cl.has (.seq 0) = true ∧ localSeq (s st n) 0 0 = 0 ∧ ((s st n).seq 0).st = st) ∧
    (let s : State := { base.updSeq 0 (fun _ => { seq0 with reply := some (2 * 2 ^ 32 + 3) }) with cur := .event .samplerReply 0 0 }
     (s.seq 0).reply = some (2 * 2 ^ 32 + 3) ∧ seqRuns s (s.seq 0) = true ∧ ((s.core 0).queue 7).length < 4 ∧
       ∀ p ∈ s.seqs, ¬(p.2.core = 0 ∧ seqRuns s p.2 = true ∧ p.2.reply ≠ none ∧ p.2.replyAt < (s.seq 0).replyAt)) ∧
    (let s : State := { (base.updSeq 0 (fun _ => { seq0 with reply := some 3, replyAt := 1 })).updSeq 1 (fun _ => { seq0 with reply := some 3 }) with cur := .event .samplerReply 0 0 }
     (s.seq 0).reply = some 3 ∧ seqRuns s (s.seq 0) = true ∧ ∃ p ∈ s.seqs, p.2.core = 0 ∧ seqRuns s p.2 = true ∧ p.2.reply ≠ none ∧ p.2.replyAt < (s.seq 0).replyAt) := by
  refine ⟨⟨by decide +kernel, .nan _ (.inl ⟨1, .inr (.inl rfl)⟩) (0x7FC00000, 3) (by decide +kernel)⟩,
    ⟨.temp _ seq0_clean fun ⟨m, e, h, n⟩ => ?_, .beyond _ _ (by decide +kernel), .illFormed _⟩, by decide +kernel, ⟨by decide +kernel, by decide +kernel, by decide +kernel⟩, by decide +kernel,
    ⟨by decide +kernel, by decide +kernel, by decide +kernel, by decide +kernel⟩, by decide +kernel⟩
  have z : valueOf F32 (((sampling seq0).seq 0).x.get 0 0).toNat = .num false 0 (-149) := by decide +kernel
  rw [z] at h
  exact n (Val.num.inj h).2.1.symm

/-! ### Witnesses: the device and the host -/

/-- Every row of the table of clock writes and steps: codes at both ends of the range and past it, a replay target of 10 000 and of 10 001; a cluster without an active core, one whose target has risen, and one without replays. -/
theorem witness_ClusterClocks :
    let e : Cluster := {}
    ∀ v,     (∃ f, ClockForm e 48 v 12 .cfreqWrite f) ∧ (∃ f, ClockForm e 48 v 60 .ccapWrite f) ∧ (∃ f, ClockForm e 48 v 11 .cfreqWrite f) ∧ (∃ f, ClockForm e 48 v 61 .ccapWrite f) ∧
    (∃ f, ClockForm e 48 v 10000 .replaytgtWrite f) ∧ (∃ f, ClockForm e 48 v 10001 .replaytgtWrite f) ∧ (∃ f, ClockForm e 49 v 0 .fllStep f) ∧
    (∃ f, ClockForm e 47 v 0 .fllStep f) ∧ (∃ f, ClockForm e 48 v 0 .fllStep f) ∧ (∃ f, ClockForm { e with replaytgt := 0 } 48 v 0 .ldoWindow f) ∧
    (∃ f, ClockForm { e with winReplays := 105 } 48 v 0 .ldoWindow f) ∧ (∃ f, ClockForm { e with winReplays := 104 } 48 v 0 .ldoWindow f) ∧
    (∃ f, ClockForm { e with replaytgt := 15625, winReplays := 16384 } 48 v 0 .ldoWindow f) ∧ (∃ f, ClockForm e 49 v 0 .ldoWindow f) ∧
    (∃ f, ClockForm e 48 v 0 .timingReplay f) ∧
    (∀ c, c / 8 = 0 → (base.core c).phase ≠ .running ∨ (base.core c).tk.gang = false) ∧
    (∀ c, c / 8 = 0 → ¬(c < 192 ∧ { base with coremap := 2 ^ 192 - 2 ^ 8 }.coremap.testBit c = true)) ∧
    (let s := base.updCluster 0 (fun e => { e with cfreq := 60 })
     (∃ c, c / 8 = 0 ∧ c < 192 ∧ s.coremap.testBit c = true) ∧ (s.cluster 0).cur < s.fllTarget 0) ∧
    (let s := base.updCluster 0 (fun e => { e with replaytgt := 0 })
     s.fllTarget 0 ≤ (s.cluster 0).cur ∧ (s.cluster 0).replaytgt = 0) := by
  intro e v
  refine ⟨⟨_, .cfreq (by unfold LegalCode; decide)⟩, ⟨_, .ccap (by unfold LegalCode; decide)⟩, ⟨_, .refused _ (.inl rfl) (by unfold LegalCode; decide)⟩,
    ⟨_, .refused _ (.inr rfl) (by unfold LegalCode; decide)⟩, ⟨_, .replaytgt (by decide)⟩,
    ⟨_, .replayRefused (by decide)⟩, ⟨_, .up (by decide)⟩, ⟨_, .down (by decide)⟩, ⟨_, .locked rfl⟩, ⟨_, .guardBand rfl rfl⟩, ⟨_, .raise rfl (by decide) (by decide)⟩,
    ⟨_, .lower rfl (by decide) (by decide)⟩, ⟨_, .met rfl (by decide) (by decide)⟩, ⟨_, .held (by decide)⟩, ⟨_, .replay⟩, fun c h => ?_, fun c h => ?_, ⟨⟨7, by decide +kernel⟩, by decide +kernel⟩, by decide +kernel⟩
  · have m : ∀ c, c < 8 → (base.core c).phase ≠ .running ∨ (base.core c).tk.gang = false := by decide +kernel
    exact m c (by omega)
  · have m : ∀ c, c < 8 → ¬((2 ^ 192 - 2 ^ 8 : Nat).testBit c = true) := by decide +kernel
    exact fun n => m c (by omega) n.2

/-- A stage of one byte whose digest is both parts of its signature. -/
def signedStage : Stage := { code := [1], r := ofBytesBE (sha512 [1]), s := ofBytesBE (sha512 [1]) }
/-- The key under which it verifies: the point whose first coordinate is the digest, less the base point. -/
def stageKey : Nat × Nat :=
  (0x15404d46b562c78fe7338b1eb9e22493b65198ca890d59fdab4b2733849774c7a401dd66f836a61fb0a08a0dafc7a3585c7f37e2aa1d18ec12b3a58c8232bad5ea6,
   0x77f2590e238888142c8015b81e66fe539c30d320198e4e08387c8fd668d48191ff4c29e762e90b5014840ceeca69201dab09e9799874e2e9d2f43b5fbd516ef52e)
theorem stage_verifies : (onCurve stageKey && ecdsaOk stageKey signedStage.code signedStage.r signedStage.s) = true := by decide +kernel

/-- Core 0 runs a task of interface 255, which is to restart, with or without an atomic of it under way at a peer. -/
def restarting (busy : Bool) : State := { (withCore (fun k => { k with task := some { probeTask with vi := 255 } })) with
  cur := .event .warmRestart 255 0, peerReqs := if busy then [{ cmd := { op := 2 } }] else [] }

/-- Boot states and keys of each clause: all slots revoked, none that verifies, the last slot alone; a gang-free core under test; an energy record with room. -/
theorem witness_Resets :
    (let s : State := { base with fuseRevoked := 15 }; s.fuseRevoked % 16 = 15) ∧
    (base.fuseRevoked % 16 ≠ 15 ∧ ∀ i, ¬Verifies base base.flash.stage1 i) ∧
    (let s : State := { base with fuseRevoked := 7, fuseKeys := [(3, stageKey)], flash := { stage1 := signedStage, kern := signedStage } }
     Verifies s s.flash.stage1 3 ∧ Verifies s s.flash.kern 3) ∧
    (base.boot = 1 ∧ { base with boot := 2, bootCause := 5 }.boot = 2) ∧
    (let s := restarting false; s.cur = .event .warmRestart 255 0 ∧ s.boot = 1 ∧ ∀ c ∈ s.coresOf 255, ∀ r ∈ s.peerReqs, r.core = c → r.acts = false) ∧
    (let s := restarting true
     s.cur = .event .warmRestart 255 0 ∧ TaskOf s 255 0 ∧ (∃ r ∈ s.peerReqs, r.core = 0 ∧ r.acts = true) ∧ (s.vi 255).restart = false ∧ (s.core 0).phase = .running) ∧
    (base.boot = 1 ∧ (∀ v ∈ base.interfaces, (base.vi v).restart = false) ∧ ∀ r ∈ base.peerReqs, r.acts = false) ∧
    EinjLegal base 0 (2 ^ 24 + 17407 * 2 ^ 4) ∧ ¬EinjLegal base 0 (2 ^ 24 + 17408 * 2 ^ 4) ∧ ¬EinjLegal { base with coremap := 1 } 191 (2 ^ 24) ∧
    (sliceOfPa (32 * 0x1000)).isSome = true ∧
    (let s : State := { base with cur := .event .infieldTest 0 0 }
     (∀ p ∈ s.cores, ∀ f, p.2.k.phase ≠ .ended f) ∧ s.coremap.testBit 0 = true ∧ (s.core 0).phase = .running ∧ (s.core 0).tk.gang = false ∧ (s.core 1).phase = .free) ∧
    (let s : State := { (base.updSlice 0 (fun e => { e with erecs := [{}] })).updVi 0 (fun e => { e with evcount := 3, erqdepth := 16 }) with
       cur := .event .energyRecordWrite 0 0, counters := base.counters.put 0 2 15 }
     s.boot = 1 ∧ (s.slice 0).erecs = [{}] ∧ (s.vi 0).erqdepth ≠ 0 ∧ 2 < (s.vi 0).evcount ∧
       ((s.counter ((s.vi 0).evbase + 2)).toNat + 2 ^ 64 - (s.vi 0).erqrd) % 2 ^ 64 < (s.vi 0).erqdepth ∧ Unarmed s ((s.vi 0).evbase + 2)) ∧
    (let s := windowed open14
     (s.core 0).tk.ctx = 1 ∧ (s.core 0).window 3 = open14 ∧ LogMet (s.core 0) 1 3 ∧ ¬LogMet (s.core 0) 0 3) ∧
    (let s := base.updPhys 0 (fun p => { p with saved := p.saved.put none 0 (some ((windowed open14).core 0)), sample2 := some (5, 7) })
     (s.phys 0).sample2 = some (5, 7) ∧ ∃ k, (s.phys 0).saved.get none 0 = some k ∧ LogMet k 1 3) := by
  have v := stage_verifies
  rw [Bool.and_eq_true] at v
  have last : ∀ j, j < 3 → ¬((7 : Nat).testBit j = false ∧ onCurve ((Store.get (0, 0) [(3, stageKey)] j)) = true ∧
      ecdsaOk (Store.get (0, 0) [(3, stageKey)] j) signedStage.code signedStage.r signedStage.s = true) := fun j h n => by
    have : (List.range 3).all (fun j => (7 : Nat).testBit j) = true := by decide
    have := List.all_eq_true.mp this j (List.mem_range.mpr h)
    rw [n.1] at this; cases this
  refine ⟨rfl, ⟨by decide +kernel, fun i h => ?_⟩, ⟨⟨by decide, ⟨rfl, v⟩, last⟩, ⟨by decide, ⟨rfl, v⟩, last⟩⟩, ⟨rfl, rfl⟩, ⟨rfl, by decide +kernel, by decide +kernel⟩,
    ⟨rfl, ⟨by decide +kernel, by decide +kernel, by decide +kernel, by decide +kernel⟩, by decide +kernel, by decide +kernel, by decide +kernel⟩, by decide +kernel,
    by unfold EinjLegal; decide +kernel, by unfold EinjLegal; decide +kernel, by unfold EinjLegal; decide +kernel, by decide +kernel,
    ⟨?_, by decide +kernel, by decide +kernel, by decide +kernel, by decide +kernel⟩, ⟨rfl, by decide +kernel, by decide +kernel, by decide +kernel, by decide +kernel, ⟨by decide +kernel, by decide +kernel⟩⟩,
    ⟨by decide +kernel, by decide +kernel, ⟨by decide +kernel, .inr ⟨by decide +kernel, by decide +kernel⟩⟩, fun n => ?_⟩,
    by decide +kernel, (windowed open14).core 0, by decide +kernel, by decide +kernel, .inr ⟨by decide +kernel, by decide +kernel⟩⟩
  · have z : onCurve (base.fuseKeys.get (0, 0) i) = true := h.2.1.2.1
    have n : onCurve (base.fuseKeys.get (0, 0) i) = false := by
      have e : base.fuseKeys = [] := by decide +kernel
      rw [e]; show onCurve (0, 0) = false; decide +kernel
    rw [n] at z; cases z
  · have m : base.cores.all (fun p => p.2.k.phase == .running) = true := by decide +kernel
    intro p hp f e
    have := List.all_eq_true.mp m p hp
    rw [beq_iff_eq, show p.2.k.phase = .ended f from e] at this
    cases this
  · have d : (((windowed open14).core 0).window 3).dlog = [] := by decide +kernel
    have c : ((windowed open14).core 0).tk.ctx = 1 := by decide +kernel
    rcases n.2 with ⟨e, m, -⟩ | ⟨m, -⟩
    · rw [d] at m; cases m
    · rw [c] at m; cases m

/-- Interface 0 with grants, and counters of its own from 0. -/
def granted (g : Vi → Vi) : State := base.updVi 0 (fun v => g { v with evcount := 64, grant := 1, pageQuota := 64, layQuota := 8, smpQuota := 8, ceiling := 3 })

/-- Register writes at their edges; the last counter and the one past it; a wait and a trigger that fire, a wait that is not yet met. -/
theorem witness_HostRegisters :
    let s := granted id
    let e := s.vi 0
    s.boot = 1 ∧ (∃ f, Bar0Form e 64 0x050 f) ∧ (∃ f, Bar0Form e 65536 0x058 f) ∧ (∃ f, Bar0Form e 16 0x058 f) ∧ (∃ f, Bar0Form e 8 0x058 f) ∧ (∃ f, Bar0Form e 16 0x060 f) ∧
    (∃ f, Bar0Form { e with run := true } 16 0x060 f) ∧ (∃ f, Bar0Form e 1 0x0B8 f) ∧ (∃ f, Bar0Form e 1 0x0C0 f) ∧ (∃ f, Bar0Form e 1 0x0D0 f) ∧
    (∃ f, Bar0Form e 0 0x0D8 f) ∧ (∃ f, Bar0Form e 16 0x0D8 f) ∧ (∃ f, Bar0Form e 1 0x0E0 f) ∧ (∃ f, Bar0Form e 1 0x0E8 f) ∧ (∃ f, Bar0Form e 1 0x0F0 f) ∧
    (∃ f, Bar0Form e 8 0x0F8 f) ∧ (∃ f, Bar0Form e 127 0x188 f) ∧ (∃ t, SvcForm s 1 0x103F0 t) ∧ (∃ t, SvcForm s 1 0x10038 t) ∧ (∃ t, SvcForm s 60 0x205C8 t) ∧
    (∃ t, SvcForm s 1 0x205E0 t) ∧ (∃ t, SvcForm s 1 0x32FC8 t) ∧ (∃ t, SvcForm s 1 0x402C0 t) ∧ 63 < e.evcount ∧ e.evcount ≤ 64 ∧ Unarmed s (e.evbase + 63) ∧
    (s.counter (e.evbase + 63)).toNat < 1 % 2 ^ 64 ∧ (let s : State := { s with blks := s.blks.put {} 63 { trigt := 1 } }; (s.counter 63).toNat < (s.blks.get {} 63).trigt) ∧
    (let s : State := { s with blks := s.blks.put {} 63 { waitArmed := true, waitThr := 5 } }
     s.evOwner 63 = some (0, 63) ∧ (s.blks.get {} 63).waitArmed = true ∧ (s.blks.get {} 63).trigArmed = false ∧ (s.blks.get {} 63).waitThr ≤ (s.counter 63 + ofN 5).toNat) ∧
    (let s : State := { s with blks := s.blks.put {} 63 { trigArmed := true, trigt := 5, trigact := 62 + 7 * 2 ^ 32 } }
     s.evOwner 63 = some (0, 63) ∧ (s.blks.get {} 63).trigArmed = true ∧ (s.blks.get {} 63).waitArmed = false ∧ (s.blks.get {} 63).trigt ≤ (s.counter 63 + ofN 5).toNat ∧
       62 ≠ 63 ∧ Unarmed s ((s.vi 0).evbase + (s.blks.get {} 63).trigact % 4096)) :=
  ⟨by decide +kernel, ⟨_, .pubbase (by decide +kernel)⟩, ⟨_, .pubdepth (by decide +kernel) 16 (by decide) (by decide) (by decide)⟩,
    ⟨_, .pubdepth (by decide +kernel) 4 (by decide) (by decide) (by decide)⟩,
    ⟨_, .badDepth (by intro n a b h; have : 2 ^ 4 ≤ 2 ^ n := Nat.pow_le_pow_right (by decide) a; omega)⟩, ⟨_, .statbase (by decide +kernel)⟩,
    ⟨_, .running _ rfl (.inr (.inr rfl))⟩, ⟨_, .attnonce 7 (by decide)⟩, ⟨_, .attaddr⟩, ⟨_, .erqbase⟩, ⟨_, .erqoff (by decide)⟩,
    ⟨_, .erqdepth 4 (by decide) (by decide) (by decide)⟩, ⟨_, .erqrd⟩, ⟨_, .erqlost⟩, ⟨_, .vistat⟩, ⟨_, .evmirbase⟩, ⟨_, .evvec⟩,
    ⟨_, .downcnt 15 (by decide)⟩, ⟨_, .readOnly 0 0x38 (by decide) (by decide)⟩, ⟨_, .ccap 23 (by decide) _ (.ccap (by unfold LegalCode; decide))⟩,
    ⟨_, .replaycnt 23 (by decide)⟩, ⟨_, .eunc 191 (by decide)⟩, ⟨_, .atommode 11 (by decide)⟩,
    by decide +kernel, by decide +kernel, ⟨by decide +kernel, by decide +kernel⟩, by decide +kernel, by decide +kernel, by decide +kernel,
    by decide +kernel, by decide +kernel, by decide +kernel, by decide +kernel, by decide, ⟨by decide +kernel, by decide +kernel⟩⟩

/-- Interface 0's ring with an entry at its read count, with n entries behind. -/
def published (n e : Nat) (g : Vi → Vi) : State :=
  let s := granted (fun v => g { v with run := true })
  { s with hostMem := base.hostMem.setNum 0 64 e, counters := base.counters.put 0 0 (ofN n) }

/-- A signed container of 480 bytes (11 R233 to R235): four claims, one loop nest over cores, and a signature whose two scalars are 1. -/
def container : Nat := 0x3a9ae6521643d10a4f8a3552eef9aa9cd2388c36d2719d73e676b174114503cdea4802d76f70f762eb0cc6098414ffaf1fbbf2236456961156817e6ebc82a6e400003a9ae6521643d10a4f8a3552eef9aa9cd2388c36d2719d73e676b174114503cdea4802d76f70f762eb0cc6098414ffaf1fbbf2236456961156817e6ebc82a6e4000000000000000000000000000000000000000000000000000000000000000000000000000400000001000000000001000000000000020000000000010000000000000000000000000000000000000000000000000000000001000000000000000b000000000000000000000000000000040000000000000009000000000000000000000000000200000000000000000002000000000000000000000000000000010000000000000001000000000000000000000000000000000000000000000000000000000000000000000000000000000000000000000120000000000000000000000000001000000000012000000000000001200000000000000120000000000000012000000000000000e000000001000000800000000400000001000001e00001474d4953594c
/-- The public key that verifies it. -/
def containerKey : Nat × Nat :=
  (0xf4c7cb89d0c4965150fc6125dc9558f5bc3be64a513b08949154637c2b9c6c024178b8b90a2219fd2eed8c115bdb38b340167932426714c18607f94bd98c34c2a3,
   0xd4f11aee15813fe4ef9bf185b59b87a8530f994d68c515d8fb24e1174e06403041c6142e91070420d2cf58a3631da8782700e111c07798518e64fa91bba057b338)
/-- Bytes as cells of memory from an address. -/
def placedAt (a : Nat) (bs : List Byte) : Memory := (bs.zipIdx.filter (·.1 != 0)).map (fun p => (a + p.2, p.1))
/-- The LOAD of the container at 0x1000 into slot 63 and context 1. -/
def loadEntry : Nat := 1 + 1 * 2 ^ 148 + 63 * 2 ^ 168 + 480 * 2 ^ 384 + 0x1000 * 2 ^ 448
/-- Interface 0 with that key and that entry. -/
def loading : State :=
  let s := published 16 loadEntry (fun v => { v with keys := v.keys.put {} 0 { key := some containerKey, revoked := false } })
  { s with hostMem := s.hostMem ++ placedAt 0x1000 (toBytes 480 container) }

theorem container_loads : (loading.load 0 loadEntry).1 = 0 := by decide +kernel

/-- A privileged command's entry: kind and arguments A0 to A6. -/
def cmd (kind : Nat) (a : List Nat) : Nat :=
  kind + a.getD 0 0 * 2 ^ 8 + a.getD 1 0 * 2 ^ 64 + a.getD 2 0 * 2 ^ 128 + a.getD 3 0 * 2 ^ 192 + a.getD 4 0 * 2 ^ 256 + a.getD 5 0 * 2 ^ 384 + a.getD 6 0 * 2 ^ 448
/-- Whether Porter may carry out an entry of a kind on interface 0. -/
def waits (s : State) (e kind : Nat) : Bool := s.boot == 1 && (s.vi 0).run && !(s.vi 0).restart && decide (0 < s.behind 0 ∧ s.behind 0 ≤ (s.vi 0).pubdepth ∧ (s.vi 0).taken = none) &&
  s.hostMem.num ((s.vi 0).pubbase + 64 * ((s.vi 0).pubrd % (s.vi 0).pubdepth)) 64 == e && e % 256 == kind
theorem entry_waits (s : State) (e kind : Nat) (h : waits s e kind = true) : EntryAt s 0 e kind := by
  simp only [waits, Bool.and_eq_true, Bool.not_eq_true', beq_iff_eq, decide_eq_true_eq] at h
  exact ⟨⟨h.1.1.1.1.1, h.1.1.1.1.2, h.1.1.1.2⟩, .inr ⟨h.1.1.2.2.2, h.1.1.2.1, h.1.1.2.2.1, h.1.2.symm⟩, h.2⟩

/-- An image in slot 63 of interface 0, with one loop nest of four items. -/
def image : Image := { st := 1, ctx := 1, claims := { priority := 3 }, recs := [{ levels := [{ kind := 1, trip := 4 }] }], coreSet := [0] }
/-- Interface 0 with that image and an entry for its slot. -/
def slotted (e : Nat) : State := published 16 (e + 63 * 2 ^ 168) (fun v => { v with slots := v.slots.put {} 63 image })

/-- A full ring's entries: none to do, reserved kinds, UNLOAD of an empty, a held and a used slot, LOAD that fails and one that succeeds, LAUNCH; and an overrun by one. -/
theorem witness_RingCommands :
    EntryAt (published 16 4 id) 0 4 4 ∧ EntryAt (published 1 0x19 id) 0 0x19 0x19 ∧ EntryAt (published 1 0 id) 0 0 0 ∧ EntryAt (published 1 5 id) 0 5 5 ∧
    (let s := published 16 (3 + 62 * 2 ^ 168) id
     EntryAt s 0 (3 + 62 * 2 ^ 168) 3 ∧ ((s.vi 0).slots.get {} (entrySlot (3 + 62 * 2 ^ 168))).st ≠ 1) ∧
    (let s := slotted 3
     EntryAt s 0 (3 + 63 * 2 ^ 168) 3 ∧ ((s.vi 0).slots.get {} 63).st = 1 ∧ (∀ l ∈ s.launches, ¬(l.vi = 0 ∧ l.slot = 63)) ∧
       let s : State := { s with launches := [{ slot := 63 }] }
       EntryAt s 0 (3 + 63 * 2 ^ 168) 3 ∧ ∃ l ∈ s.launches, l.vi = 0 ∧ l.slot = 63) ∧
    (let e := 2 + 3 * 2 ^ 166 + 63 * 2 ^ 168 + 63 * 2 ^ 180
     let s := slotted (2 + 3 * 2 ^ 166 + 63 * 2 ^ 180)
     EntryAt s 0 e 2 ∧ ∃ recs, LaunchOk s 0 e [] recs) ∧
    (let e := 2 + 62 * 2 ^ 168
     let s := published 16 e id
     EntryAt s 0 e 2 ∧ ((s.vi 0).slots.get {} (entrySlot e)).st ≠ 1) ∧
    (let s := published 17 4 id
     s.boot = 1 ∧ (s.vi 0).run = true ∧ (s.vi 0).taken = none ∧ (s.vi 0).pubdepth < s.behind 0) ∧
    (let e := 2 + 63 * 2 ^ 168 + 3 * 2 ^ 180
     let s : State := { slotted (2 + 3 * 2 ^ 180) with launches := List.replicate 16 { slot := 63 } }
     EntryAt (s.updVi 0 (fun w => { w with taken := some (e, none) })) 0 e 2 ∧ unfinished s 0 e = 16) ∧
    (let e := 2 + 3 * 2 ^ 166 + 63 * 2 ^ 168
     let s := (slotted (2 + 3 * 2 ^ 166)).updVi 0 (fun v => { v with slots := v.slots.put {} 63 { image with claims := { priority := 2 } } })
     EntryAt s 0 e 2 ∧ LaunchFails s 0 e 0xB ∧ unfinished s 0 e < 16) ∧
    (let e := 2 + 63 * 2 ^ 168 + 64 * 2 ^ 180
     EntryAt (slotted (2 + 64 * 2 ^ 180)) 0 e 2 ∧ LaunchFails (slotted (2 + 64 * 2 ^ 180)) 0 e 0xA) := by
  refine ⟨entry_waits _ _ _ (by decide +kernel), entry_waits _ _ _ (by decide +kernel), entry_waits _ _ _ (by decide +kernel), entry_waits _ _ _ (by decide +kernel),
    ⟨entry_waits _ _ _ (by decide +kernel), by decide +kernel⟩,
    ⟨entry_waits _ _ _ (by decide +kernel), by decide +kernel, by decide +kernel, entry_waits _ _ _ (by decide +kernel), ⟨_, List.mem_singleton.mpr rfl, rfl, rfl⟩⟩,
    ⟨entry_waits _ _ _ (by decide +kernel), [{ levels := [{ kind := 1, trip := 4 }] }],
      ⟨by decide +kernel, by decide +kernel, .inl ⟨by decide +kernel, rfl⟩, by decide +kernel, by decide +kernel, by decide +kernel, by decide +kernel, by decide +kernel, by decide +kernel⟩⟩,
    ⟨entry_waits _ _ _ (by decide +kernel), by decide +kernel⟩, by decide +kernel, ⟨⟨by decide +kernel, .inl (by decide +kernel), by decide⟩, by decide +kernel⟩,
    ⟨entry_waits _ _ _ (by decide +kernel), .prioceil (by decide +kernel) (by decide +kernel), by decide +kernel⟩,
    entry_waits _ _ _ (by decide +kernel), .badarg (by decide +kernel) (by decide +kernel) (.inr (.inr (by decide +kernel)))⟩

theorem found {α : Type} {o : Option α} (h : o.isSome = true) : ∃ x, o = some x := Option.isSome_iff_exists.mp h
theorem paired {p : Nat × State} (h : p.1 = 0) : ∃ b, p = (0, b) := ⟨p.2, Prod.ext h rfl⟩

/-- The same with no key, and with a signature of zeros. -/
def keyless : State := loading.updVi 0 (fun v => { v with keys := [] })
def unsigned : State := { loading with hostMem := loading.hostMem.filter (fun p => decide (p.1 < 0x1120)) }

/-- LOAD: no context, a slot in use, a length past 2^28, a page the host does not give, no key, a signature of zeros, and success. -/
theorem witness_RingCommands_load :
    (let e := 1 + 2 * 2 ^ 148; let s := published 16 e id; EntryAt s 0 e 1 ∧ LoadFails s 0 e 9) ∧
    (let e := 1 + 1 * 2 ^ 148 + 63 * 2 ^ 168; let s := slotted (1 + 1 * 2 ^ 148); EntryAt s 0 e 1 ∧ LoadFails s 0 e 5) ∧
    (let e := 0x10000001000000000000000000000000000000000000000000000000000000000010000000000000000000000000000000000001; let s := published 16 e id; EntryAt s 0 e 1 ∧ LoadFails s 0 e 7) ∧
    (let e := 0x10000000000000000008000000000000000000000000000000000000000000000000000000000010000000000000000000000000000000000001; let s : State := { published 16 e id with hostBad := [(1, 0)] }; EntryAt s 0 e 1 ∧ LoadFails s 0 e 8) ∧
    (EntryAt keyless 0 loadEntry 1 ∧ LoadFails keyless 0 loadEntry 3) ∧ (EntryAt unsigned 0 loadEntry 1 ∧ LoadFails unsigned 0 loadEntry 2) ∧
    EntryAt loading 0 loadEntry 1 ∧ ∃ b, loading.load 0 loadEntry = (0, b) := by
  have e1 : entryAddr loadEntry = 0x1000 := by decide +kernel
  have e2 : entryLen loadEntry = 480 := by decide +kernel
  refine ⟨⟨entry_waits _ _ _ (by decide +kernel), .badctx (.inl (by decide +kernel))⟩,
    ⟨entry_waits _ _ _ (by decide +kernel), .slotbusy ⟨by decide +kernel, by decide +kernel⟩ (by decide +kernel)⟩,
    ⟨entry_waits _ _ _ (by decide +kernel), .container ⟨by decide +kernel, by decide +kernel⟩ (by decide +kernel) (.inl (by decide +kernel))⟩,
    ⟨entry_waits _ _ _ (by decide +kernel), .addrfault ⟨by decide +kernel, by decide +kernel⟩ (by decide +kernel) (by decide +kernel) (by decide +kernel)⟩,
    ⟨entry_waits _ _ _ (by decide +kernel), ?_⟩, ⟨entry_waits _ _ _ (by decide +kernel), ?_⟩, entry_waits _ _ _ (by decide +kernel),
    paired container_loads⟩
  · obtain ⟨k, h⟩ : ∃ k, parseContainer (keyless.hostMem.part (entryAddr loadEntry) (entryLen loadEntry)) = some k :=
      Option.isSome_iff_exists.mp (by rw [e1, e2]; decide +kernel)
    exact .keyrevoked ⟨by decide +kernel, by decide +kernel⟩ (by decide +kernel) (by decide +kernel) (by decide +kernel) k h (.inr (by
      have e : (keyless.vi 0).keys = [] := by decide +kernel
      rw [e]; rfl))
  · have h : (parseContainer (unsigned.hostMem.part (entryAddr loadEntry) (entryLen loadEntry))).map (fun k => (k.keySlot, k.r)) = some (0, 0) := by
      rw [e1, e2]; decide +kernel
    obtain ⟨k, h, f⟩ := Option.map_eq_some_iff.mp h
    obtain ⟨f, g⟩ := Prod.mk.inj f
    refine .sigfail ⟨by decide +kernel, by decide +kernel⟩ (by decide +kernel) (by decide +kernel) (by decide +kernel) k containerKey h ?_ ?_
    · rw [f]; decide +kernel
    · rw [g]; simp [ecdsaOk]

theorem container_parses : (parseContainer (loading.hostMem.part (entryAddr loadEntry) (entryLen loadEntry))).isSome = true := by decide +kernel
/-- The container, and the cores that its claims take. -/
def loaded : Container := (parseContainer (loading.hostMem.part (entryAddr loadEntry) (entryLen loadEntry))).get container_parses
def loadedSet : List Nat :=
  ((List.range 192).filter (fun c => (loading.vi 0).grant.testBit c && loading.coremap.testBit c)).take (claimsOf loaded.claims).cores

theorem load_ok : LoadOk loading 0 loadEntry loaded loadedSet where
  ctx := ⟨by decide +kernel, by decide +kernel⟩
  free := by decide +kernel
  len := by decide +kernel
  reach := by decide +kernel
  parsed := (Option.some_get container_parses).symm
  signed := ⟨containerKey, by decide +kernel, by decide +kernel⟩
  cores := rfl
  legal := ⟨by decide +kernel, by decide +kernel⟩
  quota := by decide +kernel
  contexts := by decide +kernel

/-- The same device with other frames taken. -/
def crowded (fr : Store (Nat × Nat)) : State := { loading with frames := fr }
theorem crowded_ok (fr : Store (Nat × Nat)) : LoadOk (crowded fr) 0 loadEntry loaded loadedSet :=
  ⟨load_ok.ctx, load_ok.free, load_ok.len, load_ok.reach, load_ok.parsed, load_ok.signed, load_ok.cores, load_ok.legal, load_ok.quota, load_ok.contexts⟩

/-- n frames from frame a on, all of interface 0 and context 0. -/
def taken (a n : Nat) : Store (Nat × Nat) := (List.range' a n).map (fun i => (i, (1, 1)))
theorem taken_get (n : Nat) : ∀ a i, a ≤ i → i < a + n → (taken a n).get (0, 0) i = (1, 1) := by
  induction n with
  | zero => intro a i h1 h2; omega
  | succ n ih =>
    intro a i h1 h2
    show (if a = i then (1, 1) else (taken (a + 1) n).get (0, 0) i) = (1, 1)
    split
    · rfl
    · exact ih _ _ (by omega) (by omega)
theorem taken_above (n : Nat) : ∀ a b, b < a → Store.above b (taken a n) = true := by
  induction n with
  | zero => intros; rfl
  | succ n ih =>
    intro a b h
    show (decide (b < a) && Store.above b (taken (a + 1) n)) = true
    simp [h, ih (a + 1) b (by omega)]
theorem taken_wf (n : Nat) : ∀ a, Store.wf (0, 0) (taken a n) = true := by
  induction n with
  | zero => intros; rfl
  | succ n ih =>
    intro a
    show (decide (((1, 1) : Nat × Nat) ≠ (0, 0)) && Store.above a (taken (a + 1) n) && Store.wf (0, 0) (taken (a + 1) n)) = true
    simp [taken_above, ih]

theorem all_taken (n : Nat) : ∃ fr : Store (Nat × Nat), Store.wf (0, 0) fr = true ∧ ∀ i, i < n → fr.get (0, 0) i = (1, 1) :=
  ⟨taken 0 n, taken_wf n 0, fun i h => taken_get n 0 i (Nat.zero_le i) (by rwa [Nat.zero_add])⟩

/-- Where every frame of both tiers is taken, none is found. -/
theorem none_free (fr : Store (Nat × Nat)) (h : ∀ i, i < 2 ^ 25 → fr.get (0, 0) i = (1, 1)) : (crowded fr).takeAny 0 1 = none := by
  unfold State.takeAny
  rw [List.findSome?_eq_none_iff]
  intro u hu
  have lim : (tierFrames u.1 u.2).1 + (tierFrames u.1 u.2).2 ≤ 2 ^ 25 ∧ 0 < (tierFrames u.1 u.2).2 := by
    revert u
    decide +kernel
  simp only [State.takeFrame, Option.map_eq_none_iff, State.freeIn, List.find?_eq_none, List.mem_map]
  rintro f ⟨i, -, rfl⟩
  have := Nat.mod_lt ((crowded fr).allocHint + i) lim.2
  show ¬(fr.get (0, 0) ((tierFrames u.1 u.2).1 + ((crowded fr).allocHint + i) % (tierFrames u.1 u.2).2) == (0, 0)) = true
  rw [h _ (by omega)]
  decide

/-- A LOAD that is bound, and one for whose parameter page there is no frame; a LAUNCH of an image with a parameter page. -/
theorem witness_RingCommands_bound :
    (EntryAt loading 0 loadEntry 1 ∧ LoadOk loading 0 loadEntry loaded loadedSet ∧ Store.wf (0, 0) loading.frames = true ∧
      ∃ b, loading.bind 0 (entrySlot loadEntry) (entryCtx loadEntry) (loading.hostMem.part (entryAddr loadEntry) (entryLen loadEntry)) loaded loadedSet = some b) ∧
    (∃ fr, let s := crowded fr
     EntryAt s 0 loadEntry 1 ∧ LoadOk s 0 loadEntry loaded loadedSet ∧ Store.wf (0, 0) s.frames = true ∧
       s.bind 0 (entrySlot loadEntry) (entryCtx loadEntry) (s.hostMem.part (entryAddr loadEntry) (entryLen loadEntry)) loaded loadedSet = none) ∧
    (let im : Image := { image with paramVa := 0x30000, bound := [(0x30000, 9)] }
     im.bound.find? (fun p => p.1 == im.paramVa) = some (im.paramVa, 9)) := by
  have e : EntryAt loading 0 loadEntry 1 := entry_waits _ _ _ (by decide +kernel)
  obtain ⟨fr, wf, all⟩ := all_taken (2 ^ 25)
  refine ⟨⟨e, load_ok, by decide +kernel, found (by decide +kernel)⟩, ⟨fr, ⟨e.ready, e.entry, e.kind⟩, crowded_ok fr, wf, ?_⟩, by decide⟩
  have segs : loaded.segs = [] := by decide +kernel
  have ctx : entryCtx loadEntry = 1 := by decide +kernel
  simp only [State.bind, segs, State.bindSegs, State.bindPages, ctx, none_free fr all]

/-- Interface 0's ring with a privileged command at its read count. -/
def commanded (kind : Nat) (a : List Nat) (g : State → State) : State := g (published 16 (cmd kind a) id)
/-- The command is at the read count, and it is carried out. -/
def CarriedOut (i : Instr) (kind : Nat) (a : List Nat) (g : State → State) : Prop :=
  EntryAt (commanded kind a g) 0 (cmd kind a) kind ∧ ∃ b, CmdForm (commanded kind a g) (cmdArg (cmd kind a)) i kind b
/-- The command is at the read count, and it is refused. -/
def TurnedDown (i : Instr) (kind : Nat) (a : List Nat) (g : State → State) : Prop :=
  EntryAt (commanded kind a g) 0 (cmd kind a) kind ∧ CmdRefused (commanded kind a g) (cmdArg (cmd kind a)) i kind

/-- The key's 132 bytes at 0x2000 of host memory. -/
def keyBytes (s : State) : State := { s with hostMem := s.hostMem ++ placedAt 0x2000 (toBytes 66 containerKey.1 ++ toBytes 66 containerKey.2) }
/-- The context with a host page at 0x30_0000 beside its own. -/
def hostPage (s : State) : State := tabled 256 0xB9 (2 ^ 20) s
/-- Frame 2 belongs to interface 0. -/
def ownFrame (s : State) : State := { s with frames := s.frames.put (0, 0) 2 (1, 0) }

theorem carried {i : Instr} {kind : Nat} {a : List Nat} {g : State → State} {b : State} (w : waits (commanded kind a g) (cmd kind a) kind = true)
    (f : CmdForm (commanded kind a g) (cmdArg (cmd kind a)) i kind b) : CarriedOut i kind a g := ⟨entry_waits _ _ _ w, b, f⟩

/-- Each privileged command at the last value of its fields: grants and keys. -/
theorem witness_RingCommands_interfaces :
    CarriedOut .viset 0x10 [255, 2, 0, 0, 4095 + 2 ^ 16 + 3 * 2 ^ 32, 1, 1] id ∧ CarriedOut .vireset 0x18 [255] id ∧
    CarriedOut .keyset 0x11 [255 + 7 * 2 ^ 8 + 2 ^ 16] id ∧ CarriedOut .keyset 0x11 [255 + 7 * 2 ^ 8 + 2 ^ 17] id ∧
    CarriedOut .keyset 0x11 [255 + 7 * 2 ^ 8, 0x2000] keyBytes := by
  refine ⟨carried (by decide +kernel) (CmdForm.viset 255 2 4095 1 ?_ ?_ ?_ ?_ ?_ ?_ ?_ ?_ ?_), carried (by decide +kernel) (.vireset ?_ ?_ ?_),
    carried (by decide +kernel) (.keyRevoke ?_ ?_), carried (by decide +kernel) (.keyClear ?_ ?_), carried (by decide +kernel) (.keyWrite containerKey ?_ ?_ ?_ ?_ ?_)⟩
  all_goals decide +kernel

/-- Contexts: the last id with the last PASID, and the probe's context, of which no image is left. -/
theorem witness_RingCommands_contexts :
    CarriedOut .ctxnew 0x12 [255, 4095, 2 ^ 20 - 1] id ∧ CarriedOut .ctxfree 0x13 [0, 1] id := by
  obtain ⟨⟨f, t⟩, h⟩ : ∃ p, (commanded 0x12 [255, 4095, 2 ^ 20 - 1] id).newTable 4095 [] = some p := found (by decide +kernel)
  refine ⟨carried (by decide +kernel) (.ctxnew f t ?_ ?_ ?_ h), carried (by decide +kernel) (.ctxfree _ ?_ ?_ ?_ ?_ rfl)⟩
  all_goals decide +kernel

/-- Peers, routes and clocks. -/
theorem witness_RingCommands_links :
    CarriedOut .peerset 0x14 [255, 63, 0xFFE + 2 ^ 26] id ∧ CarriedOut .routeset 0x15 [2 ^ 55 + 0xFFE, 0xFFE, 15] id ∧
    CarriedOut .routeset 0x15 [0, 0, 0xFF] id ∧ CarriedOut .clockset 0x16 [23, 60, 10000] id := by
  refine ⟨carried (by decide +kernel) (.peerset ?_ ?_ ?_ ?_), carried (by decide +kernel) (.routeset true ?_ ?_ ?_ ?_),
    carried (by decide +kernel) (.routeset false ?_ ?_ ?_ ?_), carried (by decide +kernel) (.clockset ?_ _ _ (.cfreq ?_) ?_ (.replaytgt ?_) ?_)⟩
  all_goals (try unfold LegalCode)
  all_goals decide +kernel

/-- Pages: a removal that finds no leaf, one that finds a host page, and the last page of the address space. -/
theorem witness_RingCommands_pages :
    CarriedOut .mapPage 0x17 [1, 0x300000, 2 ^ 7] id ∧ CarriedOut .mapPage 0x17 [1, 0x300000, 2 ^ 7] hostPage ∧
    CarriedOut .mapPage 0x17 [1, 2 ^ 48 - 65536, 0xB5 + 0x20000] ownFrame := by
  obtain ⟨t, h⟩ : ∃ t, (commanded 0x17 [1, 2 ^ 48 - 65536, 0xB5 + 0x20000] ownFrame).addLeaf 1 { va := 2 ^ 48 - 65536, size := 1, pte := 0xB5 + 0x20000 } = some t :=
    found (by decide +kernel)
  refine ⟨carried (by decide +kernel) (.unmap 1 0x300000 ?_ ?_ ?_ ?_ ?_ ?_ ?_ ?_ ?_),
    carried (by decide +kernel) (.unmapLeaf { va := 0x300000, size := 1, pte := 0xB9 } 0x300000 ?_ ?_ ?_ ?_ ?_ ?_ ?_ ?_ ?_ ?_ _ rfl ?_),
    carried (by decide +kernel) (.map t 1 (2 ^ 48 - 65536) ?_ ?_ ?_ ?_ ?_ ?_ ?_ ?_ ?_ h)⟩
  all_goals decide +kernel

/-- Each refused at the first value past its fields. -/
theorem witness_RingCommands_refused :
    TurnedDown .viset 0x10 [256] id ∧ TurnedDown .viset 0x10 [255, 2, 0, 0, 4095 + 2 * 2 ^ 16] id ∧ TurnedDown .keyset 0x11 [3 * 2 ^ 16] id ∧ TurnedDown .ctxnew 0x12 [256, 4095] id ∧
    TurnedDown .ctxnew 0x12 [255, 4096] id ∧ TurnedDown .ctxfree 0x13 [0, 4096] id ∧ TurnedDown .peerset 0x14 [255, 64] id ∧ TurnedDown .routeset 0x15 [2 ^ 55 + 0xFFF] id ∧
    TurnedDown .routeset 0x15 [0, 0, 16] id ∧ TurnedDown .clockset 0x16 [24, 60, 0] id ∧ TurnedDown .mapPage 0x17 [1, 2 ^ 48] id ∧ TurnedDown .vireset 0x18 [0] id ∧
    TurnedDown .vireset 0x18 [256] id :=
  ⟨⟨entry_waits _ _ _ (by decide +kernel), .viset (by decide +kernel)⟩, ⟨entry_waits _ _ _ (by decide +kernel), .viset (by decide +kernel)⟩,
    ⟨entry_waits _ _ _ (by decide +kernel), .keyset (by decide +kernel) (by decide +kernel)⟩, ⟨entry_waits _ _ _ (by decide +kernel), .ctxnew (by decide +kernel)⟩,
    ⟨entry_waits _ _ _ (by decide +kernel), .ctxnew (by decide +kernel)⟩, ⟨entry_waits _ _ _ (by decide +kernel), .ctxfree (by decide +kernel)⟩,
    ⟨entry_waits _ _ _ (by decide +kernel), .peerset (by decide +kernel)⟩, ⟨entry_waits _ _ _ (by decide +kernel), .routeset (by decide +kernel)⟩,
    ⟨entry_waits _ _ _ (by decide +kernel), .routeset (by decide +kernel)⟩, ⟨entry_waits _ _ _ (by decide +kernel), .clockset (by decide +kernel)⟩,
    ⟨entry_waits _ _ _ (by decide +kernel), .mapPage (by decide +kernel)⟩, ⟨entry_waits _ _ _ (by decide +kernel), .vireset (by decide +kernel)⟩,
    ⟨entry_waits _ _ _ (by decide +kernel), .vireset (by decide +kernel)⟩⟩

/-! ### Witnesses: links, translation and waits -/

/-- Device 5 with port 0 up, a route to device 7 through it and one to device 9 through port 1, and the data page granted to peers. -/
def linked : State :=
  { tabled 0 (0xB5 + 2 ^ 11 + 0x20000) 0x1000 (base.updPort 0 (fun p => { p with state := 2 })) with
    devid := 5, route := (base.route.put 0 7 1).put 0 9 2 }
/-- A flit of a type and SEQ from device 7 with its CRC: destination, time to live, valid slots, data flag, slots and data. -/
def flitOf (kind seq dst ttl valid datav : Nat) (slots : List Nat) (data : Nat) : Flit :=
  let f : Flit := { hdr := kind + dst * 2 ^ 8 + 7 * 2 ^ 20 + seq * 2 ^ 32 + valid * 2 ^ 59 + datav * 2 ^ 65 + ttl * 2 ^ 82, slots := slots, data := data }
  { f with crc := Config.crc64 (flitBody f) }
/-- A traffic flit that is next in order. -/
def flit (dst ttl valid datav : Nat) (slots : List Nat) (data : Nat) : Flit := flitOf 1 0 dst ttl valid datav slots data

/-- The flit has its CRC, is of a type, and a traffic flit is or is not the next. -/
def Comes (f : Flit) (kind : Nat) (next : Bool) : Prop :=
  f.crc = Config.crc64 (flitBody f) ∧ f.hdr % 256 = kind ∧ (seqOf f == ((linked.port 0).rxseq + 1) % 4096) = next

theorem flit_crc (kind seq dst ttl valid datav : Nat) (l : List Nat) (x : Nat) :
    (flitOf kind seq dst ttl valid datav l x).crc = Config.crc64 (flitBody (flitOf kind seq dst ttl valid datav l x)) := rfl
theorem crc_bad (f : Flit) (h : f.crc = Config.crc64 (flitBody f)) : { f with crc := f.crc + 1 }.crc ≠ Config.crc64 (flitBody { f with crc := f.crc + 1 }) := by
  show f.crc + 1 ≠ Config.crc64 (flitBody f)
  omega

/-- A port that is not up; on one that is, a bad CRC, each type of flit, one out of order, and legal ones and one with no data. -/
theorem witness_Links_flits :
    (base.port 0).state ≠ 2 ∧ (linked.port 0).state = 2 ∧
    (let f := flit 5 1 63 1 [5, 5, 5, 5, 5, 5] 0
     { f with crc := f.crc + 1 }.crc ≠ Config.crc64 (flitBody { f with crc := f.crc + 1 }) ∧ Comes f 1 true ∧ LegalFlit f) ∧
    (Comes (flit 9 2 1 0 [1] 0) 1 true ∧ LegalFlit (flit 9 2 1 0 [1] 0)) ∧ (Comes (flit 5 1 1 0 [2] 0) 1 true ∧ ¬LegalFlit (flit 5 1 1 0 [2] 0)) ∧
    Comes (flitOf 1 1 5 1 1 0 [1] 0) 1 false ∧ Comes (flitOf 2 0 9 1 0 0 [] 0) 2 true ∧ Comes (flitOf 3 0 5 31 0 0 [] 0) 3 true ∧
    Comes (flitOf 4 7 5 31 0 0 [] 0) 4 false ∧ Comes (flitOf 0 0 5 31 0 0 [] 0) 0 true ∧ Comes (flitOf 255 0 5 31 0 0 [] 0) 255 true := by
  have six : ∀ i, i < 6 → (flit 5 1 63 1 [5, 5, 5, 5, 5, 5] 0).slots.getD i 0 % 256 ∉ [0x02, 0x08] := by decide +kernel
  have one : ∀ i, i < 6 → (flit 9 2 1 0 [1] 0).slots.getD i 0 % 256 ∉ [0x02, 0x08] := by decide +kernel
  have comes (kind seq dst ttl valid datav : Nat) (l : List Nat) (x : Nat) (n : Bool) (h : ((flitOf kind seq dst ttl valid datav l x).hdr % 256 == kind &&
      ((seqOf (flitOf kind seq dst ttl valid datav l x) == ((linked.port 0).rxseq + 1) % 4096) == n)) = true) :
      Comes (flitOf kind seq dst ttl valid datav l x) kind n := by
    rw [Bool.and_eq_true, beq_iff_eq, beq_iff_eq] at h; exact ⟨rfl, h⟩
  refine ⟨by decide +kernel, by decide +kernel,
    ⟨crc_bad _ (flit_crc _ _ _ _ _ _ _ _), comes _ _ _ _ _ _ _ _ _ (by decide +kernel), ⟨by decide +kernel, fun i _ hi _ _ _ _ m => absurd m (six i hi)⟩⟩,
    ⟨comes _ _ _ _ _ _ _ _ _ (by decide +kernel), ⟨by decide +kernel, fun i _ hi _ _ _ _ m => absurd m (one i hi)⟩⟩,
    ⟨comes _ _ _ _ _ _ _ _ _ (by decide +kernel), fun l => ?_⟩, comes _ _ _ _ _ _ _ _ _ (by decide +kernel), comes _ _ _ _ _ _ _ _ _ (by decide +kernel),
    comes _ _ _ _ _ _ _ _ _ (by decide +kernel), comes _ _ _ _ _ _ _ _ _ (by decide +kernel), comes _ _ _ _ _ _ _ _ _ (by decide +kernel),
    comes _ _ _ _ _ _ _ _ _ (by decide +kernel)⟩
  exact absurd ((l.each 0 (by decide) (by decide +kernel)).2.2.2 (by decide +kernel)) (by decide +kernel)

/-- Port 0 with two flits that are not yet acknowledged. -/
def replaying (n : Nat) : State :=
  { linked.updPort 0 (fun p => { p with rpseq := 3, rpcount := n, unacked := [flitOf 1 2 7 9 0 0 [] 0, flitOf 1 3 7 9 0 0 [] 0] }) with cur := .event .replayRequest 0 3 }

/-- A port in each state of its training; the eighth replay and the one after it; a request that never left, and one on a port that is up and on one that is down. -/
theorem witness_Links_ports :
    (base.port 0).state = 0 ∧ ((base.updPort 0 (fun p => { p with state := 1 })).port 0).state = 1 ∧ 2 ≤ (linked.port 0).state ∧
    (let s := replaying 8; (s.port 0).state = 2 ∧ (s.port 0).rpseq = 3 ∧ 8 ≤ (s.port 0).rpcount) ∧
    (let s := replaying 7
     (s.port 0).state = 2 ∧ ¬((s.port 0).rpseq = 3 ∧ 8 ≤ (s.port 0).rpcount) ∧ (s.port 0).unacked = [flitOf 1 2 7 9 0 0 [] 0] ++ [flitOf 1 3 7 9 0 0 [] 0] ∧
       seqOf (flitOf 1 2 7 9 0 0 [] 0) ≠ 3 ∧ seqOf (flitOf 1 3 7 9 0 0 [] 0) = 3) ∧
    (∀ n, n < 3 → let q : PeerReq := { tag := 65535, dev := 9, port := n }
     let s : State := { linked with cur := .event .peerLinkDown 65535 0, peerReqs := [q] }
     s.peerReqs = [] ++ q :: [] ∧ q.res = .open ∧ q.port = n ∧ (s.port 0).state = 2 ∧ (s.port 1).state = 0) := by
  refine ⟨by decide +kernel, by decide +kernel, by decide +kernel, by decide +kernel, ⟨by decide +kernel, by decide +kernel, rfl, by decide +kernel, by decide +kernel⟩, ?_⟩
  intro n _
  have up : (linked.port 0).state = 2 ∧ (linked.port 1).state = 0 := by decide +kernel
  exact ⟨rfl, rfl, rfl, up⟩

/-- A replay request for a flit that the port keeps and for one that it does not; an access that has added at a peer before its link went down; requests of device 7 that are kept and wait on a port that is down. -/
theorem witness_Links_passed :
    (let s := replaying 0
     (∃ g ∈ (s.port 0).unacked, seqOf g = 3) ∧ ∀ g ∈ (s.port 0).unacked, seqOf g ≠ 4) ∧
    (let q : PeerReq := { tag := 65535, dev := 9, port := 2, cmd := { op := 1 } }
     let r : PeerReq := { dev := 9, port := 2, cmd := { op := 3, fn := 1, data := 1 }, res := .data 0 }
     let s : State := { linked with cur := .event .peerLinkDown 65535 0, peerReqs := [q, r] }
     (s.port 1).state = 0 ∧ ∃ x ∈ s.peerReqs, x.core = q.core ∧ x.agent = q.agent ∧ Acted x) ∧
    (let f := flitOf 1 2 9 5 1 0 [1] 0
     let s : State := { linked with ports := [(1, { unacked := [f], waiting := [f] })], cur := .event .peerLinkDown 0 2 }
     (s.port 1).state = 0 ∧ (s.port 1).unacked ++ (s.port 1).waiting = [] ++ f :: [f] ∧ PassesOn s.devid f) := by
  refine ⟨by decide +kernel, ⟨by decide +kernel, _, List.mem_cons_of_mem _ (List.mem_singleton.mpr rfl), rfl, rfl, by decide, 0, rfl, fun _ => ⟨nofun, fun _ => by decide⟩⟩,
    rfl, rfl, by decide +kernel, ?_, ?_⟩
  · show validSlots (flitOf 1 2 9 5 1 0 [1] 0) ≠ []
    decide +kernel
  · show ∀ i ∈ validSlots (flitOf 1 2 9 5 1 0 [1] 0), (commandOf (flitOf 1 2 9 5 1 0 [1] 0) i).op < 8
    decide +kernel

/-- The last eight bytes of the page, for each operation of a peer; an object of three bins at its start; counter 63; a read that goes on into the next line and ends there. -/
theorem witness_Links_commands :
    let s : State := { linked.updVi 0 (fun v => { v with evcount := 64 }) with mem := base.mem.setNum 0x20000 16 (2 ^ 16 - 80 + 3 * 2 ^ 16) }
    let c : PeerCmd := { op := 1, src := 7, ctx := 1, paddr := 0x2FFF8, len := 8 }
    (∃ u r d, PeerForm s c .peerRead 1 u r d) ∧ (∃ u r d, PeerForm s c .peerWrite 2 u r d) ∧ (∃ u r d, PeerForm s { c with fn := 1 } .peerAtomic 3 u r d) ∧
    (∃ u r d, PeerForm s { c with fn := 5 } .peerAtomic 3 u r d) ∧ (∃ u r d, PeerForm s { c with fn := 5, data := 2 ^ 64 } .peerAtomic 3 u r d) ∧
    (∃ u r d, PeerForm s { c with fn := 21 } .peerAtomic 3 u r d) ∧ (∃ u r d, PeerForm s { c with paddr := 0x20000 } .exactAccumulate 4 u r d) ∧
    (∃ u r d, PeerForm s { c with paddr := 63 } .eventCounterAdd 5 u r d) ∧
    PeerRefused s { c with len := 16 } .peerRead 1 ∧ PeerRefused s { c with ctx := 2 } .peerWrite 2 ∧ PeerRefused s { c with fn := 22 } .peerAtomic 3 ∧
    PeerRefused s c .exactAccumulate 4 ∧ PeerRefused { s with mpoison := [(0x1000, true)] } { c with paddr := 0x20000 } .exactAccumulate 4 ∧
    PeerRefused s { c with paddr := 64 } .eventCounterAdd 5 ∧ (∃ e, ResponseForm c .readResponse 8 e) ∧ (∃ e, ResponseForm c .errorResponse 0x0F e) ∧
    (let d : PeerCmd := { c with paddr := 0x2FF78, len := 128 }; OneRead d [c] ∧ Alone ([c].getLastD d) [{ c with src := 8, paddr := 0x30000 }]) ∧
    ([7] : List Byte) ≠ [] ∧ 8 * hostWords - 1 + [(7 : Byte)].length ≤ 8 * hostWords := by
  intro s c
  have may (pa n : Nat) (h : decide (0x20000 ≤ pa) && decide (pa + n ≤ 0x30000) && (sliceOfPa pa).isSome = true) : PeerMay s 1 pa n := by
    simp only [Bool.and_eq_true, decide_eq_true_eq] at h
    exact ⟨by decide +kernel, h.2, { dataLeaf with pte := 0xB5 + 2 ^ 11 + 0x20000 }, by decide +kernel, by decide, by decide, h.1.1, h.1.2⟩
  have clean (pa n : Nat) : Clean s pa n := fun i _ _ => by show Store.get false [] i = false; rfl
  refine ⟨⟨_, _, _, .read (may _ _ (by decide +kernel)) (clean _ _)⟩, ⟨_, _, _, .write _ (may _ _ (by decide +kernel)) rfl⟩,
    ⟨_, _, _, .atomic 0 8 _ _ .add (by decide) (by decide) (by decide) (may _ _ (by decide +kernel)) (clean _ _) rfl⟩,
    ⟨_, _, _, .swapped 8 _ (by decide) (by decide) (by decide) (may _ _ (by decide +kernel)) (clean _ _) (by decide +kernel) rfl⟩,
    ⟨_, _, _, .kept 8 (by decide) (by decide) (by decide) (may _ _ (by decide +kernel)) (clean _ _) (by decide +kernel)⟩,
    ⟨_, _, _, .fadd 8 _ (by decide) (by decide) (by decide) (may _ _ (by decide +kernel)) (clean _ _) rfl⟩,
    ⟨_, _, _, .exact 3 _ (by decide) (by decide) (by decide +kernel) (may _ _ (by decide +kernel)) (clean _ _) rfl⟩,
    ⟨_, _, _, .count _ (by decide +kernel) (by decide +kernel) rfl ⟨by decide +kernel, by decide +kernel⟩⟩,
    .read (.inl fun m => ?_), .write fun m => ?_, .atomic 4 (by decide) (.inl (by decide)), .notObject (.inr (by decide +kernel)),
    .object 3 (by decide +kernel) (.inr (.inr fun m => ?_)), .counter (.inr (by decide +kernel)), ⟨_, .read⟩, ⟨_, .error⟩,
    ⟨.cons _ _ _ ⟨rfl, rfl, rfl, rfl⟩ (.nil _), fun d l e g => ?_⟩, by decide, by decide⟩
  · obtain ⟨_, _, l, h, _, _, _, e⟩ := m
    have a : ∀ l ∈ s.leaves 1, ¬(0x2FFF8 + 16 ≤ l.pte / 2 ^ 12 % 2 ^ 32 * 4096 + leafBytes l.size) := by decide +kernel
    exact a l h e
  · exact absurd m.1 (by decide +kernel)
  · have := m 0x1000 (by decide) (by decide)
    exact absurd this (by decide +kernel)
  · obtain ⟨rfl, -⟩ := List.cons.inj e
    exact absurd g.2.1 (by decide)

/-- A walk to end, a request denied and one that is granted, a page request answered with Success and with a failure that a context waits on, and an invalidation with and without a copy in flight. -/
theorem witness_HostTranslation :
    (let s : State := { base with walks := [{ core := 191, cache := 2, ctx := 1, leaf := dataLeaf }], cur := .event .tableWalk 0 0 }
     ∃ w, s.walks[0]? = some w ∧ s.cur = .event .tableWalk 0 0) ∧
    (let q : AtsReq := { pasid := 3, page := 4096, write := true, st := 4 }
     let s : State := { base with atsReqs := [q] }
     q ∈ s.atsReqs ∧ (q.pasid = 3 ∧ q.page = 4096 ∧ (q.st = 0 ∨ q.st = 4)) ∧ ((q.write = true ∧ true = true) ∨ (q.write = false ∧ false = true)) ∧
       ¬((q.write = true ∧ false = true) ∨ (q.write = false ∧ true = true))) ∧
    (let q : AtsReq := { pasid := 0, page := 4096, st := 2 }
     let s : State := { (withCore (fun k => { k with
       cx := k.cx.upd {} 0 (fun x => { x with wait := .fault .hostNotPresent 8190 0x10000 8191 }), row := { k.row with held := some (.hostNotPresent, 4096) }
       chan := k.chan.put {} 15 { stopped := some (.hostNotPresent, 8191), recorded := true } })) with atsReqs := [q], cur := .event .priTimeout 0 4096 }
     (∃ q ∈ s.atsReqs, q.pasid = 0 ∧ q.page = 4096 ∧ q.st = 2) ∧ (s.core 0).task.isSome = true ∧ (s.ctx (s.core 0).tk.ctx).pasid = 0 ∧
       (s.cx 0 0).wait = .fault .hostNotPresent 8190 0x10000 8191 ∧ 8191 / 4096 * 4096 = 4096 ∧ ((s.core 0).ring false).held = some (.hostNotPresent, 4096) ∧
       ((s.core 0).chan.get {} 15).recorded = true ∧ ((s.core 0).chan.get {} 15).stopped = some (.hostNotPresent, 8191)) ∧
    (let s : State := { (withCore (fun k => { k with chan := k.chan.put {} 15 { flight := [{ marks := [7] }] } })) with invals := [(0, 7), (0, 8)], oldLeaves := [{ mark := 8 }] }
     (∀ q ∈ s.invals, UnderWay s q.2) ∧ ¬UnderWay s 9) := by
  refine ⟨⟨_, rfl, rfl⟩, ⟨by decide, by decide, by decide, by decide⟩, by decide +kernel, ?_⟩
  intro s
  simp only [UnderWay, or_and_right, exists_or]
  exact ⟨by decide +kernel, by decide +kernel⟩

/-- The last context, each ring and the last channel, on each of the waits, with and without a handler. -/
theorem witness_WaitsEnd :
    (let s (v : W64) : State := base.updCore 0 (fun k => { k with tvec := v, cx := k.cx.put {} 2 { live := true, wait := .fault .notMapped 64 0x10000 64 } })
     ((s 0x10000).cx 0 2).wait = .fault .notMapped 64 0x10000 64 ∧ ((s 0x10000).core 0).trapEnds 2 .notMapped = false ∧ ((s 0).core 0).trapEnds 2 .notMapped = true) ∧
    (∀ m : Bool, let s := base.updCore 0 (fun k => k.updRing m (fun r => { r with held := some (.notMapped, 64), word := some 0 }))
     (s.core 0).ring m = { (s.core 0).ring m with held := some (.notMapped, 64), word := some 0 } ∧ (s.cx 0 0).live = true) ∧
    (∀ b : Bool, let s := withCore (fun k => { k with chan := k.chan.put {} 15 { stopped := some (.notMapped, 64), recorded := b } })
     ((s.core 0).chan.get {} 15).stopped = some (.notMapped, 64) ∧ ((s.core 0).chan.get {} 15).recorded = b) ∧
    (let s (n : Nat) : State := { (withCore (fun k => { k with
       cx := k.cx.put {} 2 { live := true, emptyAt := some 128, logWait := true, window := some 3 }, row := { k.row with emptyAt := some 128, word := some 0, logWait := true, rd := 1, tags := k.row.tags.put none 0 (some (3, 0)) }
       chan := k.chan.put {} 15 { emptyAt := some 128, logWait := true } })) with cur := .event .stalledOnEmpty 0 n }
     (∀ n, n ∈ [2, 3, 31] → (s n).cur = .event .stalledOnEmpty 0 n ∧ ((s n).cx 0 2).emptyAt = some 128 ∧ ((s n).core 0).row.emptyAt = some 128 ∧
       ((s n).core 0).row.word = some 0 ∧ (((s n).core 0).chan.get {} 15).emptyAt = some 128 ∧ ((s n).cx 0 2).logWait = true ∧ ((s n).cx 0 2).window = some 3 ∧
       ((s n).core 0).row.logWait = true ∧ ((s n).core 0).row.tags.get none (((s n).core 0).row.rd - 1) = some (3, 0) ∧
       (((s n).core 0).chan.get {} 15).logWait = true ∧ ((s n).cx 0 0).live = true)) ∧
    (let s : State := { (withCore (fun k => { k with engineTraps := [5] })) with cur := .event .engineFault 0 0 }
     (s.core 0).engineTraps = [5] ∧ s.peerReqs = [] ∧ (s.cx 0 0).wait = .none) ∧
    (let s : State := { (withCore (fun k => { k with engineTraps := [5], cx := k.cx.upd {} 0 (fun q => { q with wait := .service 64 }) })) with cur := .event .engineFault 0 0 }
     (s.core 0).engineTraps = [5] ∧ s.peerReqs = [] ∧ (s.cx 0 0).wait = .service 64) ∧
    (let s : State := { (withCore (fun k => { k with engineTraps := [5] })) with cur := .event .engineFault 0 0, peerReqs := [{ cmd := { op := 2 } }] }
     (s.core 0).engineTraps = [5] ∧ ∃ q ∈ s.peerReqs, q.core = 0 ∧ q.agent = 0 ∧ q.acts = true) := by
  refine ⟨by decide +kernel, ?_, ?_, by decide +kernel, by decide +kernel, by decide +kernel, by decide +kernel⟩
  · intro m
    cases m <;> decide +kernel
  · intro b
    cases b <;> decide +kernel

/-! ### Witnesses: the scheduler -/

theorem none_ended (s : State) (h : s.cores.all (fun p => match p.2.k.phase with | .ended _ => false | _ => true) = true) : NoneEnded s := by
  intro p hp f e
  have := List.all_eq_true.mp h p hp
  rw [e] at this
  cases this

/-- A launch of priority 3 on slot 63 with two outer, four spatial and three inner items; the last spatial one of the last outer one comes next. -/
def launch3 : Launch := { id := 7, slot := 63, ctx := 1, prio := 3, outer := 1, sent := [0, 1, 2]
                          recs := [{ levels := [{ kind := 0, trip := 2 }, { kind := 1, trip := 4 }, { kind := 0, trip := 3 }] }] }
/-- The walker of die 0 with that launch, whose image has a core set. -/
def walking (set : List Nat) : State :=
  { base.updVi 0 (fun v => { v with slots := v.slots.put {} 63 { st := 1, ctx := 1, coreSet := set } }) with launches := [launch3], cur := .event .dispatch 0 0 }

theorem next_item (set : List Nat) (h : set = [0, 1] ∨ set = [0]) :
    NextItem (walking set) launch3 [{ kind := 0, trip := 2 }] [{ kind := 1, trip := 4 }] [{ kind := 0, trip := 3 }] 3 set := by
  obtain rfl | rfl := h
  all_goals exact {
    ended := none_ended _ (by decide +kernel), first := ⟨[], [], rfl, nofun, nofun⟩
    prio := by decide +kernel, own := fun m h _ => List.mem_singleton.mp h, record := by decide, levels := rfl, kinds := by decide, single := rfl, walks := rfl
    running := nofun, next := by decide, outer := by decide, inner := by decide, cores := by decide +kernel, rising := by decide
    die := ⟨0, by decide, by decide, by decide +kernel, by decide +kernel⟩ }

/-- Core 0 is busy and core 1 free; where the set is core 0 alone, its task is of a lower priority. -/
theorem witness_ItemsDispatched :
    (NoneEnded base ∧ base.launches = []) ∧
    (let s := walking [0, 1]
     NextItem s launch3 [{ kind := 0, trip := 2 }] [{ kind := 1, trip := 4 }] [{ kind := 0, trip := 3 }] 3 [0, 1] ∧ FreeFor s launch3 1 ∧ ¬FreeFor s launch3 0) ∧
    (let s := walking [0]
     NextItem s launch3 [{ kind := 0, trip := 2 }] [{ kind := 1, trip := 4 }] [{ kind := 0, trip := 3 }] 3 [0] ∧ ¬FreeFor s launch3 0 ∧
       (s.core 0).phase = .running ∧ (s.core 0).tk.prio < launch3.prio ∧ (s.core 0).tk.gang = false ∧ Agent.event .preemption 0 0 ∉ s.agenda) := by
  refine ⟨⟨none_ended _ (by decide +kernel), by decide +kernel⟩, ⟨next_item _ (.inl rfl), ⟨by decide +kernel, by decide +kernel, by decide +kernel⟩, fun f => ?_⟩,
    ⟨next_item _ (.inr rfl), fun f => ?_, by decide +kernel, by decide +kernel, by decide +kernel, by decide +kernel⟩⟩
  all_goals exact absurd f.1 (by decide +kernel)

/-- An item dispatched, and one all of whose streams have ended. -/
theorem witness_ItemsStartAndEnd :
    (let s : State := { (withCore (fun k => { k with phase := .dispatched })) with cur := .event .itemStart 0 0 }
     s.cur = .event .itemStart 0 0 ∧ (s.core 0).phase = .dispatched) ∧
    (let s : State := { (withCore (fun k => { k with cx := [], row := { k.row with notified := true }, mat := { k.mat with notified := true } })) with
       cur := .event .completionEvent 0 0 }
     s.cur = .event .completionEvent 0 0 ∧ ItemComplete (s.core 0)) :=
  ⟨⟨rfl, by decide +kernel⟩, rfl, ⟨by decide +kernel, by decide +kernel, by decide +kernel, by decide +kernel⟩⟩

/-- A finished launch with two held adds, and one without on a draining slot. -/
theorem witness_LaunchesEnd :
    (let l : Launch := { launch3 with ri := 1 }
     let s : State := { (base.updSlice 3 (fun e => { e with heldAdds := [{ launch := 7, addr := 8, n := 8, item := 1 }, { launch := 7, addr := 8, n := 8 }] })) with
       launches := [l], cur := .event .orderedFaddApply 7 0 }
     NoneEnded s ∧ s.launches = [] ++ l :: [] ∧ l.recs.length ≤ l.ri ∧ s.cur = .event .orderedFaddApply l.id 0) ∧
    (let l : Launch := { launch3 with ri := 1, doneev := 63, doneval := 5 }
     let s : State := { (base.updVi 0 (fun v => { v with slots := v.slots.put {} 63 { st := 2, ctx := 1 } })) with launches := [l], cur := .event .launchEnd 7 0 }
     NoneEnded s ∧ s.launches = [] ++ l :: [] ∧ (∀ p ∈ s.slices, ∀ h ∈ p.2.heldAdds, h.launch ≠ l.id) ∧ l.flags % 2 = 0 ∧ Unarmed s 1 ∧ Unarmed s 63 ∧
       ((s.vi l.vi).slots.get {} l.slot).st = 2) :=
  ⟨⟨none_ended _ (by decide +kernel), rfl, by decide, rfl⟩, none_ended _ (by decide +kernel), rfl, by decide +kernel, by decide, ⟨by decide +kernel, by decide +kernel⟩,
    ⟨by decide +kernel, by decide +kernel⟩, by decide +kernel⟩

/-- A task saved at a priority, and its gang. -/
def savedCore (g : Bool) : Core := { phase := .running, task := some { probeTask with gang := g, prio := 2 } }
/-- Core 0 free, with that task saved, and the return of a task or of a gang to make its move. -/
def saved (g : Bool) : State :=
  { base.updPhys 0 (fun p => { p with k := { p.k with phase := .free, task := none }, saved := [(2, some (savedCore g))] }) with
    cur := .event (if g then .gangResume else .taskResume) 0 0 }
theorem saved_area (g : Bool) : ((saved g).phys 0).saved = [(2, some (savedCore g))] := by cases g <;> decide +kernel
theorem saved_may (g : Bool) : MayReturn (saved g) 0 2 (savedCore g) := by
  refine ⟨⟨by decide, ?_, by cases g <;> decide +kernel⟩, fun j h => ?_, by cases g <;> decide +kernel, by cases g <;> decide +kernel⟩
  · rw [saved_area]; cases g <;> decide +kernel
  · rw [saved_area]
    have : ¬2 = j := by omega
    simp [Store.get, this]
theorem saved_others (g : Bool) (d : Nat) (h : d ≠ 0) : ((saved g).phys d).saved = [] := by
  have e : (saved g).cores = [(0, (saved g).phys 0)] := by cases g <;> decide +kernel
  have n : ¬0 = d := fun x => h x.symm
  show (Store.get {} (saved g).cores d).saved = []
  rw [e]
  show (if 0 = d then _ else Store.get {} [] d : Phys).saved = []
  rw [if_neg n]
  rfl

/-- A drained task with no word and with one that waits for an empty line; a task that returns; a gang of one that returns whole. -/
theorem witness_SavesAndReturns :
    (let s : State := { (withCore (fun k => { k with phase := .draining })) with cur := .event .preemptionSave 0 0 }
     (s.core 0).phase = .draining ∧ (s.core 0).mat.word = none ∧ (s.core 0).followGo = false ∧ (∀ p ∈ (s.core 0).chan, p.2.flight = []) ∧ s.peerReqs = [] ∧ (s.core 0).row.word = none) ∧
    (let s : State := { (withCore (fun k => { k with phase := .draining, row := { k.row with word := some 0, rd := 1, held := some (.notMapped, 64) } })) with
       cur := .event .preemptionSave 0 0 }
     (s.core 0).phase = .draining ∧ s.peerReqs = [] ∧ (s.core 0).row.held.isSome = true) ∧
    (let s : State := { (withCore (fun k => { k with phase := .draining, row := { k.row with word := some 0, rd := 1, emptyAt := some 0 } })) with cur := .event .preemptionSave 0 0 }
     (s.core 0).phase = .draining ∧ (s.core 0).row.held = none ∧ (s.core 0).row.emptyAt.isSome = true ∧ ∀ q ∈ s.peerReqs, ¬(q.core = 0 ∧ q.agent = 3)) ∧
    (NoneEnded (saved false) ∧ (saved false).cur = .event .taskResume 0 0 ∧ MayReturn (saved false) 0 2 (savedCore false) ∧ (savedCore false).tk.gang = false) ∧
    (NoneEnded (saved true) ∧ (saved true).cur = .event .gangResume 0 0 ∧ MayReturn (saved true) 0 2 (savedCore true) ∧ (savedCore true).tk.gang = true ∧
      ((saved true).cores.map (·.1)).Nodup ∧ (saved true).launches = [] ∧
      ∀ d m, ((∃ e ∈ ((saved true).phys d).saved, e.2 = some m) ∧ m.tk.launch = (savedCore true).tk.launch ∧ m.tk.gang = true ∧ m.tk.gangKey = (savedCore true).tk.gangKey) →
        ∃ j m', MayReturn (saved true) d j m' ∧ m'.tk.launch = (savedCore true).tk.launch ∧ m'.tk.gangKey = (savedCore true).tk.gangKey) := by
  refine ⟨⟨by decide +kernel, by decide +kernel, by decide +kernel, by decide +kernel, rfl, by decide +kernel⟩, ⟨by decide +kernel, rfl, by decide +kernel⟩,
    ⟨by decide +kernel, by decide +kernel, by decide +kernel, nofun⟩, ⟨none_ended _ (by decide +kernel), rfl, saved_may _, rfl⟩, none_ended _ (by decide +kernel), rfl, saved_may _, rfl, by decide +kernel, rfl, ?_⟩
  rintro d m ⟨⟨e, h, _⟩, _⟩
  by_cases z : d = 0
  · subst z; exact ⟨2, _, saved_may true, rfl, rfl⟩
  · rw [saved_others true d z] at h; cases h

/-- A batch launch whose table lies at the start of the data page, and its snapshot at 4096 bytes into it; n entries, of which the second is not active. -/
def batch : Launch := { id := 7, slot := 63, ctx := 1, prio := 3
                        recs := [{ levels := [{ kind := 3, trip := 4, table := 0x200000, snap := 0x201000 }, { kind := 1, tripsrc := 2 }] }] }
def batching (n : Nat) : State :=
  { tabled 0 dataLeaf.pte 0x1000 base with
    launches := [batch], cur := .event .batchSnapshot 7 0, mem := (base.mem.setNum 0x20000 32 n).setNum 0x20020 32 (2 ^ 64 + 4) }

/-- Whether bytes of context 1 lie in the data page, at the address that it gives them. -/
def inPage (s : State) (va n pa right : Nat) : Bool :=
  s.leafAt 1 va == some dataLeaf && decide (va + n ≤ 0x210000) && dataLeaf.pte.testBit right && pa == 0x20000 + (va - 0x200000)
theorem data_page (s : State) (va n pa right : Nat) (h : inPage s va n pa right = true) : PageAt s 1 va n pa right := by
  simp only [inPage, Bool.and_eq_true, decide_eq_true_eq, beq_iff_eq] at h
  exact ⟨dataLeaf, h.1.1.1, h.1.1.2, h.1.2, by decide, h.2⟩
/-- A table of two entries of which one is active, and an empty one; an interface that fell short by one operation more than it may, and one that did not. -/
def inReach (s : State) (va pa right : Nat) : Bool :=
  inPage s va 32 pa right && (sliceOfPa pa).isSome && decide (va < 2 ^ 48) && s.oldLeaves.isEmpty
theorem walker_at (s : State) (va pa right : Nat) (h : inReach s va pa right = true) : WalkerAt s batch va pa right := by
  simp only [inReach, Bool.and_eq_true, decide_eq_true_eq, List.isEmpty_iff] at h
  exact ⟨h.1.2, data_page _ _ _ _ _ h.1.1.1, h.1.1.2, fun x m => by rw [h.2] at m; cases m⟩
theorem walker_all (s : State) (m va pa right : Nat) (h : (List.range m).all (fun i => inReach s (va + 32 * i) (pa + 32 * i) right) = true) :
    ∀ i, i < m → WalkerAt s batch (va + 32 * i) (pa + 32 * i) right := fun i hi => walker_at _ _ _ _ (List.all_eq_true.mp h i (List.mem_range.mpr hi))

theorem witness_BatchesAndRamps :
    (let s := batching 2
     NoneEnded s ∧ s.launches = [] ++ batch :: [] ∧ batch.ri < batch.recs.length ∧ batch.batch = none ∧ batch.endedChains = 0 ∧
       (batch.recs.getD batch.ri {}).levels = [] ++ { kind := 3, trip := 4, table := 0x200000, snap := 0x201000 } :: [{ kind := 1, tripsrc := 2 }] ∧
       batch.outer < tripProduct [] * 4 ∧ (∀ i, i < 2 + 1 → WalkerAt s batch (0x200000 + 32 * i) (0x20000 + 32 * i) 4) ∧ s.mem.num 0x20000 32 % 2 ^ 16 = 2 ∧
       (((List.range 2).map (fun i => if s.mem.num (0x20000 + 32 * (i + 1)) 32 % 2 = 0 then s.mem.num (0x20000 + 32 * (i + 1)) 32
         else batch.committed.get 0 i)).filter (·.testBit 64)).length = 1 ∧
       ∀ i, i < 1 + 1 → WalkerAt s batch (0x201000 + 32 * i) (0x21000 + 32 * i) 5) ∧
    (let s := batching 0
     NoneEnded s ∧ WalkerAt s batch 0x200000 0x20000 4 ∧ s.mem.num 0x20000 32 % 2 ^ 16 = 0) ∧
    (let s : State := { (base.updCluster 0 (fun e => { e with rampLast := [(0, 2049), (1, 2048)] })) with cur := .event .rampWindow 0 0 }
     let e := s.cluster 0
     e.rampNow.get 0 0 + 2048 < e.rampLast.get 0 0 ∧ ¬(e.rampNow.get 0 1 + 2048 < e.rampLast.get 0 1) ∧ (e.rampLast.map (·.1)).Nodup) :=
  ⟨⟨none_ended _ (by decide +kernel), rfl, by decide, rfl, rfl, rfl, by decide, walker_all _ _ _ _ _ (by decide +kernel),
      by decide +kernel, by decide +kernel,
      walker_all _ _ _ _ _ (by decide +kernel)⟩,
    ⟨none_ended _ (by decide +kernel), walker_at _ _ _ _ (by decide +kernel), by decide +kernel⟩, by decide +kernel, by decide +kernel, by decide +kernel⟩

/-! ### Witnesses: actions, copies, services and steps -/

/-- A copy of one line from the start of scratchpad to its last line, on channel 15. -/
def lineCopy : Template := {}
/-- Core 0 with that template, the channel's window set, and a change. -/
def copying (f : Core → Core) : State := withCore (fun k => f { k with
  task := some { probeTask with templates := [lineCopy] }, pwin := k.pwin.put 0 (0x100 * 15 + 8) 0x7FF80 })
theorem start_ok (s : State) (i : Nat) (h : (((s.core 0).chan.get {} 15).phase == .idle && (s.core 0).tk.templates[i]? == some lineCopy && decide (i < 2 ^ 16) &&
    ((s.core 0).pwin.get 0 0xF00).toNat == 0 && ((s.core 0).pwin.get 0 0xF08).toNat == 0x7FF80 && (s.core 0).spadLimit == 0x80000 &&
    (s.core 0).cl.has (.sem 31) && (s.cx 0 0).window.isNone && (s.core 0).cl.has (.chan 15)) = true) : StartOk s 0 0 15 i lineCopy 0 0x7FF80 := by
  simp only [Bool.and_eq_true, beq_iff_eq, decide_eq_true_eq, Option.isNone_iff_eq_none] at h
  obtain ⟨⟨⟨⟨⟨⟨⟨⟨h1, h2⟩, h3⟩, h4⟩, h5⟩, h6⟩, h7⟩, h8⟩, h9⟩ := h
  refine ⟨h1, h9, ⟨h3, h2⟩, by decide, ?_, ?_, ⟨h7, h7⟩, nofun, ⟨nofun, nofun⟩, ⟨fun _ => ⟨by decide, fun g hg => ?_⟩, nofun⟩, ⟨fun _ => ⟨by decide, fun g hg => ?_⟩, nofun⟩, by decide, nofun, h8⟩
  · show 0 = ((s.core 0).pwin.get 0 0xF00).toNat % 2 ^ 19; rw [h4]; decide
  · show 0x7FF80 = ((s.core 0).pwin.get 0 0xF08).toNat % 2 ^ 19; rw [h5]; decide
  all_goals rw [h6]; obtain rfl : g = 0 := Nat.lt_one_iff.mp hg; decide

/-- Action 7 is due with what MXACT7 was. -/
def due (a : Nat) (f : Core → Core) : State := copying (fun k => f { k with mxdue := [(7, a)], sem := k.sem.put 0 29 65535 })
theorem fires (a kind : Nat) (f : Core → Core) (h : (((due a f).core 0).phase == .running && a / 2 ^ 16 % 8 == kind && ((due a f).core 0).mxdue == [(7, a)]) = true) :
    Fires ((due a f).core 0) 7 kind a := by
  simp only [Bool.and_eq_true, beq_iff_eq] at h
  exact ⟨.inl h.1.1, h.1.2, [], [], h.2, nofun⟩
theorem fires_not {k : Core} (n kind act : Nat) (h : k.mxdue = []) : ¬Fires k n kind act := by
  rintro ⟨-, -, pre, post, e, -⟩
  rw [h] at e
  cases pre <;> cases e

/-- The last action of each kind due, semaphores 31, 30 and a full one; the start of a copy that waits for its channel; rings that were halted; the last sequence context, halted and idle. -/
theorem witness_ActionsAndRestarts :
    (Fires ((due (2 ^ 16 + 31 * 2 ^ 20) id).core 0) 7 1 (2 ^ 16 + 31 * 2 ^ 20) ∧
     (Fires ((due (2 ^ 16 + 30 * 2 ^ 20) id).core 0) 7 1 (2 ^ 16 + 30 * 2 ^ 20) ∧ ((due (2 ^ 16 + 30 * 2 ^ 20) id).core 0).sem.get 0 30 < 65535) ∧
     (Fires ((due (2 ^ 16 + 29 * 2 ^ 20) id).core 0) 7 1 (2 ^ 16 + 29 * 2 ^ 20) ∧ ((due (2 ^ 16 + 29 * 2 ^ 20) id).core 0).sem.get 0 29 = 65535 ∧
       ((due (2 ^ 16 + 29 * 2 ^ 20) id).cx 0 0).live = true) ∧
     (Fires ((due (2 * 2 ^ 16 + 63 * 2 ^ 20) id).core 0) 7 2 (2 * 2 ^ 16 + 63 * 2 ^ 20) ∧ Unarmed (due 0 id) 63) ∧
     Fires ((due (4 * 2 ^ 16 + 7 * 2 ^ 20) id).core 0) 7 4 (4 * 2 ^ 16 + 7 * 2 ^ 20)) ∧
    (let a := 3 * 2 ^ 16 + 15 * 2 ^ 20
     (Fires ((due a id).core 0) 7 3 a ∧ ((due a id).core 0).mxpend.get none 7 = none ∧ StartOk (due a id) 0 0 15 0 lineCopy 0 0x7FF80) ∧
     (let f (k : Core) : Core := { k with mxpend := k.mxpend.put none 7 (some (15, 0)) }
      Fires ((due a f).core 0) 7 3 a ∧ ((due a f).core 0).mxpend.get none 7 = some (15, 0) ∧ StartOk (due a f) 0 0 15 0 lineCopy 0 0x7FF80) ∧
     let f (k : Core) : Core := { k with chan := k.chan.put {} 15 { phase := .lines } }
     Fires ((due a f).core 0) 7 3 a ∧ (((due a f).core 0).chan.get {} 15).phase ≠ .idle) ∧
    (let s : State := copying (fun k => { k with mxpend := k.mxpend.put none 7 (some (15, 0)) })
     (s.core 0).mxpend.get none 7 = some (15, 0) ∧ (s.core 0).phase = .running ∧ (∀ act, ¬Fires (s.core 0) 7 3 act) ∧ StartOk s 0 0 15 0 lineCopy 0 0x7FF80) ∧
    (let s := withCore (fun k => { k with row := { k.row with halted := true }, mat := { k.mat with halted := true } })
     (s.core 0).row.halted = true ∧ (s.core 0).mat.halted = true) ∧
    (let s (st : Nat) : State := { base.updSeq 63 (fun _ => { owner := some (0, 0, 63), st := st }) with cur := .event .smpclr 0 127 }
     ∀ st, st < 3 → (127 : Nat).testBit 6 = true ∧ 127 % 64 < ((s st).core 0).cl.sampler ∧ ((s st).seq 63).owner = some (((s st).core 0).tk.vi, ((s st).core 0).tk.slot, 63) ∧
       (∀ r, r < 63 → ((s st).seq r).owner ≠ some (((s st).core 0).tk.vi, ((s st).core 0).tk.slot, 63)) ∧ ((s st).seq 63).st = st) := by
  refine ⟨⟨fires _ _ _ (by decide +kernel), ⟨fires _ _ _ (by decide +kernel), by decide +kernel⟩, ⟨fires _ _ _ (by decide +kernel), by decide +kernel, by decide +kernel⟩,
      ⟨fires _ _ _ (by decide +kernel), by decide +kernel, by decide +kernel⟩, fires _ _ _ (by decide +kernel)⟩,
    ⟨⟨fires _ _ _ (by decide +kernel), by decide +kernel, start_ok _ _ (by decide +kernel)⟩,
      ⟨fires _ _ _ (by decide +kernel), by decide +kernel, start_ok _ _ (by decide +kernel)⟩, fires _ _ _ (by decide +kernel), by decide +kernel⟩,
    ⟨by decide +kernel, by decide +kernel, fun _ => fires_not _ _ _ (by decide +kernel), start_ok _ _ (by decide +kernel)⟩, by decide +kernel, by decide +kernel⟩

theorem read_ok {α : Type} {e : Ex α} (h : (match e with | .ok _ => true | .error _ => false) = true) : ∃ p, e = .ok p := by
  cases e with
  | ok p => exact ⟨p, rfl⟩
  | error _ => cases h

theorem both_ok {α β : Type} {e : Ex α} {f : α → Ex β}
    (h : (match e with | .ok p => (match f p with | .ok _ => true | .error _ => false) | .error _ => false) = true) : ∃ p, e = .ok p ∧ ∃ u, f p = .ok u := by
  cases e with
  | ok p => exact ⟨p, rfl, read_ok h⟩
  | error _ => cases h

/-- A copy as it starts, awaits, issues its last line from scratchpad, from an empty line and from device memory, lands it, pops its reply, and finishes or fails. -/
theorem witness_Copies :
    StartOk (copying id) 0 0 15 0 lineCopy 0 0x7FF80 ∧
    (let s (h : Chan) (i : Instr) : State := { copying (fun k => { k with chan := k.chan.put {} 15 h, q := k.q.put [] 7 [5], empty := if h.src = 128 then [(1, true)] else [] }) with
       cur := .event i 0 15 }
     let line : List Byte := List.replicate 128 1
     (∀ i, ((s { phase := .await, t := { lineCopy with aw := 31 } } i).core 0).phase = .running) ∧
     (let k := (s { phase := .lines, t := lineCopy, dst := 0x7FF80 } .copyLineIssue).core 0
      (k.chan.get {} 15).stopped = none ∧ (k.chan.get {} 15).issued < 1 * 1 ∧ k.outstanding < 8192 ∧ Readable k 0 128) ∧
     (let k := (s { phase := .lines, t := lineCopy, src := 128, dst := 0x7FF80 } .copyLineIssue).core 0
      ∃ l ∈ linesOf (lineOf 128 0 1 0) 128, k.isEmpty l = true) ∧
     (let k := (s { phase := .lines, t := lineCopy, dst := 0x7FF80, issued := 1, flight := [{ data := line }] } .copyLineIssue).core 0
      (k.chan.get {} 15).flight = { data := line } :: [] ∧ (k.chan.get {} 15).stopped = none ∧ (k.chan.get {} 15).tag = 0 ∧ Quiet k ∧ line.length = 128 ∧ lineOf 0x7FF80 0 1 0 % 128 = 0) ∧
     (let u := s { phase := .reply, t := { lineCopy with skind := 2, qidx := true, sdim := 2 }
                   lay := 0x200000 * 2 ^ 208 + 128 * 2 ^ 100 + 5 * 2 ^ 52 + 127 * 2 ^ 36 + 2 ^ 24 + 2 ^ 21 } .copyReplyPop
      (u.core 0).queue 7 = 5 :: [] ∧ layoutCheck u 0 { (u.core 0).chan.get {} 15 with token := 5, phase := .lines } = .ok ()) ∧
     (let k := (s { phase := .lines, t := lineCopy, dst := 0x7FF80, issued := 1, landed := [0] } .copyFinish).core 0
      Finishable (k.chan.get {} 15) ∧ ((k.chan.get {} 15).t.rs ≠ 31 → k.sem.get 0 (k.chan.get {} 15).t.rs < 65535)) ∧
     (let u := s { phase := .lines, t := lineCopy, failed := some .stalledOnEmpty } .copyFinish
      ((u.core 0).chan.get {} 15).failed = some .stalledOnEmpty ∧ ((u.core 0).chan.get {} 15).flight = [] ∧ (u.cx 0 0).live = true)) ∧
    (let s := (paged 0 0).updCore 0 (fun k => { k with chan := k.chan.put {} 15 { phase := .lines, t := { lineCopy with skind := 1 }, src := 0x20FF80 } })
     (s.core 0).outstanding < 8192 ∧ ∃ p, vread 0 2 31 none 0x20FF80 128 s = .ok p) ∧
    (let h : Chan := { phase := .lines, t := { lineCopy with dkind := 1 }, dst := 0x20FF80 }
     let s := (paged 0 0).updCore 0 (fun k => { k with chan := k.chan.put {} 15 h })
     Readable (s.core 0) 0 128 ∧ ∃ p, dstPieces 0 h 0 s = .ok p ∧ (∃ u, writePieces 0 31 none p.1 (List.replicate 128 1) p.2 = .ok u)) ∧
    (let h : Chan := { phase := .lines, t := { lineCopy with dkind := 1, rel := true }, dst := 0x20FF80, issued := 1, landed := [0] }
     let s := ((paged 0 0).updCore 0 (fun k => { k with chan := k.chan.put {} 15 h })).ordWrite 0 31 0 0x2FF80 [5]
     Finishable h ∧ (∃ x ∈ (s.phys 0).dirty, x.agent = 16 + 15) ∧ ∀ x ∈ (s.phys 0).dirty, x.agent = 16 + 15 ∧ x.part = true ∧ x.scope = none ∧ x.word < hostWords) ∧
    (let s := copying (fun k => { k with chan := k.chan.put {} 15 { phase := .reply, t := { lineCopy with qidx := true } }, q := k.q.put [] 7 [ofN (2 ^ 32)] })
     (s.core 0).queue 7 = ofN (2 ^ 32) :: [] ∧ (ofN (2 ^ 32)).toNat / 2 ^ 32 % 16 ≠ 0 ∧ (s.cx 0 ((s.core 0).chan.get {} 15).owner).live = true ∧
       ((s.core 0).chan.get {} 15).recorded = false) := by
  refine ⟨start_ok _ _ (by decide +kernel), ⟨fun i => rfl, ⟨by decide +kernel, by decide +kernel, by decide +kernel, readable _ _ (by decide +kernel)⟩, by decide +kernel,
      ⟨by decide +kernel, by decide +kernel, by decide +kernel, quiet_base _ (by decide +kernel), by decide +kernel, by decide +kernel⟩, ⟨by decide +kernel, by decide +kernel⟩,
      ⟨⟨by decide +kernel, by decide +kernel, by decide +kernel⟩, by decide +kernel⟩, by decide +kernel⟩,
    ⟨by decide +kernel, read_ok (by decide +kernel)⟩, ⟨readable _ _ (by decide +kernel), both_ok (by decide +kernel)⟩,
    ⟨⟨rfl, ⟨rfl, rfl, rfl, rfl⟩, rfl⟩, by decide +kernel, by decide +kernel⟩, by decide +kernel⟩

/-- The request of context 2 of core 0, with its block at the last 64 bytes of scratchpad. -/
def request2 : Request := { x := 2, blk := 0x7FFC0 }
/-- Context 2 of core 0 has posted it; its slot 0 holds no pages. -/
def posted (i : Instr) (b : Nat) (g : State → State) : State :=
  { g (withCore (fun k => { k with cx := k.cx.put {} 2 { live := true, wait := .service 0x7FFC0 }, spad := k.spad.setNum 0x7FFC0 64 b })) with
    cur := .event i 0 2, requests := [request2] }
theorem posted_at (i : Instr) (b : Nat) (g : State → State) (code : Nat)
    (h : ((posted i b g).asker request2 == some ((posted i b g).core 0) && b == ((posted i b g).core 0).spad.num 0x7FFC0 64 && b % 2 ^ 16 == code) = true) :
    Posted (posted i b g) request2 ((posted i b g).core 0) code b := by
  simp only [Bool.and_eq_true, beq_iff_eq] at h
  exact ⟨rfl, h.1.1, nofun, h.1.2, h.2⟩

/-- The entries on the walk of an address of context 1, in its first GiB, to its table 0x104. -/
def walks (s : State) (va : Nat) : Bool :=
  (s.ctx 1).live && (s.ctx 1).root == 0x100 && va / 2 ^ 21 == 1 && s.tableEntry 0x100 0 == 0x101001 && s.tableEntry 0x101 0 == 0x102001 &&
    s.tableEntry 0x102 1 == 0x104001
theorem on_middle (s : State) (va : Nat) (live : (s.ctx 1).live = true) (root : (s.ctx 1).root = 0x100) (low : va / 2 ^ 30 = 0)
    (a : s.tableEntry 0x100 0 = 0x101001) (b : s.tableEntry 0x101 0 = 0x102001) : TableOn s 1 va 1 0x102 [0x101, 0x100] := by
  have r := TableOn.root (va := va) live
  rw [root] at r
  refine .down 1 0x101 0x102 0x102001 _ (.down 2 0x100 0x101 0x101001 _ r ?_ (by decide) (by decide) (by decide)) ?_ (by decide) (by decide) (by decide)
  · rw [show va / (4096 * 512 ^ (2 + 1)) % 512 = 0 by omega, a]
  · rw [show va / (4096 * 512 ^ (1 + 1)) % 512 = 0 by omega, b]
theorem on_table (s : State) (va : Nat) (h : walks s va = true) : TableOn s 1 va 0 0x104 [0x102, 0x101, 0x100] := by
  simp only [walks, Bool.and_eq_true, beq_iff_eq] at h
  obtain ⟨⟨⟨⟨⟨live, root⟩, at_⟩, a⟩, b⟩, c⟩ := h
  refine .down 0 0x102 0x104 0x104001 _ (on_middle s va live root (by omega) a b) ?_ (by decide) (by decide) (by decide)
  rw [show va / (4096 * 512 ^ (0 + 1)) % 512 = 1 by omega, c]

/-- A PAGEALLOC of n pages at an address, in a unit of a tier, and a PAGEFREE. -/
def allocBlock (va tier unit n : Nat) : Nat := 1 + va * 2 ^ 64 + tier * 2 ^ 128 + unit * 2 ^ 136 + n * 2 ^ 144
def freeBlock (va n : Nat) : Nat := 2 + va * 2 ^ 64 + n * 2 ^ 144
/-- The context has had the page at 0x30_0000 allocated, on frame 2. -/
def hasPage (s : State) : State :=
  { tabled 256 (0xB5 + 0x20000) 0x1000 (s.updCtx 1 (fun r => { r with alloced := [(0x300000, 0, 0)] })) with frames := s.frames.put (0, 0) 2 (1, 2) }
/-- A copy with a line on its way into that page. -/
def lineThere (s : State) : State :=
  s.updCore 0 (fun k => { k with chan := k.chan.put {} 15 { flight := [{ dst := some [(.dev 0x2FF80, 0x30FF80, 128)] }] } })

/-- Each request: 16 pages of the last unit, too many, past the quota's end, past the address space; a page freed, one with a line on its way and one that was not allocated; an entry set, past the claim and of another context; a log record; reserved codes and bits. -/
theorem witness_Services :
    (let b := allocBlock 0x300000 1 3 16
     let s := posted .pagealloc b id
     Posted s request2 (s.core 0) 1 b ∧ b / 2 ^ 16 % 2 ^ 48 = 0 ∧ s.windowHolds 1 0x300000 (65536 * 16) = false ∧ s.meets 1 0x300000 (65536 * 16) = [] ∧
       ((s.core 0).cl.memory - ((s.vi 0).slots.get {} 0).pages) = 64 ∧ s.frames = []) ∧
    (let b := allocBlock 0x300000 1 3 16
     let s := posted .pagealloc b (fun s => s.updVi 0 (fun v => { v with slots := v.slots.put {} 0 { pages := 49 } }))
     Posted s request2 (s.core 0) 1 b ∧ ((s.core 0).cl.memory - ((s.vi 0).slots.get {} 0).pages) = 15) ∧
    (let b := allocBlock 0x300000 0 12 1
     Posted (posted .pagealloc b id) request2 ((posted .pagealloc b id).core 0) 1 b ∧ ¬(b / 2 ^ 136 % 256 ≤ 11)) ∧
    (let b := freeBlock 0x300000 1
     let s := posted .pagefree b hasPage
     Posted s request2 (s.core 0) 2 b ∧ (∃ p ∈ (s.ctx 1).alloced, p.1 = 0x300000) ∧ s.linesInto 1 0x300000 65536 = false) ∧
    (let b := freeBlock 0x300000 1
     let s := posted .pagefree b (fun s => lineThere (hasPage s))
     Posted s request2 (s.core 0) 2 b ∧ (∃ p ∈ (s.ctx 1).alloced, p.1 = 0x300000) ∧ s.linesInto 1 0x300000 65536 = true) ∧
    (let b := freeBlock 0x310000 1
     let s := posted .pagefree b hasPage
     Posted s request2 (s.core 0) 2 b ∧ ∀ p ∈ (s.ctx 1).alloced, p.1 ≠ 0x310000) ∧
    (let b := 3 + 65535 * 2 ^ 64 + 0x7FF00 * 2 ^ 128
     let s := posted .layoutset b (fun s => s.updCore 0 (fun k => { k with spad := k.spad.setNum 0x7FF00 32 (2 ^ 21 + 2 ^ 24) }))
     Posted s request2 (s.core 0) 3 b ∧ (let e := (s.core 0).spad.num 0x7FF00 32; e.testBit 21 = true ∧ e / 2 ^ 24 % 2 ^ 12 = 1) ∧ 65535 < (s.core 0).cl.layout) ∧
    (let b := 3 + 65536 * 2 ^ 64 + 0x7FF00 * 2 ^ 128
     Posted (posted .layoutset b id) request2 ((posted .layoutset b id).core 0) 3 b ∧ ¬(b / 2 ^ 64 % 2 ^ 64 < 65536)) ∧
    (let b := 4 + 5 * 2 ^ 64
     Posted (posted .logrec b id) request2 ((posted .logrec b id).core 0) 4 b ∧ b / 2 ^ 16 % 2 ^ 48 = 0) ∧
    (Posted (posted .pagealloc 0 id) request2 ((posted .pagealloc 0 id).core 0) 0 0 ∧ Posted (posted .logrec 5 id) request2 ((posted .logrec 5 id).core 0) 5 5) ∧
    (let b := 4 + 2 ^ 63
     Posted (posted .logrec b id) request2 ((posted .logrec b id).core 0) 4 b ∧ b / 2 ^ 16 % 2 ^ 48 ≠ 0) :=
  ⟨⟨posted_at _ _ _ _ (by decide +kernel), by decide +kernel, by decide +kernel, by decide +kernel, by decide +kernel, by decide +kernel⟩,
    ⟨posted_at _ _ _ _ (by decide +kernel), by decide +kernel⟩, ⟨posted_at _ _ _ _ (by decide +kernel), by decide +kernel⟩,
    ⟨posted_at _ _ _ _ (by decide +kernel), by decide +kernel, by decide +kernel⟩, ⟨posted_at _ _ _ _ (by decide +kernel), by decide +kernel, by decide +kernel⟩,
    ⟨posted_at _ _ _ _ (by decide +kernel), by decide +kernel⟩,
    ⟨posted_at _ _ _ _ (by decide +kernel), by decide +kernel, by decide +kernel⟩, ⟨posted_at _ _ _ _ (by decide +kernel), by decide +kernel⟩,
    ⟨posted_at _ _ _ _ (by decide +kernel), by decide +kernel⟩, ⟨posted_at _ _ _ _ (by decide +kernel), posted_at _ _ _ _ (by decide +kernel)⟩,
    posted_at _ _ _ _ (by decide +kernel), by decide +kernel⟩

/-- Sixteen pages mapped and one beside others; the page freed; a reply to a task on its core. -/
theorem witness_Services_pages :
    (∃ t, base.mapPages (2 ^ 24) (2 ^ 22) 0 0 1 true 16 0x300000 = some t) ∧
    (let s := tabled 0 (0xB5 + 0x20000) 0x1000 base
     Store.wf (0, 0) s.frames = true ∧ TableOn s 1 0x300000 0 0x104 [0x102, 0x101, 0x100] ∧ ∃ t, s.mapPages (2 ^ 24) (2 ^ 22) 0 0 1 true 1 0x300000 = some t) ∧
    (let s := hasPage base
     TableOn s 1 0x300000 0 0x104 [0x102, 0x101, 0x100] ∧ s.leafAt 1 0x300000 = some { va := 0x300000, size := 1, pte := 0xB5 + 0x20000 } ∧
       (s.ctx 1).alloced.find? (fun p => p.1 == 0x300000) = some (0x300000, 0, 0)) ∧
    (base.core 0).isTask 0 0 = true ∧ Quiet (base.core 0) :=
  ⟨found (by decide +kernel), ⟨by decide +kernel, on_table _ _ (by decide +kernel), found (by decide +kernel)⟩,
    ⟨on_table _ _ (by decide +kernel), by decide +kernel, by decide +kernel⟩, by decide +kernel, quiet_base _ (by decide +kernel)⟩

/-- A 64 KiB page whose table is there, and a 4 KiB page at the end of the next 2 MiB, whose table has to be built. -/
theorem witness_TablesHoldLeaves :
    (TableOn (tabled 0 (0xB5 + 0x20000) 0x1000 base) 1 0x20FFFF 0 0x104 [0x102, 0x101, 0x100] ∧ LeafFor 0x20FFFF dataLeaf ∧ sizeLevel dataLeaf.size = 0) ∧
    (let l : Leaf := { va := 0x5FF000, size := 0, pte := 0x35 }
     LeafFor 0x5FFFFF l ∧ sizeLevel l.size + 1 = 1 ∧ TableOn base 1 0x5FFFFF 1 0x102 [0x101, 0x100] ∧
       (base.tableEntry 0x102 (0x5FFFFF / (4096 * 512 ^ 1) % 512)).testBit 0 = false ∧
       ∃ g u, base.newTable 1 (base.tableFrames 1) = some (g, u) ∧ g ∉ [0x102, 0x101, 0x100] ∧ g < 2 ^ 32) := by
  obtain ⟨⟨g, u⟩, h⟩ : ∃ p, base.newTable 1 (base.tableFrames 1) = some p := found (by decide +kernel)
  have e : (base.newTable 1 (base.tableFrames 1)).map (·.1) = some (16 * 2 ^ 20) := by decide +kernel
  rw [h] at e
  obtain rfl : g = 16 * 2 ^ 20 := Option.some.inj e
  exact ⟨⟨on_table _ _ (by decide +kernel), ⟨by decide, by decide, by decide⟩, rfl⟩, ⟨by decide, by decide, by decide⟩, rfl,
    on_middle _ _ (by decide +kernel) (by decide +kernel) (by decide) (by decide +kernel) (by decide +kernel), by decide +kernel, _, u, h, by decide, by decide⟩

theorem fetch_ok {e : Ex (Nat × State)} (w : Nat) (h : (match e with | .ok p => p.1 == w | .error _ => false) = true) : ∃ u, e = .ok (w, u) := by
  cases e with
  | ok p => simp at h; exact ⟨p.2, by rw [← h]⟩
  | error _ => simp at h
theorem step_ok {s : State} (h : (match step s with | .next _ => true | _ => false) = true) : ∃ t, step s = .next t := by
  cases e : step s with
  | next t => exact ⟨t, rfl⟩
  | fault f => cases f
  | refused r => simp [e] at h

theorem next_at (s : State) (h : (s.pick == .scalar 0 0 && (s.core 0).phase == .running && (s.cx 0 0).live && (s.cx 0 0).wait == .none &&
    (s.core 0).engineTraps.isEmpty && (s.core 0).copyTraps.isEmpty) = true) : IssuesNext s 0 0 := by
  simp only [Bool.and_eq_true, beq_iff_eq, List.isEmpty_iff] at h
  obtain ⟨⟨⟨⟨⟨h1, h2⟩, h3⟩, h4⟩, h5⟩, h6⟩ := h
  exact ⟨h1, h2, h3, h4, fun _ => h5, fun t ht => by rw [h6] at ht; cases ht⟩
theorem prefix_at (Q : Pfx → Prop) (e : Ex (Nat × State)) (pc : W64) (i : Instr) (w : Nat × Nat) (p : Pfx) (legal : Q p)
    (h : (match e with
      | .ok (x, u) => x == w.1 && (match exec i u with
        | .next t => (t.cx 0 0).pfx == some p && (t.cx 0 0).pc == pc &&
          (match fetchWord 0 ((t.cx 0 0).pc.toNat + 4) t with | .ok q => q.1 == w.2 | .error _ => false)
        | _ => false)
      | .error _ => false) = true) :
    ∃ u, e = .ok (w.1, u) ∧ ∃ u', exec i u = .next u' ∧ ∃ p, (u'.cx 0 0).pfx = some p ∧ (u'.cx 0 0).pc = pc ∧ Q p ∧
      ∃ u'', fetchWord 0 ((u'.cx 0 0).pc.toNat + 4) u' = .ok (w.2, u'') := by
  cases e with
  | error _ => cases h
  | ok q =>
    obtain ⟨x, u⟩ := q
    simp only [Bool.and_eq_true, beq_iff_eq] at h
    obtain ⟨rfl, h⟩ := h
    cases e : exec i u with
    | next t =>
      simp only [e, Bool.and_eq_true, beq_iff_eq] at h
      exact ⟨u, rfl, t, e, p, h.1.1, h.1.2, legal, fetch_ok _ h.2⟩
    | fault f => cases f
    | refused r => simp [e] at h

theorem bad_word {w : Nat} (h : (match decodeScalar w with | .ok _ => false | .error _ => true) = true) : ∃ e, decodeScalar w = .error e := by
  cases e : decodeScalar w with
  | ok i => simp [e] at h
  | error x => exact ⟨x, rfl⟩

/-- A prefix with RV set and the reserved rounding 5. -/
abbrev badPfx : Nat := 0x3F * 2 ^ 26 + 5 * 2 ^ 23 + 2 ^ 22 + 1

/-- 12 R240, R259: a prefix with a reserved rounding traps with the pair as TVAL, the prefix in [63:32]. -/
theorem test_reserved_rounding_traps_pair :
    (match step { State.reset.placeScalar badPfx with mem := (base.mem.setNum 0x10000 4 badPfx).setNum 0x10004 4 (ri 2 5 17 0xBEEF) } with
      | .next t => t.faults.map (fun r => (r.cause, r.tval)) == [(.illegalInstruction, badPfx * 2 ^ 32 + ri 2 5 17 0xBEEF)]
      | _ => false) = true := by decide +kernel

/-- 12 R253; 06 R112: the notify word with every other field zero, AW and RS 31, runs and ends the ring. -/
theorem test_notify_word_runs :
    (match step (State.reset.withFetchWord 96 0x01000000000000000001FF80) with
      | .next t => (t.core 0).row.notified && !(t.core 0).row.halted && t.faults.isEmpty
      | _ => false) = true := by decide +kernel

/-- A word that decodes, one that does not, a prefix with its word, a prefix that is reserved, the last word of the page; a ring's word, one under way, a sampler's word and an event. -/
theorem witness_StepRunsDecoded :
    (let s := State.reset.placeScalar (rr 1 5 17 30 0 0)
     IssuesNext s 0 0 ∧ decodeScalar (rr 1 5 17 30 0 0) = .ok (.add 5 17 30) ∧ ∃ u, fetchWord 0 (s.cx 0 0).pc.toNat s.acting = .ok (rr 1 5 17 30 0 0, u)) ∧
    (let s := State.reset.placeScalar (0x3E * 2 ^ 26)
     IssuesNext s 0 0 ∧ (∃ e, decodeScalar (0x3E * 2 ^ 26) = .error e) ∧ 0x3E * 2 ^ 26 / 2 ^ 26 ≠ 0x3F ∧ ∃ u, fetchWord 0 (s.cx 0 0).pc.toNat s.acting = .ok (0x3E * 2 ^ 26, u)) ∧
    (let s : State := { State.reset.placeScalar (0x3F * 2 ^ 26 + 1) with mem := (base.mem.setNum 0x10000 4 (0x3F * 2 ^ 26 + 1)).setNum 0x10004 4 (ri 2 5 17 0xBEEF) }
     IssuesNext s 0 0 ∧ ∃ r v z h, decodeScalar (0x3F * 2 ^ 26 + 1) = .ok (.pfx r v z h) ∧
       ∃ u, fetchWord 0 (s.cx 0 0).pc.toNat s.acting = .ok (0x3F * 2 ^ 26 + 1, u) ∧ ∃ u', exec (.pfx r v z h) u = .next u' ∧
         ∃ p, (u'.cx 0 0).pfx = some p ∧ (u'.cx 0 0).pc = (s.cx 0 0).pc ∧ (p.rndOk = true ∧ pfxLegal p.rv p.sat p.hi (.addi 5 17 0xBEEF) = true) ∧
           ∃ u'', fetchWord 0 ((u'.cx 0 0).pc.toNat + 4) u' = .ok (ri 2 5 17 0xBEEF, u'')) ∧
    (let s : State := { State.reset.placeScalar badPfx with mem := (base.mem.setNum 0x10000 4 badPfx).setNum 0x10004 4 (ri 2 5 17 0xBEEF) }
     IssuesNext s 0 0 ∧ (∃ e, decodeScalar badPfx = .error e) ∧ badPfx / 2 ^ 26 = 0x3F ∧
       ∃ u, fetchWord 0 (s.cx 0 0).pc.toNat s.acting = .ok (badPfx, u) ∧ ∃ u', exec (.pfx (bitsOf badPfx 25 23) (bitAt badPfx 22) (bitAt badPfx 21) (bitsOf badPfx 20 0)) u = .next u' ∧
         ∃ p, (u'.cx 0 0).pfx = some p ∧ (u'.cx 0 0).pc = (s.cx 0 0).pc ∧ p.rndOk = false ∧
           ∃ u'', fetchWord 0 ((u'.cx 0 0).pc.toNat + 4) u' = .ok (ri 2 5 17 0xBEEF, u'')) ∧
    (PageAt base (base.core 0).tk.ctx 0x1FFFC 4 0x1FFFC 6 ∧ (base.core 0).windowPage 0x1FFFC = none ∧ base.oldLeaves = [] ∧ (sliceOfPa 0x1FFFC).isSome = true ∧ (base.walks.filter (fun w => w.core == 0)).length < 16 ∧
      (base.phys 0).icache.get 0 (blockKey base 0 0x1FFFC) = 0) ∧
    NextInRing (State.reset.placeRing false 0) 0 false ∧ NextInRing (State.reset.placeRing true 0) 0 true ∧
    (let s := (State.reset.placeRing false 0).updCore 0 (fun k => { k with spoison := [((nextAt k false + 11) / 8, true)], cx := [(0, { live := true })] })
     let k := s.core 0
     NextInRing s 0 false ∧ (∃ i, InWords (nextAt k false) (wordBytes false) i ∧ k.spoison.get false i = true) ∧ (s.cx 0 0).live = true) ∧
    (let s := (State.reset.placeRing false 0).updCore 0 (fun k => { k with row := { k.row with word := some 0 } })
     s.pick = .row 0 ∧ ((s.core 0).ring false).word = some 0) ∧
    (let s := State.reset.placeSampler (smp 1 0 0 0 0)
     s.pick = .sampler 0 ∧ seqRuns s.acting (s.seq 0) = true ∧ (s.seq 0).reply = none ∧ (s.core (s.seq 0).core).spoison = [] ∧ (s.seq 0).pc + 4 ≤ (s.core (s.seq 0).core).spadLimit ∧
       decodeSampler ((s.core (s.seq 0).core).spad.num (s.seq 0).pc 4) = .ok .smpEndp) ∧
    (State.reset.agenda = .event (.coldReset true true) 0 0 :: [] ∧ isStep (.coldReset true true) = true) := by
  refine ⟨⟨next_at _ (by decide +kernel), by decide +kernel, fetch_ok _ (by decide +kernel)⟩, ⟨next_at _ (by decide +kernel), bad_word (by decide +kernel), by decide, fetch_ok _ (by decide +kernel)⟩,
    ⟨next_at _ (by decide +kernel), 0, false, false, 1, by decide +kernel,
      prefix_at (fun p => p.rndOk = true ∧ pfxLegal p.rv p.sat p.hi (.addi 5 17 0xBEEF) = true) _ _ _ (_, _) { hi := 1 } (by decide +kernel) (by decide +kernel)⟩,
    ⟨next_at _ (by decide +kernel), bad_word (by decide +kernel), by decide, prefix_at (fun p => p.rndOk = false) _ _ _ (_, _) { rnd := 5, rv := true, hi := 1 } rfl (by decide +kernel)⟩,
    ⟨⟨{ va := 0x10000, size := 1, pte := 0x100D5 }, by decide +kernel, by decide, by decide, by decide, by decide⟩, by decide +kernel, rfl,
      by decide +kernel, by decide +kernel, by decide +kernel⟩,
    ⟨by decide +kernel, by decide +kernel, by decide +kernel, nofun, by decide +kernel, by decide +kernel⟩,
    ⟨by decide +kernel, by decide +kernel, by decide +kernel, fun _ => by decide +kernel, by decide +kernel, by decide +kernel⟩,
    ⟨⟨by decide +kernel, by decide +kernel, by decide +kernel, nofun, by decide +kernel, by decide +kernel⟩,
      ⟨(nextAt ((State.reset.placeRing false 0).core 0) false + 11) / 8, ⟨by decide +kernel, by decide +kernel⟩, by decide +kernel⟩, by decide +kernel⟩,
    ⟨by decide +kernel, by decide +kernel⟩, ⟨by decide +kernel, by decide +kernel, by decide +kernel, by decide +kernel, by decide +kernel, by decide +kernel⟩, rfl, by decide +kernel⟩

/-- Well-formed instructions of each length, with their words, and the invariant's states. -/
theorem witness_EncodingsReadBack :
    (Instr.addi 31 31 0xFFFF).wf = true ∧ encode (.addi 31 31 0xFFFF) = some (32, ri 2 31 31 0xFFFF) ∧ ¬SamplerWord (.addi 31 31 0xFFFF) ∧
    Instr.smpEndp.wf = true ∧ encode .smpEndp = some (32, smp 1 0 0 0 0) ∧ SamplerWord .smpEndp ∧
    (∃ w, encode (.vadd traceWord) = some (96, w) ∧ w < 2 ^ 96 ∧ decodeRow w = .ok (.vadd traceWord)) ∧
    (∃ w, encode (.mmul mmulWord) = some (192, w) ∧ w < 2 ^ 192 ∧ decodeMat w = .ok (.mmul mmulWord)) :=
  ⟨by decide, by decide +kernel, nofun, by decide, by decide +kernel, .endp, ⟨_, rfl, by decide +kernel, by decide +kernel⟩, _, rfl, by decide +kernel, by decide +kernel⟩

/-- The state after reset meets the invariant, and steps. -/
theorem witness_StepsKeepCanonical : Canonical State.reset ∧ ∃ t, step State.reset = .next t :=
  ⟨⟨by decide +kernel, by decide +kernel, by decide +kernel⟩, step_ok (by decide +kernel)⟩

/-! ### One word of each engine: results worked out by hand -/

/-- 1 + 1 in every element that holds 1, and in no other. -/
theorem test_vadd_adds :
    let f : RowF := { fmt := 0x0A, d := 0x21001, a := 0x20001, b := 0x20001 }
    let s := rowingOf [] (fun k => { k with spad := k.spad.setNum 1020 4 0x3F800000 })
    elemAt (((after (.vadd f) s).core 0).rowRaw (.sp 32)) 4 255 = 0x40000000 ∧ elemAt (((after (.vadd f) s).core 0).rowRaw (.sp 32)) 4 254 = 0 := by decide +kernel
/-- 3 × 0.5 + 1 = 2.5 over the accumulator's old value. -/
theorem test_mmul_accumulates :
    let f : MatF := { afmt := 10, bfmt := 10, cfmt := 10, astr := 1, brow := 128, bstr := 1 }
    let s := matting (fun k => { k with
      spad := (k.spad.setNum 0 4 0x40400000).setNum (1024 * 128) 4 0x3F000000, acc := k.acc.setNum 0 4 0x3F800000, acctag := k.acctag.put {} 0 { valid := true } })
    ((after (.mmul f) s).core 0).acc.num 0 4 = 0x40200000 := by decide +kernel
/-- The exact accumulator takes 2^0 × 2^20 over 5 (07 R161). -/
theorem test_mmul_exact :
    let s := matting (fun k => { k with spad := (k.spad.setNum 0 1 0x40).setNum (1024 * 128) 1 0x40, acc := k.acc.setNum 0 4 5
                                        acctag := (k.acctag.put {} 0 { valid := true, kind := 2 }).put {} 1 { valid := true, kind := 2 } })
    ((after (.mmul exactWord) s).core 0).acc.num 0 4 = 2 ^ 20 + 5 := by decide +kernel
/-- The larger of 1 and 2 is slot 5. -/
theorem test_argmax : let q := (after (.smpArgmax 4) (sampling seq0)).seq 0; q.k.get 0 4 = 5 ∧ (q.x.get 0 4).toNat = 0x40000000 ∧ q.pc = 0x104 := by decide +kernel

end Sys2Proof.Tests
end

section
/-! The exact add of 07 R164: its integer operand, the digits it adds, the carry fold, and the sums of balanced bins. -/

namespace Sys2Proof.Machine
open Sys2Proof Sys2Proof.Stated

/-! ### The operand as an integer multiple of the lowest weight -/

theorem bitAt_eq_testBit (x i : Nat) : bitAt x i = x.testBit i := by
  rw [bitAt, Nat.testBit_eq_decide_div_mod_eq]
  rfl

theorem sext_eq_toInt (x n : Nat) : Sys2Proof.sext x n = (BitVec.ofNat n x).toInt := by
  rw [BitVec.toInt_eq_msb_cond, BitVec.msb_eq_getLsbD_last, ← BitVec.testBit_toNat, BitVec.toNat_ofNat, sext, bitAt_eq_testBit]
  push_cast
  rfl

/-- The value m * 2^e is a whole multiple of 2^q exactly where nothing remains. -/
theorem truncAt_eq_none_iff (m n : Nat) (e q : Int) :
    truncAt m e q = (n, none) ↔ n * 2 ^ (q - e).toNat = m * 2 ^ (e - q).toNat := by
  by_cases h : q ≤ e
  · have hz : (q - e).toNat = 0 := by omega
    simp [truncAt, h, hz, eq_comm]
  · have hz : (e - q).toNat = 0 := by omega
    have hd : 0 < 2 ^ (q - e).toNat := by positivity
    simp only [truncAt, h, if_false, hz, Prod.mk.injEq, ite_eq_left_iff, reduceCtorEq, imp_false, not_not, pow_zero, mul_one]
    constructor
    · rintro ⟨rfl, hr⟩
      exact Nat.div_mul_cancel (Nat.dvd_of_mod_eq_zero hr)
    · rintro rfl
      exact ⟨Nat.mul_div_cancel _ hd, Nat.mul_mod_left _ _⟩

theorem admits_num_iff (e0 : Int) (len : Nat) (neg : Bool) (m : Nat) (e k : Int) :
    Admits e0 len (.num neg m e) k ↔ m ≠ 0 ∧ ∃ n : Nat, truncAt m (e - e0) 0 = (n, none) ∧ n < 2 ^ (40 * (len - 1)) ∧
      k = (if neg then -(n : Int) else n) := by
  simp only [truncAt_eq_none_iff, zero_sub, neg_sub, sub_zero]
  constructor
  · rintro ⟨neg', m', e', n, h, hm, hn, hlt, hk⟩
    obtain ⟨rfl, rfl, rfl⟩ := Val.num.inj h
    exact ⟨hm, n, hn, hlt, hk⟩
  · rintro ⟨hm, n, hn, hlt, hk⟩
    exact ⟨neg, m, e, n, rfl, hm, hn, hlt, hk⟩

/-! ### The cases of R164 -/

theorem and_xWexc_ne_zero_iff (hdr : Nat) : hdr &&& xWexc ≠ 0 ↔ hdr.testBit 32 = true := by
  rw [xWexc, Nat.and_two_pow]
  cases hdr.testBit 32 <;> simp

theorem xobjAdd_num_unchanged (hdr : Nat) (bins : List Int) (neg : Bool) (m : Nat) (e : Int) (h : hdr.testBit 32 = true ∨ m = 0) :
    xobjAdd hdr bins (.num neg m e) = (hdr, bins) := by
  simp only [xobjAdd, and_xWexc_ne_zero_iff]
  exact if_pos (by simpa using h)

/-- An operand that the object does not admit exceeds its window. -/
theorem xobjAdd_not_admits (hdr : Nat) (bins : List Int) (neg : Bool) (m : Nat) (e : Int) (hw : hdr.testBit 32 = false) (hm : m ≠ 0)
    (h : ∀ k, ¬Admits (BitVec.ofNat 16 hdr).toInt bins.length (.num neg m e) k) :
    xobjAdd hdr bins (.num neg m e) = (hdr ||| xWexc, bins) := by
  simp only [xobjAdd, and_xWexc_ne_zero_iff, hw, sext_eq_toInt]
  rw [if_neg (by simpa using hm)]
  rcases ht : truncAt m (e - (BitVec.ofNat 16 hdr).toInt) 0 with ⟨n, rem⟩
  have hout : rem.isSome = true ∨ 2 ^ (40 * (bins.length - 1)) ≤ n := by
    by_contra hin
    simp only [not_or, Bool.not_eq_true, Option.isSome_eq_false_iff, Option.isNone_iff_eq_none, not_le] at hin
    obtain ⟨rfl, hlt⟩ := hin
    exact h _ ((admits_num_iff ..).2 ⟨hm, n, ht, hlt, rfl⟩)
  exact if_pos (by simpa using hout)

/-- An operand that the object admits has its digits added and the carries folded. -/
theorem xobjAdd_of_admits (hdr : Nat) (bins : List Int) (x : Val) (k : Int) (hw : hdr.testBit 32 = false)
    (h : Admits (BitVec.ofNat 16 hdr).toInt bins.length x k) :
    ∃ (neg : Bool) (n : Nat), n < 2 ^ (40 * (bins.length - 1)) ∧ k = (if neg then -(n : Int) else n) ∧
      let folded := carryFold (addDigits neg n bins)
      let top := folded.getLastD 0
      xobjAdd hdr bins x = (if -(2 ^ 63) ≤ top ∧ top < 2 ^ 63 then hdr else hdr ||| xWexc, folded) := by
  obtain ⟨neg, m, e, -, rfl, -⟩ := id h
  obtain ⟨hm, n, ht, hlt, hk⟩ := (admits_num_iff ..).1 h
  refine ⟨neg, n, hlt, hk, ?_⟩
  simp only [xobjAdd, and_xWexc_ne_zero_iff, hw, sext_eq_toInt, ht]
  rw [if_neg (by simpa using hm), if_neg (by simpa using hlt)]
  simp only [decide_eq_true_eq]

/-! ### The digits of the operand -/

@[simp] theorem addDigits_length (neg : Bool) (n : Nat) (bins : List Int) : (addDigits neg n bins).length = bins.length := by
  induction bins generalizing n with
  | nil => rfl
  | cons x r ih => simp [addDigits, ih]

/-- A number that fits the bins is the sum of its digits. -/
theorem xobjSum_addDigits (neg : Bool) (n : Nat) (bins : List Int) (h : n < 2 ^ (40 * bins.length)) :
    xobjSum (addDigits neg n bins) = xobjSum bins + (if neg then -(n : Int) else n) := by
  induction bins generalizing n with
  | nil =>
    obtain rfl : n = 0 := by simpa using h
    simp [addDigits, xobjSum]
  | cons x r ih =>
    have hq : n / 2 ^ 40 < 2 ^ (40 * r.length) := by
      rw [Nat.div_lt_iff_lt_mul (by positivity), ← Nat.pow_add]
      exact h
    have hdigit : (n : Int) = (n % 2 ^ 40 : Nat) + 2 ^ 40 * (n / 2 ^ 40 : Nat) := by omega
    simp only [addDigits, xobjSum, ih _ hq]
    cases neg <;> simp only [Bool.false_eq_true, if_true, if_false] <;> linarith

/-! ### The carry fold -/

/-- The fold of a bin and those above it, entered with a carry of 0. -/
theorem carryFold_cons (x : Int) (r : List Int) : carryFold (x :: r) = carryFold.carryFold' 0 x r := by
  cases r <;> simp [carryFold, carryFold.carryFold']

@[simp] theorem carryFold'_length (c y : Int) (r : List Int) : (carryFold.carryFold' c y r).length = r.length + 1 := by
  induction r generalizing c y with
  | nil => rfl
  | cons z r ih => simp [carryFold.carryFold', ih]

theorem xobjSum_carryFold' (c y : Int) (r : List Int) : xobjSum (carryFold.carryFold' c y r) = c + xobjSum (y :: r) := by
  induction r generalizing c y with
  | nil => simp only [carryFold.carryFold', xobjSum]; ring
  | cons z r ih => simp only [carryFold.carryFold', xobjSum, ih]; ring

theorem balanced_cons (x : Int) (l : List Int) (h : l ≠ []) : Stated.Balanced (x :: l) ↔ (-(2 ^ 39) ≤ x ∧ x < 2 ^ 39) ∧ Stated.Balanced l := by
  simp [Stated.Balanced, List.dropLast_cons_of_ne_nil h]

/-- Taking its carry from a bin leaves a balanced digit. -/
theorem sub_carry_balanced (x : Int) : -(2 ^ 39) ≤ x - (x + 2 ^ 39) / 2 ^ 40 * 2 ^ 40 ∧ x - (x + 2 ^ 39) / 2 ^ 40 * 2 ^ 40 < 2 ^ 39 := by
  omega

theorem balanced_carryFold' (c y : Int) (r : List Int) : Stated.Balanced (carryFold.carryFold' c y r) := by
  induction r generalizing c y with
  | nil => simp [carryFold.carryFold', Stated.Balanced]
  | cons z r ih =>
    have hne (d : Int) : carryFold.carryFold' d z r ≠ [] := List.ne_nil_of_length_pos (by simp)
    exact (balanced_cons _ _ (hne _)).2 ⟨sub_carry_balanced (y + c), ih _ _⟩

@[simp] theorem carryFold_length (bins : List Int) : (carryFold bins).length = bins.length := by
  cases bins with
  | nil => rfl
  | cons x r => rw [carryFold_cons, carryFold'_length, List.length_cons]

/-- The fold moves weight between bins and keeps the sum. -/
theorem xobjSum_carryFold (bins : List Int) : xobjSum (carryFold bins) = xobjSum bins := by
  cases bins with
  | nil => rfl
  | cons x r => rw [carryFold_cons, xobjSum_carryFold', zero_add]

theorem balanced_carryFold (bins : List Int) : Stated.Balanced (carryFold bins) := by
  cases bins with
  | nil => simp [carryFold, Stated.Balanced]
  | cons x r => rw [carryFold_cons]; exact balanced_carryFold' 0 x r

/-! ### Balanced bins and their sum -/

/-- The bins below the top of two balanced lists of one length differ by less than the top's weight. -/
theorem abs_xobjSum_sub_sub_top_lt (x y : Int) (a b : List Int) (hl : a.length = b.length) (ha : Stated.Balanced (x :: a)) (hb : Stated.Balanced (y :: b)) :
    |xobjSum (x :: a) - xobjSum (y :: b) - 2 ^ (40 * a.length) * (a.getLastD x - b.getLastD y)| < 2 ^ (40 * a.length) := by
  induction a generalizing x y b with
  | nil =>
    obtain rfl : b = [] := by simpa using hl.symm
    simp [xobjSum]
  | cons x' a ih =>
    cases b with
    | nil => simp at hl
    | cons y' b =>
      obtain ⟨hx, ha⟩ := (balanced_cons _ _ (List.cons_ne_nil _ _)).1 ha
      obtain ⟨hy, hb⟩ := (balanced_cons _ _ (List.cons_ne_nil _ _)).1 hb
      have hrest := ih x' y' b (by simpa using hl) ha hb
      have hpow : (2 : Int) ^ (40 * (x' :: a).length) = 2 ^ 40 * 2 ^ (40 * a.length) := by rw [← pow_add]; congr 1; simp; omega
      simp only [List.getLastD_cons, hpow, mul_assoc, xobjSum.eq_2 x, xobjSum.eq_2 y]
      rw [abs_lt] at hrest ⊢
      generalize xobjSum (x' :: a) = A at *
      generalize xobjSum (y' :: b) = B at *
      generalize (2 : Int) ^ (40 * a.length) * (a.getLastD x' - b.getLastD y') = T at *
      omega

/-- An operand below the top's weight moves the top of balanced bins by at most 1. -/
theorem top_moves_at_most_one (bins bins' : List Int) (k : Int) (hne : bins ≠ []) (hl : bins'.length = bins.length) (hb : Stated.Balanced bins)
    (hb' : Stated.Balanced bins') (hs : xobjSum bins' = xobjSum bins + k) (hk : |k| < 2 ^ (40 * (bins.length - 1))) :
    bins.getLastD 0 - 1 ≤ bins'.getLastD 0 ∧ bins'.getLastD 0 ≤ bins.getLastD 0 + 1 := by
  obtain ⟨y, b, rfl⟩ := List.exists_cons_of_ne_nil hne
  obtain ⟨x, a, rfl⟩ := List.exists_cons_of_length_eq_add_one hl
  have hlow := abs_xobjSum_sub_sub_top_lt x y a b (by simpa using hl) hb' hb
  simp only [List.length_cons, Nat.add_right_cancel_iff] at hl
  rw [List.length_cons, Nat.add_sub_cancel, ← hl] at hk
  have hW : (0 : Int) < 2 ^ (40 * a.length) := by positivity
  have hlt : |2 ^ (40 * a.length) * (a.getLastD x - b.getLastD y)| < 2 ^ (40 * a.length) * 2 := by
    rw [abs_lt] at *
    constructor <;> linarith
  rw [abs_mul, abs_of_pos hW, mul_lt_mul_iff_right₀ hW, abs_lt] at hlt
  simp only [List.getLastD_cons]
  omega

/-- Settles O18: an admitted operand's digits are added and folded, the fold keeps the sum and balances the bins below the top, and two balanced lists whose sums differ by less than the top's weight differ by at most 1 at the top. -/
theorem exactAddIsExact : Obligations.ExactAddIsExact := by
  intro hdr bins hne e0
  refine ⟨fun _ => rfl, fun _ => rfl, fun neg m e => xobjAdd_num_unchanged hdr bins neg m e,
    fun neg m e hw hm => xobjAdd_not_admits hdr bins neg m e hw hm, fun x k hw hx => ?_⟩
  obtain ⟨neg, n, hn, rfl, hadd⟩ := xobjAdd_of_admits hdr bins x k hw hx
  have hsum : xobjSum (carryFold (addDigits neg n bins)) = xobjSum bins + (if neg then -(n : Int) else n) := by
    rw [xobjSum_carryFold, xobjSum_addDigits neg n bins (hn.trans_le (Nat.pow_le_pow_right (by decide) (by omega)))]
  have hlen : (carryFold (addDigits neg n bins)).length = bins.length := by simp
  have hk : |if neg then -(n : Int) else n| < 2 ^ (40 * (bins.length - 1)) := by
    cases neg <;> simpa using mod_cast hn
  rw [hadd]
  exact ⟨rfl, hlen, hsum, balanced_carryFold _, fun hb => top_moves_at_most_one _ _ _ hne hlen hb (balanced_carryFold _) hsum hk⟩

end Sys2Proof.Machine
end

section
/-! The integer functions and immediates of 13 R265 and R266: the model's arithmetic over natural numbers read as 64-bit words, the register operations of one and two sources, and the words of R265's table. -/

namespace Sys2Proof.Machine
open Sys2Proof Sys2Proof.Stated

/-! ### Natural numbers as 64-bit words -/

theorem w64_toNat (x : W64) : w64 x.toNat = x := by simp

@[simp] theorem w64_wrapNat (x : Int) : w64 (wrapNat x 64) = ofI x := by
  apply BitVec.eq_of_toNat_eq
  rw [BitVec.toNat_ofNat, BitVec.toNat_ofInt, wrapNat]
  exact Nat.mod_eq_of_lt (by omega)

@[simp] theorem s64_toNat (x : W64) : s64 x.toNat = x.toInt := by
  rw [s64, sext_eq_toInt, BitVec.ofNat_toNat, BitVec.setWidth_eq]

theorem ofInt_toInt_sub_toInt (x y : W64) : ofI (x.toInt - y.toInt) = x - y := by
  rw [sub_eq_add_neg, ofI, BitVec.ofInt_add, BitVec.ofInt_neg, BitVec.ofInt_toInt, BitVec.ofInt_toInt, BitVec.sub_eq_add_neg]

theorem toNat_eq_zero_iff (x : W64) : x.toNat = 0 ↔ x = 0 := by
  rw [← BitVec.toNat_inj]; rfl

theorem w64_sra (x : W64) (n : Nat) : w64 (wrapNat (s64 x.toNat / 2 ^ n) 64) = ofI (x.toInt / 2 ^ n) := by simp

theorem w64_mulh (x y : W64) : w64 (wrapNat (s64 x.toNat * s64 y.toNat / 2 ^ 64) 64) = ofI (x.toInt * y.toInt / 2 ^ 64) := by simp

theorem w64_divS (x y : W64) : w64 (divS x.toNat y.toNat) = if y = 0 then BitVec.allOnes 64 else ofI (x.toInt.tdiv y.toInt) := by
  simp only [divS, toNat_eq_zero_iff]
  split
  · rfl
  · simp

theorem w64_divU (x y : W64) :
    w64 (if y.toNat = 0 then 2 ^ 64 - 1 else x.toNat / y.toNat) = if y = 0 then BitVec.allOnes 64 else ofN (x.toNat / y.toNat) := by
  simp only [toNat_eq_zero_iff]
  split <;> rfl

theorem w64_remS (x y : W64) : w64 (remS x.toNat y.toNat) = if y = 0 then x else ofI (x.toInt - y.toInt * x.toInt.tdiv y.toInt) := by
  simp only [remS, toNat_eq_zero_iff]
  split <;> simp

theorem w64_remU (x y : W64) : w64 (if y.toNat = 0 then x.toNat else x.toNat % y.toNat) = if y = 0 then x else ofN (x.toNat % y.toNat) := by
  simp only [toNat_eq_zero_iff]
  split
  · exact w64_toNat x
  · rfl

theorem w64_minS (x y : W64) : w64 (if s64 x.toNat ≤ s64 y.toNat then x.toNat else y.toNat) = ofI (min x.toInt y.toInt) := by
  simp only [s64_toNat, min_def]
  split <;> simp

theorem w64_maxS (x y : W64) : w64 (if s64 x.toNat ≤ s64 y.toNat then y.toNat else x.toNat) = ofI (max x.toInt y.toInt) := by
  simp only [s64_toNat, max_def]
  split <;> simp

theorem w64_minU (x y : W64) : w64 (if x.toNat ≤ y.toNat then x.toNat else y.toNat) = ofN (min x.toNat y.toNat) := by
  rw [min_def]

theorem w64_maxU (x y : W64) : w64 (if x.toNat ≤ y.toNat then y.toNat else x.toNat) = ofN (max x.toNat y.toNat) := by
  rw [max_def]

theorem w64_sext (x : W64) (n : Nat) : w64 (wrapNat (Sys2Proof.sext x.toNat n) 64) = (x.setWidth n).signExtend 64 := by
  rw [w64_wrapNat, sext_eq_toInt, BitVec.ofNat_toNat]
  rfl

theorem w64_zext (x : W64) (n : Nat) : w64 (x.toNat % 2 ^ n) = (x.setWidth n).setWidth 64 := by
  apply BitVec.eq_of_toNat_eq
  simp

/-! ### Counts of bits -/

/-- A number below 2^(w+1) is its low w bits where bit w is clear. -/
theorem lt_two_pow_of_testBit_eq_false {x w : Nat} (h : x < 2 ^ (w + 1)) (hb : x.testBit w = false) : x < 2 ^ w := by
  by_contra hle
  rw [Nat.testBit_of_two_pow_le_and_two_pow_add_one_gt (not_lt.1 hle) h] at hb
  cases hb

theorem bitLen_le {x w : Nat} (h : x < 2 ^ w) : bitLen x ≤ w := by
  unfold bitLen
  split
  · exact Nat.zero_le w
  · exact (Nat.log2_lt ‹_›).2 h

theorem bitLen_of_testBit {x w : Nat} (h : x < 2 ^ (w + 1)) (hb : x.testBit w = true) : bitLen x = w + 1 := by
  have hle : 2 ^ w ≤ x := Nat.ge_two_pow_of_testBit hb
  have hne : x ≠ 0 := by rintro rfl; simp at hb
  rw [bitLen, if_neg hne, (Nat.log2_eq_iff hne).2 ⟨hle, h⟩]

/-- The leading zeros of a number of w bits are those that its length leaves. -/
theorem length_takeWhile_leading {x w : Nat} (h : x < 2 ^ w) :
    ((List.range w).takeWhile (fun i => !x.testBit (w - 1 - i))).length = w - bitLen x := by
  induction w with
  | zero => simp
  | succ w ih =>
    rw [List.range_succ_eq_map]
    cases hb : x.testBit w with
    | true => simp [hb, bitLen_of_testBit h hb]
    | false =>
      have hx := lt_two_pow_of_testBit_eq_false h hb
      have hle := bitLen_le hx
      have hrest : (fun i => !x.testBit (w - i)) ∘ Nat.succ = fun i => !x.testBit (w - 1 - i) := by
        funext i; simp [Nat.sub_sub, Nat.add_comm 1]
      simp [hb, List.takeWhile_map, hrest, ih hx, Nat.sub_add_comm hle]

theorem length_takeWhile_trailing (w x : Nat) : ((List.range w).takeWhile (fun i => !x.testBit i)).length = trailZeros w x := by
  induction w generalizing x with
  | zero => rfl
  | succ w ih =>
    have hrest : (fun i => !(x / 2).testBit i) = (fun i => !x.testBit i) ∘ Nat.succ := by
      funext i; simp [Nat.testBit_succ]
    rw [List.range_succ_eq_map, trailZeros, ← ih, hrest]
    by_cases hb : x % 2 = 1
    · simp [Nat.testBit_zero, hb]
    · simp [Nat.testBit_zero, hb, List.takeWhile_map, Nat.add_comm]

theorem length_filter_testBit (w x : Nat) : ((List.range w).filter x.testBit).length = popCount w x := by
  induction w generalizing x with
  | zero => rfl
  | succ w ih =>
    have hrest : (x / 2).testBit = x.testBit ∘ Nat.succ := by
      funext i; simp [Nat.testBit_succ]
    rw [List.range_succ_eq_map, popCount, ← ih, hrest]
    rcases Nat.mod_two_eq_zero_or_one x with hb | hb
    · simp [Nat.testBit_zero, hb, List.filter_map]
    · simp [Nat.testBit_zero, hb, List.filter_map, Nat.add_comm]

theorem w64_clz (x : W64) : w64 (64 - bitLen x.toNat) = ofN (zerosBefore (fun i => x.getLsbD (63 - i))) :=
  congrArg ofN (length_takeWhile_leading x.isLt).symm

theorem w64_ctz (x : W64) : w64 (trailZeros 64 x.toNat) = ofN (zerosBefore x.getLsbD) :=
  congrArg ofN (length_takeWhile_trailing 64 x.toNat).symm

theorem w64_popc (x : W64) : w64 (popCount 64 x.toNat) = ofN ((List.range 64).filter x.getLsbD).length :=
  congrArg ofN (length_filter_testBit 64 x.toNat).symm

/-! ### Clamped results (07 R148) -/

@[simp] theorem clamp64_false (r : Int) : clamp64 false r = (wrapNat r 64, 0) := rfl

/-- With .sat, the result is the nearest number of the signed range, and SAT says that it is not the exact one. -/
theorem clamp64_true (r : Int) :
    clamp64 true r = (wrapNat (max (-2 ^ 63) (min (2 ^ 63 - 1) r)) 64, if r < -2 ^ 63 ∨ 2 ^ 63 - 1 < r then 32 else 0) := by
  have h : clamp64 true r = if r < -2 ^ 63 then (wrapNat (-2 ^ 63) 64, 32)
      else if 2 ^ 63 - 1 < r then (wrapNat (2 ^ 63 - 1) 64, 32) else (wrapNat r 64, 0) := by
    simp only [clamp64, wrapInt, Bool.true_and, decide_eq_true_eq]
    rfl
  rw [h]
  by_cases hlo : r < -2 ^ 63
  · rw [if_pos hlo, if_pos (.inl hlo), min_eq_right (by omega), max_eq_left (by omega)]
  by_cases hhi : 2 ^ 63 - 1 < r
  · rw [if_neg hlo, if_pos hhi, if_pos (.inr hhi), min_eq_left (by omega), max_eq_right (by omega)]
  · rw [if_neg hlo, if_neg hhi, if_neg (by omega), min_eq_right (by omega), max_eq_right (by omega)]

/-! ### Immediates (12 R241) -/

theorem toNat_ofNat_append_ofNat (m w h f : Nat) : (BitVec.ofNat m h ++ BitVec.ofNat w f).toNat = h % 2 ^ m * 2 ^ w + f % 2 ^ w := by
  rw [BitVec.toNat_append, BitVec.toNat_ofNat, BitVec.toNat_ofNat, ← Nat.shiftLeft_add_eq_or_of_lt (Nat.mod_lt _ (by positivity)), Nat.shiftLeft_eq]

/-- HI21 over a field of w bits is one pattern of w + 21 bits. -/
theorem ofNat_append_ofNat (m w h f : Nat) : BitVec.ofNat m h ++ BitVec.ofNat w f = BitVec.ofNat (m + w) (h * 2 ^ w + f % 2 ^ w) := by
  apply BitVec.eq_of_toNat_eq
  have hf : f % 2 ^ w < 2 ^ w := Nat.mod_lt _ (by positivity)
  rw [toNat_ofNat_append_ofNat, BitVec.toNat_ofNat, Nat.pow_add, Nat.mul_comm (2 ^ m), Nat.mod_mul,
    Nat.add_comm (h * 2 ^ w), Nat.add_mul_mod_self_right, Nat.mod_mod, Nat.add_mul_div_right _ _ (by positivity), Nat.div_eq_of_lt hf, Nat.zero_add]
  ring

theorem immS_eq_signedImm (q : Ctx) (w f : Nat) : immS q w f = signedImm q w f := by
  unfold immS signedImm hiOf
  cases q.pfx with
  | none => exact sext_eq_toInt f w
  | some p =>
    simp only [Option.map_some, sext_eq_toInt, ofNat_append_ofNat, Nat.add_comm w 21]

theorem immZ_eq_unsignedImm (q : Ctx) (f : Nat) (h : ∀ p, q.pfx = some p → p.hi < 2 ^ 21) : immZ q f = unsignedImm q f := by
  unfold immZ unsignedImm hiOf
  cases hp : q.pfx with
  | none => simp
  | some p => 
    simp only [Option.map_some, Option.getD_some, toNat_ofNat_append_ofNat, Nat.mod_eq_of_lt (h p hp)]

theorem immHi_eq_highImm (q : Ctx) (f : Nat) : immHi q f = highImm q f := by
  unfold immHi highImm hiOf
  cases q.pfx with
  | none => simp
  | some p => simp only [Option.map_some, Option.getD_some, toNat_ofNat_append_ofNat]

/-! ### Register operations without flags, and those that may clamp -/

variable {s : State} {c x d a b : Nat} {srcs : List Nat}

/-- An instruction that computes a register and sets no flag completes. -/
theorem regOp_unflagged_ok {f : Ctx → List Nat → Nat} {v : W64} (hv : w64 (f (s.cx c x) (srcs.map (fun r => (src s c x r).toNat))) = v)
    (hi : Issues s c x) (hu : Usable (s.core c) x srcs (some d)) :
    ∃ t, regOp srcs d (fun q vs => (f q vs, 0)) s = .next t ∧ RegEffect s t c x srcs (some d) v 0 :=
  hv ▸ regOp_ok _ hi hu

theorem regOp2_ok {f : Nat → Nat → Nat} {g : W64 → W64 → W64} (hf : ∀ u v : W64, w64 (f u.toNat v.toNat) = g u v)
    (hi : Issues s c x) (hu : Usable (s.core c) x [a, b] (some d)) :
    ∃ t, regOp2 d a b f s = .next t ∧ RegEffect s t c x [a, b] (some d) (two g ([a, b].map (src s c x))) 0 :=
  regOp_unflagged_ok (hf (src s c x a) (src s c x b)) hi hu

theorem regOp1_ok {f : Nat → Nat} {g : W64 → W64} (hf : ∀ u : W64, w64 (f u.toNat) = g u)
    (hi : Issues s c x) (hu : Usable (s.core c) x [a] (some d)) :
    ∃ t, regOp1 d a f s = .next t ∧ RegEffect s t c x [a] (some d) (one g ([a].map (src s c x))) 0 :=
  regOp_unflagged_ok (hf (src s c x a)) hi hu

theorem immOp1_ok {f : Ctx → Nat → Nat} {g : W64 → W64} (hf : ∀ u : W64, w64 (f (s.cx c x) u.toNat) = g u)
    (hi : Issues s c x) (hu : Usable (s.core c) x [a] (some d)) :
    ∃ t, immOp d [a] f s = .next t ∧ RegEffect s t c x [a] (some d) (one g ([a].map (src s c x))) 0 :=
  regOp_unflagged_ok (hf (src s c x a)) hi hu

theorem immOp0_ok {f : Ctx → Nat → Nat} {v : W64} (hf : w64 (f (s.cx c x) 0) = v)
    (hi : Issues s c x) (hu : Usable (s.core c) x [] (some d)) :
    ∃ t, immOp d [] f s = .next t ∧ RegEffect s t c x [] (some d) v 0 :=
  regOp_unflagged_ok hf hi hu

/-- add, sub and mul complete with their exact result, clamped where the word carries .sat. -/
theorem clampOp_ok (g : Int → Int → Int) (hi : Issues s c x) (hu : Usable (s.core c) x [a, b] (some d)) :
    ∃ t, regOp [a, b] d (fun q vs => clamp64 (satOf q) (g (s64 (vs.getD 0 0)) (s64 (vs.getD 1 0)))) s = .next t ∧
      RegEffect s t c x [a, b] (some d) (w64 (clamp64 (satOf (s.cx c x)) (g (src s c x a).toInt (src s c x b).toInt)).1)
        (clamp64 (satOf (s.cx c x)) (g (src s c x a).toInt (src s c x b).toInt)).2 := by
  simpa using regOp_ok (fun q vs => clamp64 (satOf q) (g (s64 (vs.getD 0 0)) (s64 (vs.getD 1 0)))) hi hu

theorem clampOp_unsaturated_ok {g : Int → Int → Int} {h : W64 → W64 → W64} (hg : ∀ u v : W64, ofI (g u.toInt v.toInt) = h u v)
    (hsat : satOf (s.cx c x) = false) (hi : Issues s c x) (hu : Usable (s.core c) x [a, b] (some d)) :
    ∃ t, regOp [a, b] d (fun q vs => clamp64 (satOf q) (g (s64 (vs.getD 0 0)) (s64 (vs.getD 1 0)))) s = .next t ∧
      RegEffect s t c x [a, b] (some d) (two h ([a, b].map (src s c x))) 0 := by
  have hc := clampOp_ok g hi hu
  rw [hsat, clamp64_false, w64_wrapNat, hg] at hc
  exact hc

/-! ### The clauses of R265 and R266 -/

theorem intForm_completes {i : Instr} {g : List W64 → W64} (hf : IntForm i d srcs g) (hi : Issues s c x) (hsat : satOf (s.cx c x) = false)
    (hu : Usable (s.core c) x srcs (some d)) : ∃ t, exec i s = .next t ∧ RegEffect s t c x srcs (some d) (g (srcs.map (src s c x))) 0 := by
  cases hf with
  | add => rw [exec_add]; exact clampOp_unsaturated_ok (g := (· + ·)) (fun u v => by simp [BitVec.ofInt_add]) hsat hi hu
  | sub => rw [exec_sub]; exact clampOp_unsaturated_ok (g := (· - ·)) (ofInt_toInt_sub_toInt) hsat hi hu
  | mul => rw [exec_mul]; exact clampOp_unsaturated_ok (g := (· * ·)) (fun _ _ => rfl) hsat hi hu
  | iand => rw [exec_iand]; exact regOp2_ok (fun u v => w64_toNat (u &&& v)) hi hu
  | ior => rw [exec_ior]; exact regOp2_ok (fun u v => w64_toNat (u ||| v)) hi hu
  | ixor => rw [exec_ixor]; exact regOp2_ok (fun u v => w64_toNat (u ^^^ v)) hi hu
  | sll => rw [exec_sll]; exact regOp2_ok (fun _ _ => rfl) hi hu
  | srl => rw [exec_srl]; exact regOp2_ok (fun _ _ => rfl) hi hu
  | sra => rw [exec_sra]; exact regOp2_ok (fun u v => w64_sra u (v.toNat % 64)) hi hu
  | mulh => rw [exec_mulh]; exact regOp2_ok w64_mulh hi hu
  | mulhu => rw [exec_mulhu]; exact regOp2_ok (fun _ _ => rfl) hi hu
  | div => rw [exec_div]; exact regOp2_ok w64_divS hi hu
  | divu => rw [exec_divu]; exact regOp2_ok w64_divU hi hu
  | rem => rw [exec_rem]; exact regOp2_ok w64_remS hi hu
  | remu => rw [exec_remu]; exact regOp2_ok w64_remU hi hu
  | min => rw [exec_min]; exact regOp2_ok w64_minS hi hu
  | max => rw [exec_max]; exact regOp2_ok w64_maxS hi hu
  | minu => rw [exec_minu]; exact regOp2_ok w64_minU hi hu
  | maxu => rw [exec_maxu]; exact regOp2_ok w64_maxU hi hu
  | clz => rw [exec_clz]; exact regOp1_ok w64_clz hi hu
  | ctz => rw [exec_ctz]; exact regOp1_ok w64_ctz hi hu
  | popc => rw [exec_popc]; exact regOp1_ok w64_popc hi hu
  | sext _ _ fmt => rw [exec_sext]; exact regOp1_ok (fun u => w64_sext u (8 * 2 ^ fmt)) hi hu
  | zext _ _ fmt => rw [exec_zext]; exact regOp1_ok (fun u => w64_zext u (8 * 2 ^ (fmt - 4))) hi hu

theorem satForm_completes {i : Instr} {g : Int → Int → Int} (hf : SatForm i d [a, b] g) (hi : Issues s c x) (hsat : satOf (s.cx c x) = true)
    (hu : Usable (s.core c) x [a, b] (some d)) :
    let r := g (src s c x a).toInt (src s c x b).toInt
    ∃ t, exec i s = .next t ∧ RegEffect s t c x [a, b] (some d) (ofI (max (-2 ^ 63) (min (2 ^ 63 - 1) r)))
      (if r < -2 ^ 63 ∨ 2 ^ 63 - 1 < r then 32 else 0) := by
  have hc := clampOp_ok g hi hu
  rw [hsat, clamp64_true, w64_wrapNat] at hc
  cases hf with
  | add => rw [exec_add]; exact hc
  | sub => rw [exec_sub]; exact hc
  | mul => rw [exec_mul]; exact hc

theorem immForm_completes {i : Instr} {g : List W64 → W64} (hf : ImmForm (s.cx c x) i d srcs g) (hi : Issues s c x)
    (hp : ∀ p, (s.cx c x).pfx = some p → p.hi < 2 ^ 21) (hu : Usable (s.core c) x srcs (some d)) :
    ∃ t, exec i s = .next t ∧ RegEffect s t c x srcs (some d) (g (srcs.map (src s c x))) 0 := by
  cases hf with
  | addi _ _ imm => rw [exec_addi]; exact immOp1_ok (fun u => by rw [immS_eq_signedImm, w64_wrapNat]) hi hu
  | andi _ _ imm => rw [exec_andi]; exact immOp1_ok (fun u => by rw [immZ_eq_unsignedImm _ _ hp]; simp) hi hu
  | ori _ _ imm => rw [exec_ori]; exact immOp1_ok (fun u => by rw [immZ_eq_unsignedImm _ _ hp]; simp) hi hu
  | xori _ _ imm => rw [exec_xori]; exact immOp1_ok (fun u => by rw [immZ_eq_unsignedImm _ _ hp]; simp) hi hu
  | slli => rw [exec_slli]; exact immOp1_ok (fun _ => rfl) hi hu
  | srli => rw [exec_srli]; exact immOp1_ok (fun _ => rfl) hi hu
  | srai _ _ n => rw [exec_srai]; exact immOp1_ok (fun u => w64_sra u n) hi hu
  | movi => rw [exec_movi]; exact immOp0_ok (by rw [immS_eq_signedImm, w64_wrapNat]) hi hu
  | movhi => rw [exec_movhi]; exact immOp0_ok (by rw [immHi_eq_highImm]) hi hu

end Sys2Proof.Machine

namespace Sys2Proof
open Stated

/-! ### The words of R265's table -/

/-- A word of major opcode 0x01 is read by the table of integer functions. -/
theorem decodeScalar_major1 {d a b fn m : Nat} (hd : d < 32) (ha : a < 32) (hb : b < 32) (hfn : fn < 64) (hm : m < 32) :
    decodeScalar (2 ^ 26 + d * 2 ^ 21 + a * 2 ^ 16 + b * 2 ^ 11 + fn * 2 ^ 5 + m) = decInt d a b fn m := by
  generalize hw : 2 ^ 26 + d * 2 ^ 21 + a * 2 ^ 16 + b * 2 ^ 11 + fn * 2 ^ 5 + m = w
  have hmaj : w / 2 ^ 26 = 1 := by omega
  have hD : bitsOf w 25 21 = d := by simp only [bitsOf]; omega
  have hA : bitsOf w 20 16 = a := by simp only [bitsOf]; omega
  have hB : bitsOf w 15 11 = b := by simp only [bitsOf]; omega
  have hFN : bitsOf w 10 5 = fn := by simp only [bitsOf]; omega
  have hMOD : bitsOf w 4 0 = m := by simp only [bitsOf]; omega
  simp only [decodeScalar, hmaj, hD, hA, hB, hFN, hMOD]

theorem intWord_fields_lt {d a b fn m : Nat} {i : Instr} (h : IntWord d a b fn m i) : fn < 64 ∧ m < 32 := by
  cases h <;> omega

theorem decInt_of_intWord {d a b fn m : Nat} {i : Instr} (h : IntWord d a b fn m i) : decInt d a b fn m = .ok i := by
  cases h with
  | clz one | ctz one | popc one => subst one; rfl
  | sext one fmt hfmt => simp [decInt, accept, one, hfmt]
  | zext one fmt lo hfmt => simp [decInt, accept, one, lo, hfmt]
  | _ => rfl

/-- A one-source word with a nonzero B is none. -/
theorem decInt_oneSource_ne_ok {d a b fn : Nat} (m : Nat) (i : Instr) (hlo : 0x13 ≤ fn) (hhi : fn ≤ 0x17) (hb : b ≠ 0) : decInt d a b fn m ≠ .ok i := by
  interval_cases fn <;> simp [decInt, accept, hb]

end Sys2Proof

namespace Sys2Proof.Machine
open Sys2Proof Sys2Proof.Stated

/-- Settles O1: each form is one of the model's register operations, whose arithmetic over natural numbers is that of the table on 64-bit words; a word of major opcode 0x01 is read by decInt. -/
theorem integerFunctions : Obligations.IntegerFunctions := by
  refine ⟨fun s c x i d srcs g hf hi hsat hu => intForm_completes hf hi hsat hu, fun d a b fn m hd ha hb => ⟨fun i hw => ?_, fun i hlo hhi hm hne => ?_⟩,
    fun s c x i d a b g hf hi hsat hu => satForm_completes hf hi hsat hu, fun s c x i d srcs g hf hi hp hu => immForm_completes hf hi hp hu⟩
  · obtain ⟨hfn, hm⟩ := intWord_fields_lt hw
    rw [decodeScalar_major1 hd ha hb hfn hm, decInt_of_intWord hw]
  · rw [decodeScalar_major1 hd ha hb (by omega) hm]
    exact decInt_oneSource_ne_ok m i hlo hhi hne

end Sys2Proof.Machine
end
